-- ==== Sys2Proof/Word.lean ====
section
/-!
DEFINITION. The word types of the W1152 model: a register is 32 bits (R7), memory is bytes.
-/

namespace Sys2Proof

/-- One register word (R7). -/
abbrev Word := BitVec 32

/-- One byte of memory or of a frame. -/
abbrev Byte := BitVec 8

/-- A byte of memory at an address, the form of `Host.Cell`. -/
abbrev ByteAt := Nat × Byte

end Sys2Proof
end

