-- ==== Sys2Proof/Syntax.lean ====
section
/-!
DEFINITION. The commands of the W1152 as a block: one constructor of `Instr` for each row of
spec/opcode_table.json, with the operands that the world outside supplies. Frames and messages are
given with the fields of the spec's layouts; analog readings, test results, peers' answers and
error findings are operands, because they come from outside the block.
-/

namespace Sys2Proof

/-- The requester classes of R63: numbers 0 to 4 in this order. -/
inductive Requester where
  | admin | operator | telemetry | firmware | flow
  deriving DecidableEq, Repr

/-- A KRT frame as the host port receives it (R71, R72). The operation code is the row's own.
`size` is the whole frame with its FCS in bytes; `respFlag` is FLAGS bit 0 and `flagsHigh`
are FLAGS bits 3:1. -/
structure KrtFrame where
  dst : BitVec 48
  src : BitVec 48
  etype : BitVec 16
  ver : BitVec 4
  respFlag : Bool
  flagsHigh : BitVec 3
  sid : BitVec 16
  seq : Word
  tag : BitVec 16
  status : BitVec 16
  length : BitVec 16
  space : Byte
  address : BitVec 64
  payload : List Byte
  auth : List Byte
  size : Nat
  deriving DecidableEq, Repr

/-- A write that a port B requester makes to a mailbox word in the same cycle (R415).
`requester` is 1 or 2 for a management core, 3 for another writer; `other` is 0 for the boot ROM
loader and 1 for the Blotter; `bytes` are the bytes it writes (none where it does not). -/
structure MbxPortB where
  requester : BitVec 2
  other : BitVec 2
  portBFirst : Bool
  bytes : List (Option Byte)
  deriving DecidableEq, Repr

/-- An ECC finding of a read (R129, R130): the granule address and whether it is uncorrectable. -/
structure EccHit where
  addr : Nat
  bad : Bool
  deriving DecidableEq, Repr

/-- A DIMM's SPD contents as R123 and R124 use them. `width` is 0 for x4 and 1 for x8, `dens` 0 to 2
for 16, 24, 32 Gb, `rate` the fastest of 6400, 5600 and 4800 that it allows. -/
structure Dimm where
  supported : Bool
  gib : Nat
  ranks : BitVec 4
  width : BitVec 2
  dens : BitVec 2
  rate : Nat
  deriving DecidableEq, Repr

/-- Kinds of engine that idle, test or hold (R43, R212, R240, R263, R340). -/
inductive EngineKind where
  | red | opt | cpy | atm | pln | lpe
  deriving DecidableEq, Repr

/-- The tiers that the patrol scrubber visits (R129): a staging page, a stack or a DDR5 controller. -/
inductive ScrubTier where
  | staging (die : Fin 4)
  | stack (k : Fin 8)
  | ddr5 (m : Fin 2)
  deriving DecidableEq, Repr

/-- What a scrub visit finds (R129, R130). -/
inductive ScrubFinding where
  | clean | corrected | uncorrectable
  deriving DecidableEq, Repr

/-- A board-link FEC block as received (R267, R270): whether both codewords decode, the header
fields, the 1,280 flit bytes, and how many symbols the decoder corrected. -/
structure FecBlock where
  decoded : Bool
  bseq : Byte
  aseq : Byte
  ak : BitVec 2
  reserved : BitVec 6
  crc : BitVec 16
  flits : List Byte
  corrected : Nat
  deriving DecidableEq, Repr

/-- A board-link message (R268): the header slot's fields, BODY bytes 24 to 63, and the data slots. -/
structure LinkMsg where
  cls : Byte
  domain : BitVec 16
  src : Byte
  tag : BitVec 16
  address : BitVec 64
  status : BitVec 16
  count : BitVec 16
  value : Word
  body : List Byte
  data : List Byte
  deriving DecidableEq, Repr

/-- A steering message of the pair (R339, R391): the bytes that the layouts name, the data, and the board
link that brings it. -/
structure SteerMsg where
  b28 : Word
  b32 : BitVec 16
  b34 : BitVec 16
  b36 : Word
  data : List Byte
  link : Nat := 0
  deriving DecidableEq, Repr

/-- A KFT frame (R287, R288). The type is the row's own. `fcsOk` is the Ethernet check, `size` the
frame's bytes; `reserved0` tells that every reserved byte is 0. -/
structure KftFrame where
  fcsOk : Bool
  size : Nat
  dst : BitVec 48
  src : BitVec 48
  etype : BitVec 16
  ver : BitVec 4
  reserved0 : Bool
  branch : BitVec 2
  flags : Byte
  domain : BitVec 16
  stream : BitVec 24
  format : Byte
  seq : Word
  offset : BitVec 48
  length : BitVec 16
  segs : Byte
  epoch : Byte
  reason : Byte
  arg0 : Word
  arg1 : Word
  payload : List Byte
  deriving DecidableEq, Repr

/-- One used sample of a lock-in dither period (R353): the weight's sign (state 0 is +1), the tap code
and the dither phase in units of 2^-32 of a turn. -/
structure LockSample where
  state0 : Bool
  tap : BitVec 16
  phase : Word
  deriving DecidableEq, Repr

/-- What a fringe scan of one MZI found (R363). -/
inductive ScanResult where
  | verify (code : BitVec 16)
  | full (firstMax secondMax : BitVec 16)
  | noLight
  | fewMaxima
  | outside
  deriving DecidableEq, Repr

/-- A measured axis of a PLANE calibration (R364): the mirror, the axis and the readings that six
reference points gave, or none where a reference had too little light. -/
structure PlaneReading where
  mirror : Nat
  axisY : Bool
  points : Option (List Word)
  deriving DecidableEq, Repr

/-- The commands: one constructor for each row of spec/opcode_table.json, in the table's order. A
`who` operand is the requester class of a register access; services read their request in the
mailbox (R112) and have no operand. -/
inductive Instr where
  -- power, reset, clocks, JTAG
  | vddAonRise
  | railFault (rail : Fin 19)
  | railRecovery
  | resetAssert (pwrgdFell : Bool)
  | pwrgdAssert (rails : BitVec 19)
  | resetRelease (straps : BitVec 12)
  | powerupUnitStart
  | refclk25Loss
  | sdsref156Loss
  | sdsref156Return
  | optimeTick
  | optimeLoRead (who : Requester)
  | idleAfterExpiry (die : Fin 4)
  | offAfterExpiry (die : Fin 4)
  | engineIdle (kind : EngineKind) (n : Nat)
  | hubOff (h : Fin 4)
  | hubWake (h : Fin 4)
  | wakePhaseStart
  | powerGateDone
  | zeroingDone (unit : Fin 32)
  | clockUngateDone
  | offEntryDone
  | flwWake (who : Requester) (die : Fin 4)
  | flwIdle (who : Requester) (die : Fin 4)
  | flwOff (who : Requester) (die : Fin 4)
  | powerMeasure (watts : BitVec 12)
  | capRelease
  | thermalThrottle (die : Fin 4) (temp : Byte)
  | thermalDieOff (die : Fin 4) (temp : Byte)
  | thermalTrip (die : Fin 32) (temp : Byte)
  | bypass
  | idcode
  | samplePreload (pins preload : List Bool)
  | extest
  | clamp
  | highz
  -- register access and host transport
  | registerWrite (who : Requester) (addr : BitVec 44) (value : Word)
  | read (f : KrtFrame) (wordBad : Bool)
  | write (f : KrtFrame) (portB : Option MbxPortB)
  | rmw (f : KrtFrame)
  | bulkRead (f : KrtFrame)
  | bulkWrite (f : KrtFrame)
  | notifyAck (f : KrtFrame)
  | openSession (f : KrtFrame)
  | close (f : KrtFrame)
  | keepalive (f : KrtFrame)
  | krtPending (op : Byte) (f : KrtFrame)
  | sessionIdleExpiry (slot : Fin 8)
  | krtAnswerStart
  | notifyRetry (slot : Fin 8) (seq : Word)
  | hostPortUp (lanes : BitVec 4)
  | hostPortRetrain (lanes : BitVec 4)
  | irqForce (who : Requester) (page : Byte) (inst : Byte) (bits : Word)
  | softReset (who : Requester) (page : Byte) (inst : Byte) (hold : Bool)
  | softResetDone (page : Byte) (inst : Byte)
  | mbxAcquire (who : Requester) (sid : BitVec 16)
  | mbxRelease (who : Requester) (sid : BitVec 16)
  | mbxH2fDoorbell (who : Requester) (sid : BitVec 16) (bits : BitVec 16)
  | mbxF2hDoorbell (bits : BitVec 16)
  -- boot, protection, firmware services
  | stage1Start
  | recoveryRetry (rewritten : List ByteAt)
  | rightsWrite (who : Requester) (rights : BitVec 10)
  | keySelWrite (who : Requester) (slot : BitVec 3)
  | keyLoad (who : Requester) (data : Word)
  | seal (who : Requester)
  | identGet
  | attest
  | imageWrite
  | imageActivate
  | bootConfirm
  | siteWrite
  | ownerAdd
  | mgmtRestart
  | restartCmd (who : Requester)
  | wdogKick (who : Requester)
  | watchdogExpiry
  | mgmtRestartBegin
  -- memory
  | ddr5ChannelTrain (dimms : List Dimm)
  | ddr5TrainingEnd (good : Bool)
  | ddr5ChannelFail (c : Fin 16)
  | scrubVisit (tier : ScrubTier) (granule : Nat) (finding : ScrubFinding) (passEnd late : Bool)
  | heldAccessResume
  | jobAdmit
  | jobAdmitResume
  | jobRelease
  | memQuery
  | rangeZeroingDone
  -- flow queues and tokens
  | tailWrite (who : Requester) (q : Fin 64) (tail : Word)
  | dbAdd (who : Requester) (q : Fin 64) (add : BitVec 24)
  | tokSignal (who : Requester) (die : Fin 4) (token : BitVec 12) (inc : BitVec 20)
  | tokSet (who : Requester) (die : Fin 4) (token : BitVec 12) (value : BitVec 20)
  | tokValWrite (who : Requester) (die : Fin 4) (value : Word)
  | queueStop (who : Requester) (q : Fin 64)
  | queueResume (who : Requester) (q : Fin 64)
  | queueFlush (who : Requester) (q : Fin 64)
  | descriptorFetch (q : Fin 64) (ecc : List EccHit)
  | descriptorRelease (q : Fin 64)
  | copy (q : Fin 64) (idx : Word) (ecc : List EccHit)
  | recv (q : Fin 64) (idx : Word)
  | reduce (q : Fin 64) (idx : Word) (ecc : List EccHit)
  | emit (q : Fin 64) (idx : Word) (ecc : List EccHit)
  | atomize (q : Fin 64) (idx : Word) (ecc : List EccHit)
  | optim (q : Fin 64) (idx : Word) (ecc : List EccHit)
  | branch (q : Fin 64) (idx : Word)
  | tokenAdd (q : Fin 64) (idx : Word)
  | tokenSet (q : Fin 64) (idx : Word)
  | tokenDoorbell (q : Fin 64) (idx : Word)
  | fence (q : Fin 64) (idx : Word)
  | accordWait (q : Fin 64) (idx : Word)
  | waitLimitExpiry (q : Fin 64)
  | recvWindowTimeout (q : Fin 64) (idx : Word)
  | queueBind
  | queueUnbind
  | tokenBind
  | tokenUnbind
  | flowLoad
  -- reduction control
  | ctDiscard (who : Requester) (die : Fin 4)
  | discardSweepDone (die : Fin 4) (entry : Fin 2048)
  | redHold (who : Requester) (e : Fin 128)
  | redSoftReset (who : Requester) (e : Fin 128)
  | redTest (who : Requester) (e : Fin 128)
  | selfTestDone (kind : EngineKind) (n : Nat) (pass : Bool)
  -- element program instructions, on optimizer engine e
  | nop (e : Fin 64)
  | vadd (e : Fin 64) (vd va vb : BitVec 5)
  | vsub (e : Fin 64) (vd va vb : BitVec 5)
  | vmul (e : Fin 64) (vd va vb : BitVec 5)
  | vfma (e : Fin 64) (vd va vb : BitVec 5)
  | vmin (e : Fin 64) (vd va vb : BitVec 5)
  | vmax (e : Fin 64) (vd va vb : BitVec 5)
  | vcpys (e : Fin 64) (vd va vb : BitVec 5)
  | vadds (e : Fin 64) (vd va : BitVec 5) (sk : BitVec 6)
  | vmuls (e : Fin 64) (vd va : BitVec 5) (sk : BitVec 6)
  | vfmas (e : Fin 64) (vd va : BitVec 5) (sk : BitVec 6)
  | vaxpb (e : Fin 64) (vd va : BitVec 5) (sk : BitVec 6)
  | vmins (e : Fin 64) (vd va : BitVec 5) (sk : BitVec 6)
  | vmaxs (e : Fin 64) (vd va : BitVec 5) (sk : BitVec 6)
  | vbcast (e : Fin 64) (vd : BitVec 5) (sk : BitVec 6)
  | vrcp (e : Fin 64) (vd va : BitVec 5)
  | vrsqrt (e : Fin 64) (vd va : BitVec 5)
  | vsqrt (e : Fin 64) (vd va : BitVec 5)
  | vexp2 (e : Fin 64) (vd va : BitVec 5)
  | vlog2 (e : Fin 64) (vd va : BitVec 5)
  | vabs (e : Fin 64) (vd va : BitVec 5)
  | vneg (e : Fin 64) (vd va : BitVec 5)
  | vmov (e : Fin 64) (vd va : BitVec 5)
  | sadd (e : Fin 64) (sd sa sb : BitVec 6)
  | ssub (e : Fin 64) (sd sa sb : BitVec 6)
  | smul (e : Fin 64) (sd sa sb : BitVec 6)
  | sfma (e : Fin 64) (sd sa sb : BitVec 6)
  | smin (e : Fin 64) (sd sa sb : BitVec 6)
  | smax (e : Fin 64) (sd sa sb : BitVec 6)
  | srcp (e : Fin 64) (sd sa : BitVec 6)
  | srsqrt (e : Fin 64) (sd sa : BitVec 6)
  | ssqrt (e : Fin 64) (sd sa : BitVec 6)
  | sexp2 (e : Fin 64) (sd sa : BitVec 6)
  | slog2 (e : Fin 64) (sd sa : BitVec 6)
  | smov (e : Fin 64) (sd sa : BitVec 6)
  | sli (e : Fin 64) (sd : BitVec 6) (imm : BitVec 16)
  | vld (e : Fin 64) (v : BitVec 5) (stream : BitVec 3)
  | vst (e : Fin 64) (v : BitVec 5) (stream : BitVec 3)
  | lacc (e : Fin 64) (k : BitVec 2) (va : BitVec 5)
  | hacc (e : Fin 64) (k : BitVec 2) (va : BitVec 5)
  | pass (e : Fin 64)
  | tile (e : Fin 64)
  | endMark (e : Fin 64)
  | optHold (who : Requester) (e : Fin 64)
  | optSoftReset (who : Requester) (e : Fin 64)
  | optTest (who : Requester) (e : Fin 64)
  -- planning
  | schedule (q : Fin 64) (idx : Word) (ecc : List EccHit)
  | assign (q : Fin 64) (idx : Word) (ecc : List EccHit)
  | sinkhorn (q : Fin 64) (idx : Word) (ecc : List EccHit)
  | gemm (q : Fin 64) (idx : Word) (ecc : List EccHit)
  | validate (q : Fin 64) (idx : Word) (ecc : List EccHit)
  | snapshot (q : Fin 64) (idx : Word) (ecc : List EccHit)
  | portmapSet
  | portmapGet
  | plnHold (who : Requester) (die : Fin 4)
  | plnSoftReset (who : Requester) (die : Fin 4)
  | plnTest (who : Requester) (die : Fin 4)
  -- board links
  | fecBlockReceive (n : Fin 64) (b : FecBlock)
  | replayTimeout (n : Fin 64)
  | laneFail (n : Fin 64) (lane : Fin 4)
  | retrainDone (n : Fin 64) (lanes : BitVec 4)
  | retrainTimeout (n : Fin 64)
  | lnkWiden (who : Requester) (n : Fin 64)
  | linkLoss (n : Fin 64)
  | trainingAttempt (n : Fin 64)
  | trainingPatternReceive (n : Fin 64)
  | trainingDone (n : Fin 64) (lanes : BitVec 4)
  | init (n : Fin 64) (m : LinkMsg)
  | linkIdle (n : Fin 64)
  | linkWrite (n : Fin 64) (m : LinkMsg)
  | linkRead (n : Fin 64) (m : LinkMsg) (ecc : List EccHit)
  | rdata (n : Fin 64) (m : LinkMsg)
  | wack (n : Fin 64) (m : LinkMsg)
  | regwr (n : Fin 64) (m : LinkMsg)
  | regack (n : Fin 64) (m : LinkMsg)
  | linkCredit (n : Fin 64) (m : LinkMsg)
  | reach (n : Fin 64) (m : LinkMsg)
  | creditReturn (n : Fin 64)
  | reachSend
  | routeDrainRelease (p : Fin 16)
  | partCfgWrite (who : Requester) (n : Fin 64) (value : Word)
  | linkTableSet
  | linkTableGet
  -- face-plate ports and KFT
  | fppEnable (who : Requester) (p : Fin 32) (on : Bool)
  | portTrainDone (p : Fin 32)
  | portDown (p : Fin 32)
  | kftData (p : Fin 32) (f : KftFrame)
  | kftToken (p : Fin 32) (f : KftFrame)
  | kftAck (p : Fin 32) (f : KftFrame)
  | kftNak (p : Fin 32) (f : KftFrame)
  | kftCredit (p : Fin 32) (f : KftFrame)
  | burstEnd (p : Fin 32) (f : KftFrame)
  | kftBranch (p : Fin 32) (f : KftFrame)
  | ackDelayExpiry (p : Fin 32)
  | rtoExpiry (p : Fin 32)
  | brTimeoutExpiry (p : Fin 32)
  | branchRepeat (p : Fin 32)
  | lnkTest (who : Requester) (n : Fin 64) (mode : BitVec 2)
  | fppTest (who : Requester) (p : Fin 32) (mode : BitVec 2)
  -- plane link, loops, Accords
  | planeLinkUp (lanes : BitVec 4)
  | planeLaneLoss (lane : Fin 4)
  | sample (bytes : List Byte)
  | actuator (tile : Fin 36) (late : List Nat)
  | tileLost (tile : Fin 36)
  | axisMigrate (axis : Fin 4608)
  | slotWrite (who : Requester) (offset : BitVec 12) (value : Word)
  | slotHold (who : Requester) (on : Bool)
  | mirTrimWrite (who : Requester) (axisY : Bool) (value : Word)
  | autotuneGo (who : Requester)
  | autotuneStop (who : Requester)
  | autotuneTimeout
  | jogEdge (k : Fin 4) (a b : Bool)
  | jogClear (who : Requester) (mask : BitVec 4)
  | accordLoad (who : Requester)
  | accordAbort (who : Requester) (entry : BitVec 4)
  | accordEntryLoad
  | accordLoadDone (ecc : List EccHit)
  | accordValidateDone
  | groupSettleTimeout (g : Fin 18)
  | peakTimeout (g : Fin 18)
  | peakRetry
  | lpeHold (who : Requester) (e : Fin 48)
  | lpeDrainDone (e : Fin 48)
  | lpeRelease (who : Requester) (e : Fin 48)
  | lpeSoftReset (who : Requester) (e : Fin 48)
  | lpeTest (who : Requester) (e : Fin 48)
  | loopEngineFault (e : Fin 48)
  -- selectors, AFE, calibration, Fixative
  | cageInsert (p : Fin 32) (first : Bool)
  | cageRemove (p : Fin 32)
  | fselForceWrite (who : Requester) (p : Fin 32) (value : Word)
  | channelConversion (a : Fin 4) (ch : Fin 64) (raw : Nat)
  | heaterUpdate (l : Fin 192) (activity : BitVec 16) (lit localMax : Bool)
  | ditherPeriodEnd (l : Fin 192) (length : Nat) (used : List LockSample)
  | pilotCheckStart (l : Fin 192)
  | pilotCheckDone (l : Fin 192) (levels : List Nat)
  | reacqDarkTimeout (l : Fin 192)
  | loopEnable (who : Requester) (p : Fin 32) (on : Bool)
  | loopReacq (who : Requester) (p : Fin 32)
  | ffParamWrite (who : Requester) (p : Fin 32) (offset : BitVec 12) (value : Word)
  | branchPathRelease (p : Fin 32)
  | branchPathTimeout (p : Fin 32)
  | fslHold (who : Requester) (p : Fin 32) (on : Bool)
  | powerupCalibration (averages : List Nat)
  | calOffset (who : Requester)
  | calFringe (who : Requester)
  | calPlane (who : Requester)
  | calAbort (who : Requester)
  | fringeScanDone (l : Fin 192) (r : ScanResult)
  | calCommandEnd (averages : List (Nat × Nat)) (plane : List PlaneReading) (ms : Word)
  | fixSave (who : Requester)
  | fixativeSaveDone (readBackOk : Bool)
  -- pair redundancy
  | claimAttempt
  | claimInAssert
  | claimInDeassert
  | claimHoldoffEnd
  | raceBackoffCheck
  | claimWaitExpiry
  | claimFault
  | output (m : SteerMsg)
  | partnerSilent (tile : Fin 36)
  | engineTestDone (failed : List (Fin 48))
  | check (m : SteerMsg)
  | checkMissing
  | status (m : SteerMsg)
  | integ (m : SteerMsg)
  | coef (m : SteerMsg)
  | trim (m : SteerMsg)
  | accord (m : SteerMsg)
  | syncReq (m : SteerMsg)
  | syncReqRepeat
  | syncImageTake
  | syncData (m : SteerMsg)
  | syncRefuse (m : SteerMsg)
  | syncTimeout
  | yield (who : Requester)
  | rdnSync (who : Requester)
  | rdnClear (who : Requester)
  | yieldedAutoClear
  -- Sillage, CRC engines, Blotter
  | bucketRefill (b : Fin 1024)
  | recordWrite
  | rdSeqWrite (who : Requester) (seq : Word)
  | sillageRelease (who : Requester) (seq : Word)
  | hostmark (who : Requester) (sev : BitVec 3)
  | checkpointWrite
  | sillagePersist
  | sillageRead
  | crcGo (who : Requester) (g : Fin 5)
  | crcLearn (who : Requester) (g : Fin 5)
  | crcStop (who : Requester) (g : Fin 5)
  | crcPassEnd (g : Fin 5) (upsetA upsetB : Bool) (ecc : List EccHit)
  | crcPeriodStart (g : Fin 5)
  | blotterRegionStart
  | blotterCopyDone
  | blotterTestDone (failAt : Option Nat)
  | blotterRestoreDone
  | blotterRetry
  | bltHold (who : Requester) (on : Bool)
  -- holds and the rows added last
  | schHold (who : Requester) (die : Fin 4) (on : Bool)
  | acdHold (who : Requester) (on : Bool)
  | copyEngineHold (who : Requester) (atomizer : Bool) (e : Fin 32) (on : Bool)
  | positionLossTimeout
  | pendingRouteResume (p : Fin 16)
  | pageCtlEnWrite (who : Requester) (page : Byte) (inst : Byte) (on : Bool)
  | blotterSpareTestDone (bad : Bool)
  deriving DecidableEq, Repr

end Sys2Proof
end

