-- ==== Sys2Proof/Decode.lean ====
section
/-!
DEFINITION. Decoding of table words. spec/opcode_table.json gives no row any bits: commands reach the
block as register accesses, frames, messages, pins and its own events, not as words.
-/

namespace Sys2Proof

/-- The command that a word spells by the table's bits: the table spells none. [DEDUCED: log 140] -/
def decodeTableWord (_nbits _w : Nat) : Option Instr := none

end Sys2Proof
end

