-- ==== Sys2Proof/Config.lean ====
section
/-!
DEFINITION. What the spec leaves to an implementation or to another standard, as constants without a
body: nothing in Lean can evaluate them, so a statement holds for every value of them. The comments
name the rule that leaves each one open and the assumption log entry.
-/

namespace Sys2Proof.Config

/-- Free bits: what a register or frame field holds where the spec states no value. The argument is
the model's counter of free values or another number that the field depends on (log 3). [DESIGN CHOICE: log 3] -/
opaque freeBits : Nat → BitVec 64

/-- The module's MAC, provisioned in OTP (R73). [DESIGN CHOICE: log 9] -/
opaque moduleMac : BitVec 48

/-- SHA-384 (FIPS 180-4), a named standard (R94, R104, R106). [DEDUCED: log 134] -/
opaque sha384 : List Byte → BitVec 384

/-- HMAC-SHA-384 with a key and a message (R72). [DEDUCED: log 134] -/
opaque hmacSha384 : BitVec 384 → List Byte → BitVec 384

/-- ECDSA P-384 with SHA-384: does the signature (96 bytes) over the message verify with the
uncompressed public key (97 bytes)? (R78, R94, R100) [DEDUCED: log 134] -/
opaque ecdsaVerify : List Byte → List Byte → List Byte → Bool

/-- A signature of the identity key over a message (R78, R107); the number is the use's own. [DEDUCED: log 134] -/
opaque identitySign : List Byte → Nat → BitVec 768

/-- The module's ephemeral key pair of an OPEN: X and Y of the public point. [DEDUCED: log 134] -/
opaque ephemeralXY : Nat → BitVec 768

/-- The X coordinate of the ECDH P-384 shared point of that ephemeral key and a public key (R79).
[DESIGN CHOICE: log 43; DEDUCED: log 134] -/
opaque ecdhX : Nat → List Byte → BitVec 384

/-- HKDF-SHA-384 (RFC 5869) of 96 bytes from keying material, salt and info (R79). [DEDUCED: log 134] -/
opaque hkdf96 : BitVec 384 → List Byte → List Byte → BitVec 768

/-- The module nonce of an OPEN. [DEDUCED: log 134] -/
opaque moduleNonce : Nat → BitVec 256

/-- The Kelien key hash in OTP (R94, detail 0x11). [DESIGN CHOICE: log 9] -/
opaque kelienKeyHash : BitVec 384

/-- The owner key hash of OTP slot 0, blown at manufacture (R98). [DESIGN CHOICE: log 9] -/
opaque owner0Hash : BitVec 384

/-- The identity public key, X and Y, and the identity certificate in DER (R105). -/
opaque identityXY : BitVec 768

opaque identityCert : List Byte

/-- Which of the results that R219 allows an optimizer engine's RCP, RSQRT, SQRT, EXP2 or LOG2
(numbered 0 to 4) gives for an FP32 input whose exact value is no FP32 number. [DESIGN CHOICE: log 57] -/
opaque fnPick : Nat → Nat → Nat

/-- The index i of R210 under which a ROW output of a shard's row is rounded stochastically: R229
counts elements, and a row's element is not one of them. [DESIGN CHOICE: log 56] -/
opaque rowSrIndex : Nat → Nat

/-- The PARK value of an axis that the P1152 gives, in force while the store gives none (R368). [DESIGN CHOICE: log 63] -/
opaque parkDefault : Nat → BitVec 32

/-- The pointing value of an axis towards a port while there are no coefficients: the spec states none
(R319, R368). [DESIGN CHOICE: log 63] -/
opaque pointDefault : Nat → Nat → BitVec 32

/-- Whether a value between two codes of a linear ramp, or of a dither, is taken at the upper one:
R330 and R331 state the line and the sine, not their rounding. Arguments: which, sample. [DESIGN CHOICE: log 61] -/
opaque roundUpPick : Nat → Nat → Bool

/-- The step of a lock-in loop's integrator for a period's gradient: R354 states the closed loop that the
gain must give, not the gain. Arguments: bandwidth, frequency, mean tap level, gradient. [DESIGN CHOICE: log 95] -/
opaque lockStep : Nat → Nat → Nat → Int → BitVec 32

/-- The dither of a heater at a time, between minus and plus its amplitude: R352 states its frequency and
amplitude, not its phase and rounding. Arguments: loop, time in ns. [DESIGN CHOICE: log 95] -/
opaque heaterDither : Nat → Nat → BitVec 16

/-- Whether a quotient between two integers is taken at the upper one where the spec states no rounding.
Arguments: which, numerator. [DESIGN CHOICE: log 95] -/
opaque quotientPick : Nat → Int → Bool

/-- The coefficients C0 to C5 of an axis that fit six reference readings exactly: R364 states no rounding.
Arguments: axis, readings, coefficient. [DESIGN CHOICE: log 97] -/
opaque planeFit : Nat → List (BitVec 32) → Nat → BitVec 32

end Sys2Proof.Config
end

