-- ==== Sys2Proof/Machine/Bits.lean ====
section
/-!
DEFINITION. Bit fields of register words (R7), byte orders (R7, R8), sign extension, and the check
codes that the spec names: CRC-32C (R411) and CRC-16 of polynomial 0x1021.
-/

namespace Sys2Proof.Machine

/-- Bits [lo + n - 1 : lo] of a word. -/
def fld (w : Word) (lo n : Nat) : Nat := (w.toNat >>> lo) % 2 ^ n

/-- Bit `b` of a word. -/
def bitOf (w : Word) (b : Nat) : Bool := w.toNat.testBit b

/-- The word with bits [lo + n - 1 : lo] replaced by `v`. -/
def putFld (w : Word) (lo n v : Nat) : Word :=
  BitVec.ofNat 32 (w.toNat - (((w.toNat >>> lo) % 2 ^ n) <<< lo) + ((v % 2 ^ n) <<< lo))

/-- A number as a word. -/
def toWord (n : Nat) : Word := BitVec.ofNat 32 n

/-- A truth value as a number. -/
def b2n (b : Bool) : Nat := if b then 1 else 0

/-- A saturating 32-bit count. -/
def satAdd (w : Word) (n : Nat) : Word :=
  if w.toNat + n ≥ 0xFFFFFFFF then 0xFFFFFFFF#32 else BitVec.ofNat 32 (w.toNat + n)

/-- The number as `n` bytes, least significant first (R7). -/
def leBytes : Nat → Nat → List Byte
  | 0, _ => []
  | n + 1, v => BitVec.ofNat 8 v :: leBytes n (v / 256)

/-- The number as `n` bytes, most significant first (R8). -/
def beBytes (n v : Nat) : List Byte := (leBytes n v).reverse

/-- The number that bytes spell, least significant first. -/
def leNat : List Byte → Nat
  | [] => 0
  | b :: bs => b.toNat + 256 * leNat bs

/-- The number that bytes spell, most significant first. -/
def beNat (bs : List Byte) : Nat := leNat bs.reverse

/-- `n` zero bytes. -/
def zeros (n : Nat) : List Byte := List.replicate n 0#8

/-- Bytes [a, a + n) of a list; bytes past its end read 0. -/
def slice (bs : List Byte) (a n : Nat) : List Byte :=
  let x := (bs.drop a).take n
  x ++ zeros (n - x.length)

/-- The number in bytes [a, a + n), least significant first. -/
def leAt (bs : List Byte) (a n : Nat) : Nat := leNat (slice bs a n)

/-- The number in bytes [a, a + n), most significant first. -/
def beAt (bs : List Byte) (a n : Nat) : Nat := beNat (slice bs a n)

/-- The signed value of the low `n` bits of a number. -/
def signed (n v : Nat) : Int :=
  if (v % 2 ^ n).testBit (n - 1) then Int.ofNat (v % 2 ^ n) - Int.ofNat (2 ^ n) else Int.ofNat (v % 2 ^ n)

/-- An integer as an `n`-bit number (two's complement). -/
def unsignedOf (n : Nat) (i : Int) : Nat := (i % Int.ofNat (2 ^ n)).toNat

/-- An integer held to [lo, hi]. -/
def clampI (lo hi i : Int) : Int := if i < lo then lo else if hi < i then hi else i

/-- A number rounded up to a multiple of `m`. -/
def roundUp (m n : Nat) : Nat := (n + m - 1) / m * m

/-- One bit of the reflected CRC-32C of polynomial 0x1EDC6F41 (R411). -/
def crc32cBit (c : Nat) : Nat := if c.testBit 0 then (c >>> 1) ^^^ 0x82F63B78 else c >>> 1

/-- One byte of the CRC-32C. -/
def crc32cByte (c : Nat) (b : Byte) : Nat :=
  let x := c ^^^ b.toNat
  crc32cBit (crc32cBit (crc32cBit (crc32cBit (crc32cBit (crc32cBit (crc32cBit (crc32cBit x)))))))

/-- CRC-32C: Castagnoli, reflected, initial value and final XOR 0xFFFF_FFFF (R411). -/
def crc32c (bs : List Byte) : Word :=
  BitVec.ofNat 32 ((bs.foldl crc32cByte 0xFFFFFFFF) ^^^ 0xFFFFFFFF)

/-- One bit of the CRC of polynomial 0x1021, most significant bit first. -/
def crc16Bit (c : Nat) : Nat :=
  if c.testBit 15 then ((c <<< 1) ^^^ 0x1021) % 65536 else (c <<< 1) % 65536

/-- One byte of that CRC. -/
def crc16Byte (c : Nat) (b : Byte) : Nat :=
  let x := c ^^^ (b.toNat <<< 8)
  crc16Bit (crc16Bit (crc16Bit (crc16Bit (crc16Bit (crc16Bit (crc16Bit (crc16Bit x)))))))

/-- CRC-16 of polynomial 0x1021 with the initial value given. -/
def crc16 (init : Nat) (bs : List Byte) : BitVec 16 := BitVec.ofNat 16 (bs.foldl crc16Byte init)

end Sys2Proof.Machine
end

