-- ==== Sys2Proof/Machine/Fp.lean ====
section
/-!
DEFINITION. Element formats and their arithmetic (R188 to R196, R207 to R210, R218): exact values as
sign, integer mantissa and power of two; one rounding function for every format; FP32 operations on
32-bit codes; block formats; the random words of stochastic rounding.
-/

namespace Sys2Proof.Machine

/-- A floating-point value: NaN, an infinity, or (-1)^neg x m x 2^e. -/
inductive FpVal where
  | nan
  | inf (neg : Bool)
  | fin (neg : Bool) (m : Nat) (e : Int)
  deriving DecidableEq, Repr

/-- What the all-ones exponent encodes. -/
inductive Special where
  | ieee | e4m3 | none
  deriving DecidableEq, Repr

/-- A floating-point element format (R188). -/
structure FpFmt where
  ebits : Nat
  fbits : Nat
  bias : Nat
  special : Special
  maxCode : Nat
  deriving DecidableEq, Repr

def fmtFP32 : FpFmt := { ebits := 8, fbits := 23, bias := 127, special := .ieee, maxCode := 0x7F7FFFFF }
def fmtBF16 : FpFmt := { ebits := 8, fbits := 7, bias := 127, special := .ieee, maxCode := 0x7F7F }
def fmtFP16 : FpFmt := { ebits := 5, fbits := 10, bias := 15, special := .ieee, maxCode := 0x7BFF }
def fmtE4M3 : FpFmt := { ebits := 4, fbits := 3, bias := 7, special := .e4m3, maxCode := 0x7E }
def fmtE5M2 : FpFmt := { ebits := 5, fbits := 2, bias := 15, special := .ieee, maxCode := 0x7B }
def fmtE3M2 : FpFmt := { ebits := 3, fbits := 2, bias := 3, special := .none, maxCode := 0x1F }
def fmtE2M3 : FpFmt := { ebits := 2, fbits := 3, bias := 1, special := .none, maxCode := 0x1F }
def fmtE2M1 : FpFmt := { ebits := 2, fbits := 1, bias := 1, special := .none, maxCode := 0x7 }

/-- Bits of a code, sign included. -/
def FpFmt.width (f : FpFmt) : Nat := 1 + f.ebits + f.fbits

/-- The value that a code spells. -/
def fpDecode (f : FpFmt) (c : Nat) : FpVal :=
  let neg := c.testBit (f.ebits + f.fbits)
  let ex := c / 2 ^ f.fbits % 2 ^ f.ebits
  let fr := c % 2 ^ f.fbits
  let top := ex == 2 ^ f.ebits - 1
  match f.special with
  | .ieee =>
    if top then (if fr == 0 then .inf neg else .nan)
    else if ex == 0 then .fin neg fr (1 - Int.ofNat f.bias - Int.ofNat f.fbits)
    else .fin neg (2 ^ f.fbits + fr) (Int.ofNat ex - Int.ofNat f.bias - Int.ofNat f.fbits)
  | .e4m3 =>
    if top && fr == 2 ^ f.fbits - 1 then .nan
    else if ex == 0 then .fin neg fr (1 - Int.ofNat f.bias - Int.ofNat f.fbits)
    else .fin neg (2 ^ f.fbits + fr) (Int.ofNat ex - Int.ofNat f.bias - Int.ofNat f.fbits)
  | .none =>
    if ex == 0 then .fin neg fr (1 - Int.ofNat f.bias - Int.ofNat f.fbits)
    else .fin neg (2 ^ f.fbits + fr) (Int.ofNat ex - Int.ofNat f.bias - Int.ofNat f.fbits)

/-- How a magnitude off the grid is rounded. -/
inductive Rounding where
  | rne
  | sr (r : Nat)
  | down
  deriving DecidableEq, Repr

/-- The rounded magnitude code of m x 2^e on a format's grid with the exponent unbounded above: the
code may lie above `maxCode`. -/
def fpRoundCode (f : FpFmt) (rd : Rounding) (m : Nat) (e : Int) : Nat :=
  if m == 0 then 0
  else
    let emin : Int := 1 - Int.ofNat f.bias
    let top : Int := Int.ofNat (Nat.log2 m) + e
    let q : Int := (if top < emin then emin else top) - Int.ofNat f.fbits
    let base : Int := q + Int.ofNat f.fbits + Int.ofNat f.bias - 1
    let t : Nat :=
      if q ≤ e then m * 2 ^ (e - q).toNat
      else
        let k := (q - e).toNat
        let t := m / 2 ^ k
        let rem := m % 2 ^ k
        let up := match rd with
          | .rne => (2 ^ k < 2 * rem) || (2 * rem == 2 ^ k && t % 2 == 1)
          | .sr r => r % 2 ^ 24 < rem * 2 ^ 24 / 2 ^ k
          | .down => false
        if up then t + 1 else t
    base.toNat * 2 ^ f.fbits + t

/-- The magnitude m x 2^e lies above the largest finite value of a format. -/
def fpAboveMax (f : FpFmt) (m : Nat) (e : Int) : Bool :=
  let c := fpRoundCode f .down m e
  f.maxCode < c ||
    (c == f.maxCode && (match fpDecode f f.maxCode with
      | .fin _ mm me => if me ≤ e then mm < m * 2 ^ (e - me).toNat else mm * 2 ^ (me - e).toNat < m
      | _ => false))

/-- Put a sign on a magnitude code. -/
def fpSign (f : FpFmt) (neg : Bool) (c : Nat) : Nat := (if neg then 2 ^ (f.ebits + f.fbits) else 0) + c

/-- The code of an infinity. -/
def fpInfCode (f : FpFmt) (neg : Bool) : Nat := fpSign f neg ((2 ^ f.ebits - 1) * 2 ^ f.fbits)

/-- The NaN that FP32 operations give (R194). -/
abbrev nan32 : Nat := 0x7FC00000

/-- Round to FP32, ties to even; beyond range is an infinity. The flag tells of that. -/
def fp32Round (v : FpVal) : Nat × Bool :=
  match v with
  | .nan => (nan32, false)
  | .inf neg => (fpInfCode fmtFP32 neg, false)
  | .fin neg m e =>
    let c := fpRoundCode fmtFP32 .rne m e
    if fmtFP32.maxCode < c then (fpInfCode fmtFP32 neg, true) else (fpSign fmtFP32 neg c, false)

def fp32Val (c : Nat) : FpVal := fpDecode fmtFP32 c

def fp32IsNan (c : Nat) : Bool := fp32Val c == .nan

def fp32IsInf (c : Nat) : Bool := c % 2 ^ 31 == 0x7F800000

/-- Exact sum of two values. An exact zero sum of two non-zero or unlike zeros is +0 (R195). -/
def fpAdd (a b : FpVal) : FpVal :=
  match a, b with
  | .nan, _ => .nan
  | _, .nan => .nan
  | .inf x, .inf y => if x == y then .inf x else .nan
  | .inf x, _ => .inf x
  | _, .inf y => .inf y
  | .fin n1 m1 e1, .fin n2 m2 e2 =>
    let e := min e1 e2
    let i1 : Int := Int.ofNat (m1 * 2 ^ (e1 - e).toNat)
    let i2 : Int := Int.ofNat (m2 * 2 ^ (e2 - e).toNat)
    let s := (if n1 then -i1 else i1) + (if n2 then -i2 else i2)
    if s == 0 then .fin (n1 && n2) 0 e else .fin (decide (s < 0)) s.natAbs e

/-- Exact product. -/
def fpMul (a b : FpVal) : FpVal :=
  match a, b with
  | .nan, _ => .nan
  | _, .nan => .nan
  | .inf x, .inf y => .inf (x != y)
  | .inf x, .fin n m _ => if m == 0 then .nan else .inf (x != n)
  | .fin n m _, .inf y => if m == 0 then .nan else .inf (n != y)
  | .fin n1 m1 e1, .fin n2 m2 e2 => .fin (n1 != n2) (m1 * m2) (e1 + e2)

def fpNeg (a : FpVal) : FpVal :=
  match a with
  | .nan => .nan
  | .inf n => .inf (!n)
  | .fin n m e => .fin (!n) m e

/-- Binary32 addition, multiplication, fused multiply-add (one rounding) on codes. -/
def fp32Add (a b : Nat) : Nat := (fp32Round (fpAdd (fp32Val a) (fp32Val b))).1
def fp32Sub (a b : Nat) : Nat := (fp32Round (fpAdd (fp32Val a) (fpNeg (fp32Val b)))).1
def fp32Mul (a b : Nat) : Nat := (fp32Round (fpMul (fp32Val a) (fp32Val b))).1
def fp32Fma (a b c : Nat) : Nat :=
  (fp32Round (fpAdd (fpMul (fp32Val a) (fp32Val b)) (fp32Val c))).1

/-- The order of codes with -0 below +0; not for NaN. -/
def fp32Key (c : Nat) : Int :=
  let m : Int := Int.ofNat (c % 2 ^ 31)
  if c.testBit 31 then -m - 1 else m

def fp32Min (a b : Nat) : Nat :=
  if fp32IsNan a || fp32IsNan b then nan32 else if fp32Key b < fp32Key a then b else a

def fp32Max (a b : Nat) : Nat :=
  if fp32IsNan a || fp32IsNan b then nan32 else if fp32Key a < fp32Key b then b else a

/-- Signed 32-bit saturating addition (R196); the flag tells of saturation. -/
def int32AddSat (a b : Nat) : Nat × Bool :=
  let s := signed 32 a + signed 32 b
  let c := clampI (-0x80000000) 0x7FFFFFFF s
  (unsignedOf 32 c, c != s)

/-! ## FORMAT codes (R151, R188, R190) -/

/-- The scalar format of a FORMAT code; INT32 and the MX formats have none. -/
def scalarFmt (code : Nat) : Option FpFmt :=
  match code with
  | 0 => some fmtFP32 | 1 => some fmtBF16 | 2 => some fmtFP16 | 3 => some fmtE4M3 | 4 => some fmtE5M2
  | _ => none

/-- The element format and emax of an MX FORMAT code (R190). -/
def mxFmt (code : Nat) : Option (FpFmt × Nat) :=
  match code with
  | 5 => some (fmtE4M3, 8) | 6 => some (fmtE5M2, 15) | 7 => some (fmtE3M2, 4) | 8 => some (fmtE2M3, 2)
  | 9 => some (fmtE2M1, 2) | _ => none

def isMx (code : Nat) : Bool := (mxFmt code).isSome

/-- A known FORMAT code. -/
def fmtKnown (code : Nat) : Bool := code ≤ 9 || code == 0x10

/-- Bytes of a scalar element. -/
def elemBytes (code : Nat) : Nat :=
  match code with | 0 => 4 | 0x10 => 4 | 1 => 2 | 2 => 2 | _ => 1

/-- Element bytes of an MX block. -/
def blockBytes (code : Nat) : Nat := match code with | 5 => 32 | 6 => 32 | 7 => 24 | 8 => 24 | _ => 16

/-- Bytes of a full MX segment. -/
def segBytes (code : Nat) : Nat := 64 + 64 * blockBytes code

/-- Bytes that an array of `count` elements takes in memory (R191, R192). -/
def arrayBytes (code count : Nat) : Nat :=
  if isMx code then
    let r := count % 2048
    count / 2048 * segBytes code +
      (if r == 0 then 0 else 64 + roundUp 64 (r / 32 * blockBytes code))
  else count * elemBytes code

/-- Element `j` of a block's element bytes (R191). -/
def blockElem (code : Nat) (bs : List Byte) (j : Nat) : Nat :=
  match code with
  | 5 => leAt bs j 1
  | 6 => leAt bs j 1
  | 9 => leAt bs (j / 2) 1 / 2 ^ (4 * (j % 2)) % 16
  | _ => leAt bs (3 * (j / 4)) 3 / 2 ^ (6 * (j % 4)) % 64

/-- A NaN or infinity in canonical form, any other value exactly, as an FP32 code; the flag counts an
overflow of an MX product (R194). -/
def toFp32 (v : FpVal) : Nat × Bool := fp32Round v

/-- The value of an MX element: scale times element (R189, R190). -/
def mxValue (f : FpFmt) (scale el : Nat) : FpVal :=
  if scale == 0xFF then .nan
  else fpMul (.fin false 1 (Int.ofNat scale - 127)) (fpDecode f el)

/-- Element i of an array as FP32 (INT32 bits as stored), with the overflow flag. `rd a n` reads n
bytes at byte offset a of the array. -/
def arrayElem (code : Nat) (rd : Nat → Nat → List Byte) (i : Nat) : Nat × Bool :=
  match mxFmt code with
  | some (f, _) =>
    let seg := i / 2048 * segBytes code
    let b := i % 2048 / 32
    let scale := leNat (rd (seg + b) 1)
    let el := blockElem code (rd (seg + 64 + b * blockBytes code) (blockBytes code)) (i % 32)
    toFp32 (mxValue f scale el)
  | none =>
    let c := leNat (rd (i * elemBytes code) (elemBytes code))
    match scalarFmt code with
    | some f => toFp32 (fpDecode f c)
    | none => (c, false)

/-! ## Egress (R207 to R210) -/

/-- How an element was written: nothing to count, saturated, became infinite, written as NaN. -/
inductive Mark where
  | none | sat | ovf | nan
  deriving DecidableEq, Repr

/-- The NaN code that a scalar output writes (R208). -/
def outNan (code : Nat) : Nat :=
  match code with | 1 => 0x7FC0 | 2 => 0x7E00 | 4 => 0x7E | 3 => 0x7F | _ => nan32

/-- Quantize a value to a scalar output format (R208). -/
def quantScalar (code : Nat) (f : FpFmt) (sat : Bool) (rd : Rounding) (v : FpVal) : Nat × Mark :=
  match v with
  | .nan => (outNan code, .nan)
  | .inf neg =>
    if sat then (fpSign f neg f.maxCode, .sat)
    else if code == 3 then (0x7F, .nan)
    else (fpInfCode f neg, .none)
  | .fin neg m e =>
    let c := fpRoundCode f rd m e
    let beyond := match rd with
      | .sr _ => fpAboveMax f m e
      | _ => f.maxCode < c
    if beyond then
      if sat || code == 3 then (fpSign f neg f.maxCode, .sat) else (fpInfCode f neg, .ovf)
    else (fpSign f neg c, .none)

/-- Quantize a finite value to an MX element, saturating (R209). -/
def quantMx (f : FpFmt) (rd : Rounding) (neg : Bool) (m : Nat) (e : Int) : Nat × Mark :=
  let c := fpRoundCode f rd m e
  let beyond := match rd with
    | .sr _ => fpAboveMax f m e
    | _ => f.maxCode < c
  if beyond then (fpSign f neg f.maxCode, .sat) else (fpSign f neg c, .none)

/-- The random word of element i under a seed (R210). -/
def srWord (seed i : Nat) : Nat :=
  let x := Nat.xor seed (i * 0x9E3779B9 % 2 ^ 32)
  let x := Nat.xor x (x / 2 ^ 16)
  let x := x * 0x85EBCA6B % 2 ^ 32
  let x := Nat.xor x (x / 2 ^ 13)
  let x := x * 0xC2B2AE35 % 2 ^ 32
  Nat.xor x (x / 2 ^ 16)

/-- The rounding of element i. -/
def roundingOf (sr : Bool) (seed i : Nat) : Rounding := if sr then .sr (srWord seed i) else .rne

/-- The exponent of the block scale for values (R209): none when the block is NaN. -/
def blockExp (emax : Nat) (sat : Bool) (vs : List Nat) : Option Int :=
  if vs.any fp32IsNan || (!sat && vs.any fp32IsInf) then none
  else
    let amax := vs.foldl (fun m c => max m (min (c % 2 ^ 31) 0x7F7FFFFF)) 0
    if amax == 0 then some (-127)
    else
      match fp32Val amax with
      | .fin _ m e => some (max (Int.ofNat (Nat.log2 m) + e - Int.ofNat emax) (-127))
      | _ => some (-127)

/-- One block of an MX output: scale byte, element codes with marks, and the values written. -/
def quantBlock (f : FpFmt) (emax : Nat) (sat : Bool) (rd : Nat → Rounding) (vs : List Nat) :
    Nat × List (Nat × Mark) × List FpVal :=
  match blockExp emax sat vs with
  | none => (0xFF, vs.map (fun _ => (0, .nan)), vs.map (fun _ => .nan))
  | some e =>
    let vs := vs.map fun c => if fp32IsInf c then c / 2 ^ 31 * 2 ^ 31 + 0x7F7FFFFF else c
    let qs := vs.mapIdx fun i c =>
      match fp32Val c with
      | .fin neg m x => quantMx f (rd i) neg m (x - e)
      | _ => (0, .none)
    ((e + 127).toNat, qs, qs.map fun q => fpMul (.fin false 1 e) (fpDecode f q.1))

/-- Pack the element codes of a block into bytes (R191). -/
def packBlock (code : Nat) (cs : List Nat) : List Byte :=
  match code with
  | 5 => cs.map (BitVec.ofNat 8)
  | 6 => cs.map (BitVec.ofNat 8)
  | 9 => (List.range 16).map fun j => BitVec.ofNat 8 (cs.getD (2 * j) 0 + 16 * cs.getD (2 * j + 1) 0)
  | _ => (List.range 8).flatMap fun g =>
    leBytes 3 (cs.getD (4 * g) 0 + cs.getD (4 * g + 1) 0 * 2 ^ 6 + cs.getD (4 * g + 2) 0 * 2 ^ 12 +
      cs.getD (4 * g + 3) 0 * 2 ^ 18)

/-- One segment from its blocks (scale byte, element bytes): scale line, elements, padding (R191). -/
def packSegment (blocks : List (Nat × List Byte)) : List Byte :=
  let els := blocks.flatMap Prod.snd
  let line := blocks.map fun b => BitVec.ofNat 8 b.1
  line ++ zeros (64 - line.length) ++ els ++ zeros (roundUp 64 els.length - els.length)

/-- An MX array from its blocks, 64 to a segment; `fuel` bounds the segments. -/
def packArray : Nat → List (Nat × List Byte) → List Byte
  | 0, _ => []
  | n + 1, bs => if bs.isEmpty then [] else packSegment (bs.take 64) ++ packArray n (bs.drop 64)

/-- A residual v - d in FP32 or BF16, always finite (R207); the flag counts a saturated one. -/
def residual (res16 : Bool) (v : Nat) (d : FpVal) : Nat × Bool :=
  match fp32Val v, d with
  | .fin n m e, .fin n' m' e' =>
    let f := if res16 then fmtBF16 else fmtFP32
    match fpAdd (.fin n m e) (fpNeg (.fin n' m' e')) with
    | .fin ng mm ee =>
      let c := fpRoundCode f .rne mm ee
      if f.maxCode < c then (fpSign f ng f.maxCode, true) else (fpSign f ng c, false)
    | _ => (0, false)
  | _, _ => (0, false)

end Sys2Proof.Machine
end

