-- ==== Sys2Proof/Machine/FpFn.lean ====
section
/-!
DEFINITION. RCP, RSQRT, SQRT, EXP2 and LOG2 (R219): the special cases and exact results as the table
gives them; every other result is a free choice among the FP32 codes around the exact value. The exact
value's place on the FP32 grid is computed with integers of some hundred bits.
-/

namespace Sys2Proof.Machine

/-- Integer square root, bit by bit. -/
def isqrtGo : Nat → Nat → Nat → Nat
  | 0, n, r => if (r + 1) * (r + 1) ≤ n then r + 1 else r
  | k + 1, n, r => isqrtGo k n (if (r + 2 ^ (k + 1)) * (r + 2 ^ (k + 1)) ≤ n then r + 2 ^ (k + 1) else r)

def isqrt (n : Nat) : Nat := isqrtGo (Nat.log2 n / 2 + 1) n 0

/-- The odd part of a number; `fuel` bounds its trailing zeros. -/
def oddPart : Nat → Nat → Nat
  | 0, m => m
  | n + 1, m => if m % 2 == 0 then oddPart n (m / 2) else m

/-- A power of two. -/
def isPow2 (m : Nat) : Bool := oddPart 200 m == 1

/-- A result that is no FP32 number: one of the codes within 2 ulp of it, as the implementation picks.
`c` is the magnitude code just below the exact value. [DESIGN CHOICE: log 57] -/
def pickNear (fn x : Nat) (neg : Bool) (c : Nat) : Nat :=
  fpSign fmtFP32 neg (min (c + Config.fnPick fn x % 6 - 3) 0x7F7FFFFF)

/-- A mantissa and an even exponent of the same value. -/
def evenExp (m : Nat) (e : Int) : Nat × Int := if e % 2 == 0 then (m, e) else (2 * m, e - 1)

/-- [DESIGN CHOICE: log 57] -/
def fpRcp (x : Nat) : Nat :=
  match fp32Val x with
  | .nan => nan32
  | .inf neg => fpSign fmtFP32 neg 0
  | .fin neg m e =>
    if x % 2 ^ 31 ≤ 0x00200000 then fpInfCode fmtFP32 neg
    else
      let c := fpRoundCode fmtFP32 .down (2 ^ 200 / m) (-200 - e)
      if isPow2 m then fpSign fmtFP32 neg c else pickNear 0 x neg c

/-- [DESIGN CHOICE: log 57] -/
def fpRsqrt (x : Nat) : Nat :=
  match fp32Val x with
  | .nan => nan32
  | .inf neg => if neg then nan32 else 0
  | .fin neg m e =>
    if m == 0 then fpInfCode fmtFP32 neg
    else if neg then nan32
    else
      let (m, e) := evenExp m e
      let c := fpRoundCode fmtFP32 .down (isqrt (2 ^ 400 / m)) (-200 - e / 2)
      if isPow2 m && isqrt m * isqrt m == m then c else pickNear 1 x false c

/-- [DESIGN CHOICE: log 57] -/
def fpSqrt (x : Nat) : Nat :=
  match fp32Val x with
  | .nan => nan32
  | .inf neg => if neg then nan32 else x
  | .fin neg m e =>
    if m == 0 then x
    else if neg then nan32
    else
      let (m, e) := evenExp m e
      let c := fpRoundCode fmtFP32 .down (isqrt (m * 2 ^ 200)) (e / 2 - 100)
      if isqrt m * isqrt m == m then c else pickNear 2 x false c

/-- 2^f x 2^96 for an 80-bit fraction f, rounded down: one factor 2^(2^-i) for each set bit. -/
def exp2Frac : Nat → Nat → Nat → Nat → Nat
  | 0, _, _, p => p
  | n + 1, f, r, p =>
    let r := isqrt (r * 2 ^ 96)
    exp2Frac n f r (if f.testBit n then p * r / 2 ^ 96 else p)

/-- [DESIGN CHOICE: log 57] -/
def fpExp2 (x : Nat) : Nat :=
  match fp32Val x with
  | .nan => nan32
  | .inf neg => if neg then 0 else x
  | .fin neg m e =>
    let i : Int := if neg then -(Int.ofNat m) else Int.ofNat m
    let n : Int := if -80 ≤ e then i * Int.ofNat (2 ^ (e + 80).toNat) else i / Int.ofNat (2 ^ (-e - 80).toNat)
    let whole := n / Int.ofNat (2 ^ 80)
    if !neg && 128 ≤ whole then fpInfCode fmtFP32 false
    else if whole < -150 then 0
    else
      let exact := 0 ≤ e || m % 2 ^ (-e).toNat == 0
      if exact && -149 ≤ whole then fpRoundCode fmtFP32 .down 1 whole
      else
        let p := exp2Frac 80 (n % Int.ofNat (2 ^ 80)).toNat (2 ^ 97) (2 ^ 96)
        pickNear 3 x false (fpRoundCode fmtFP32 .down p (whole - 96))

/-- The first 80 bits of log2 of y / 2^255, for y in [2^255, 2^256). -/
def log2Frac : Nat → Nat → Nat → Nat
  | 0, _, f => f
  | n + 1, y, f =>
    let y := y * y / 2 ^ 255
    if 2 ^ 256 ≤ y then log2Frac n (y / 2) (2 * f + 1) else log2Frac n y (2 * f)

/-- [DESIGN CHOICE: log 57] -/
def fpLog2 (x : Nat) : Nat :=
  match fp32Val x with
  | .nan => nan32
  | .inf neg => if neg then nan32 else x
  | .fin neg m e =>
    if m == 0 then fpInfCode fmtFP32 true
    else if neg then nan32
    else
      let top : Int := Int.ofNat (Nat.log2 m) + e
      if isPow2 m then (fp32Round (.fin (decide (top < 0)) top.natAbs 0)).1
      else
        let f := log2Frac 80 (m * 2 ^ (255 - Nat.log2 m)) 0
        let l := top * Int.ofNat (2 ^ 80) + Int.ofNat f
        pickNear 4 x (decide (l < 0)) (fpRoundCode fmtFP32 .down l.natAbs (-80))

end Sys2Proof.Machine
end

