-- ==== Sys2Proof/Machine/RegMap.lean ====
section
/-!
DEFINITION. The register map of the pages: the offset of every register (each page's own chapter),
the access masks of its fields (R4) and its reset word (R6). A key is the window offset of R61:
(page type << 20) + (instance << 12) + offset.
-/

namespace Sys2Proof.Machine

/-- The access masks (R4) and the reset word (R6) of one register. -/
structure RegInfo where
  ofs : Nat
  rw : Nat := 0
  w1c : Nat := 0
  w1s : Nat := 0
  wo : Nat := 0
  ro : Nat := 0
  reset : Nat := 0
  deriving DecidableEq, Repr

namespace Reg

abbrev PWR_IRQ_STAT : Nat := 0x0200010
abbrev PWR_FLW_STATE : Nat := 0x0200040
abbrev PWR_FLW_CMD : Nat := 0x0200044
abbrev PWR_IDLE_AFTER : Nat := 0x0200048
abbrev PWR_OFF_AFTER : Nat := 0x020004C
abbrev PWR_HUB_STATE : Nat := 0x0200050
abbrev PWR_STK_STATE : Nat := 0x0200054
abbrev PWR_DMC_STATE : Nat := 0x0200058
abbrev PWR_IOD_STATE : Nat := 0x020005C
abbrev PWR_AFE_STATE : Nat := 0x0200060
abbrev PWR_WAKE_QUEUE : Nat := 0x0200064
abbrev PWR_STEP_CFG : Nat := 0x0200068
abbrev PWR_PCAP : Nat := 0x020006C
abbrev PWR_PWR_MEAS : Nat := 0x0200070
abbrev PWR_RAIL_STAT : Nat := 0x0200074
abbrev PWR_RAIL_FAULT : Nat := 0x0200078
abbrev PWR_TEMP_MAX : Nat := 0x020007C
abbrev PWR_THERM_CFG : Nat := 0x0200080
abbrev PWR_THROTTLE : Nat := 0x0200084
abbrev PWR_STRAPS : Nat := 0x0200088
abbrev PWR_STRAP_ERR : Nat := 0x020008C
abbrev PWR_OPTIME_LO : Nat := 0x0200090
abbrev PWR_OPTIME_HI : Nat := 0x0200094
abbrev PWR_PCYCLE : Nat := 0x0200098
abbrev PWR_ZERO_STAT : Nat := 0x020009C
abbrev PWR_RESET_CAUSE : Nat := 0x02000A0
abbrev PWR_TEMP0 : Nat := 0x02000A4
abbrev PWR_TEMP1 : Nat := 0x02000A8
abbrev PWR_TEMP2 : Nat := 0x02000AC
abbrev PWR_TEMP3 : Nat := 0x02000B0
abbrev PWR_TEMP4 : Nat := 0x02000B4
abbrev PWR_TEMP5 : Nat := 0x02000B8
abbrev PWR_TEMP6 : Nat := 0x02000BC
abbrev PWR_TEMP7 : Nat := 0x02000C0

abbrev CLK_IRQ_STAT : Nat := 0x0300010
abbrev CLK_REF_STAT : Nat := 0x0300040
abbrev CLK_PLL_STAT : Nat := 0x0300044
abbrev CLK_PLL_LOL : Nat := 0x0300048
abbrev CLK_REF_FREQ : Nat := 0x030004C
abbrev CLK_FAST_FREQ : Nat := 0x0300050

abbrev HST_IRQ_STAT : Nat := 0x0600010
abbrev HST_ETYPE : Nat := 0x0600040
abbrev HST_MAC_LO : Nat := 0x0600044
abbrev HST_MAC_HI : Nat := 0x0600048
abbrev HST_PORT_STAT : Nat := 0x060004C
abbrev HST_SESS_OPEN : Nat := 0x0600050
abbrev HST_SESS_IDLE : Nat := 0x0600054
abbrev HST_CNT_AUTH : Nat := 0x0600058
abbrev HST_CNT_REPLAY : Nat := 0x060005C
abbrev HST_CNT_ETYPE : Nat := 0x0600060
abbrev HST_CNT_MAC : Nat := 0x0600064
abbrev HST_CNT_FORMAT : Nat := 0x0600068
abbrev HST_NOTIFY_RETRY : Nat := 0x060006C
abbrev HST_IRQ_SUM0 : Nat := 0x0600070
abbrev HST_IRQ_SUM1 : Nat := 0x0600074
abbrev HST_IRQ_SUM2 : Nat := 0x0600078
abbrev HST_IRQ_SUM3 : Nat := 0x060007C
abbrev HST_IRQ_SUM4 : Nat := 0x0600080
abbrev HST_IRQ_SUM5 : Nat := 0x0600084
abbrev HST_IRQ_SUM6 : Nat := 0x0600088
abbrev HST_IRQ_SUM7 : Nat := 0x060008C
abbrev HST_IRQ_INST_SEL : Nat := 0x0600090
abbrev HST_IRQ_INST0 : Nat := 0x0600094
abbrev HST_IRQ_INST1 : Nat := 0x0600098
abbrev HST_IRQ_INST2 : Nat := 0x060009C
abbrev HST_IRQ_INST3 : Nat := 0x06000A0
abbrev HST_IRQ_INST4 : Nat := 0x06000A4
abbrev HST_IRQ_INST5 : Nat := 0x06000A8
abbrev HST_IRQ_INST6 : Nat := 0x06000AC
abbrev HST_IRQ_INST7 : Nat := 0x06000B0
abbrev HST_SESS_SEL : Nat := 0x06000B4
abbrev HST_SESS_INFO : Nat := 0x06000B8
abbrev HST_SESS_SEQ : Nat := 0x06000BC
abbrev HST_MBX_LOCK : Nat := 0x06000C0
abbrev HST_MBX_H2F_DB : Nat := 0x06000C4
abbrev HST_MBX_F2H_DB : Nat := 0x06000C8
abbrev HST_MBX_DB_SRC : Nat := 0x06000CC

abbrev SYS_PART : Nat := 0x0100040
abbrev SYS_DIE_OK : Nat := 0x0100044
abbrev SYS_KRT_READY : Nat := 0x0100048
abbrev SYS_SCRATCH0 : Nat := 0x010004C
abbrev SYS_SCRATCH1 : Nat := 0x0100050
abbrev SYS_SCRATCH2 : Nat := 0x0100054
abbrev SYS_SCRATCH3 : Nat := 0x0100058

abbrev BOOT_IRQ_STAT : Nat := 0x0400010
abbrev BOOT_BOOT_STAT : Nat := 0x0400040
abbrev BOOT_SLOT_RES : Nat := 0x0400044
abbrev BOOT_SLOT_DET : Nat := 0x0400048
abbrev BOOT_SVN : Nat := 0x040004C
abbrev BOOT_RESTARTS : Nat := 0x0400050
abbrev BOOT_WDOG_CFG : Nat := 0x0400054
abbrev BOOT_WDOG_KICK : Nat := 0x0400058
abbrev BOOT_RESTART_CMD : Nat := 0x040005C
abbrev BOOT_IDENT_HASH0 : Nat := 0x0400060
abbrev BOOT_IDENT_HASH1 : Nat := 0x0400064
abbrev BOOT_IDENT_HASH2 : Nat := 0x0400068
abbrev BOOT_IDENT_HASH3 : Nat := 0x040006C
abbrev BOOT_IDENT_HASH4 : Nat := 0x0400070
abbrev BOOT_IDENT_HASH5 : Nat := 0x0400074
abbrev BOOT_IDENT_HASH6 : Nat := 0x0400078
abbrev BOOT_IDENT_HASH7 : Nat := 0x040007C
abbrev BOOT_IDENT_HASH8 : Nat := 0x0400080
abbrev BOOT_IDENT_HASH9 : Nat := 0x0400084
abbrev BOOT_IDENT_HASH10 : Nat := 0x0400088
abbrev BOOT_IDENT_HASH11 : Nat := 0x040008C
abbrev BOOT_MEAS_SEL : Nat := 0x0400090
abbrev BOOT_MEAS0 : Nat := 0x0400094
abbrev BOOT_MEAS1 : Nat := 0x0400098
abbrev BOOT_MEAS2 : Nat := 0x040009C
abbrev BOOT_MEAS3 : Nat := 0x04000A0
abbrev BOOT_MEAS4 : Nat := 0x04000A4
abbrev BOOT_MEAS5 : Nat := 0x04000A8
abbrev BOOT_MEAS6 : Nat := 0x04000AC
abbrev BOOT_MEAS7 : Nat := 0x04000B0
abbrev BOOT_MEAS8 : Nat := 0x04000B4
abbrev BOOT_MEAS9 : Nat := 0x04000B8
abbrev BOOT_MEAS10 : Nat := 0x04000BC
abbrev BOOT_MEAS11 : Nat := 0x04000C0
abbrev BOOT_SITE_SEQ : Nat := 0x04000C4

abbrev PROT_SEAL : Nat := 0x0500040
abbrev PROT_RIGHTS_SEL : Nat := 0x0500044
abbrev PROT_RIGHTS : Nat := 0x0500048
abbrev PROT_KEY_SEL : Nat := 0x050004C
abbrev PROT_KEY_INFO : Nat := 0x0500050
abbrev PROT_KEY_LOAD : Nat := 0x0500054
abbrev PROT_SETUP_HASH0 : Nat := 0x0500058
abbrev PROT_SETUP_HASH1 : Nat := 0x050005C
abbrev PROT_SETUP_HASH2 : Nat := 0x0500060
abbrev PROT_SETUP_HASH3 : Nat := 0x0500064
abbrev PROT_SETUP_HASH4 : Nat := 0x0500068
abbrev PROT_SETUP_HASH5 : Nat := 0x050006C
abbrev PROT_SETUP_HASH6 : Nat := 0x0500070
abbrev PROT_SETUP_HASH7 : Nat := 0x0500074
abbrev PROT_SETUP_HASH8 : Nat := 0x0500078
abbrev PROT_SETUP_HASH9 : Nat := 0x050007C
abbrev PROT_SETUP_HASH10 : Nat := 0x0500080
abbrev PROT_SETUP_HASH11 : Nat := 0x0500084

abbrev STG_IRQ_STAT : Nat := 0x1400010
abbrev STG_LIVE : Nat := 0x1400040
abbrev STG_ECC_CE : Nat := 0x1400044
abbrev STG_ECC_UE : Nat := 0x1400048
abbrev STG_UE_ADDR : Nat := 0x140004C
abbrev STG_SCRUB_CFG : Nat := 0x1400050
abbrev STG_SCRUB_STAT : Nat := 0x1400054
abbrev STG_CONFLICTS : Nat := 0x1400058
abbrev STG_PIN_SEL : Nat := 0x140005C
abbrev STG_PIN_BASE : Nat := 0x1400060
abbrev STG_PIN_SIZE : Nat := 0x1400064
abbrev STG_PIN_CTL : Nat := 0x1400068

abbrev STK_IRQ_STAT : Nat := 0x2000010
abbrev STK_CAP : Nat := 0x2000040
abbrev STK_ECC_CE : Nat := 0x2000044
abbrev STK_ECC_UE : Nat := 0x2000048
abbrev STK_UE_ADDR_LO : Nat := 0x200004C
abbrev STK_UE_ADDR_HI : Nat := 0x2000050
abbrev STK_SCRUB_CFG : Nat := 0x2000054
abbrev STK_SCRUB_STAT : Nat := 0x2000058
abbrev STK_RD_GIB : Nat := 0x200005C
abbrev STK_WR_GIB : Nat := 0x2000060

abbrev DMC_IRQ_STAT : Nat := 0x2100010
abbrev DMC_CH_STAT : Nat := 0x2100040
abbrev DMC_SET : Nat := 0x2100044
abbrev DMC_SPEED : Nat := 0x2100048
abbrev DMC_CAP_GIB : Nat := 0x210004C
abbrev DMC_CH_SEL : Nat := 0x2100050
abbrev DMC_CH_INFO : Nat := 0x2100054
abbrev DMC_ECC_CE : Nat := 0x2100058
abbrev DMC_ECC_UE : Nat := 0x210005C
abbrev DMC_UE_ADDR_LO : Nat := 0x2100060
abbrev DMC_UE_ADDR_HI : Nat := 0x2100064
abbrev DMC_SCRUB_CFG : Nat := 0x2100068
abbrev DMC_SCRUB_STAT : Nat := 0x210006C

abbrev SCH_IRQ_STAT : Nat := 0x1000010
abbrev SCH_TOK_SIGNAL : Nat := 0x1000040
abbrev SCH_TOK_SET : Nat := 0x1000044
abbrev SCH_DB_ADD : Nat := 0x1000048
abbrev SCH_TOK_SEL : Nat := 0x100004C
abbrev SCH_TOK_VAL : Nat := 0x1000050
abbrev SCH_TOK_INFO : Nat := 0x1000054
abbrev SCH_TOK_WAITERS : Nat := 0x1000058
abbrev SCH_NS_LO : Nat := 0x100005C
abbrev SCH_NS_HI : Nat := 0x1000060
abbrev SCH_WIN_OPEN : Nat := 0x1000064
abbrev SCH_CNT_TOK_DROP : Nat := 0x1000068
abbrev SCH_CNT_ABORT : Nat := 0x100006C
abbrev SCH_Q_HALTED : Nat := 0x1000070
abbrev SCH_ISSUE : Nat := 0x1000074
abbrev SCH_Qn_CFG : Nat := 0x1000400
abbrev SCH_Qn_RING_LO : Nat := 0x1000404
abbrev SCH_Qn_RING_HI : Nat := 0x1000408
abbrev SCH_Qn_CQ_LO : Nat := 0x100040C
abbrev SCH_Qn_CQ_HI : Nat := 0x1000410
abbrev SCH_Qn_SIZE : Nat := 0x1000414
abbrev SCH_Qn_TAIL : Nat := 0x1000418
abbrev SCH_Qn_HEAD : Nat := 0x100041C
abbrev SCH_Qn_DONE : Nat := 0x1000420
abbrev SCH_Qn_CTL : Nat := 0x1000424
abbrev SCH_Qn_STAT : Nat := 0x1000428
abbrev SCH_Qn_LAST_ERR : Nat := 0x100042C
abbrev SCH_Qn_LAST_IDX : Nat := 0x1000430
abbrev SCH_Qn_LAST_TAG : Nat := 0x1000434
abbrev SCH_Qn_WAIT_LIMIT : Nat := 0x1000438

abbrev CPY_IRQ_STAT : Nat := 0x1300010
abbrev CPY_CUR_TAG : Nat := 0x1300040
abbrev CPY_CUR_QUEUE : Nat := 0x1300044
abbrev CPY_BYTES_LO : Nat := 0x1300048
abbrev CPY_BYTES_HI : Nat := 0x130004C
abbrev CPY_DESC_COUNT : Nat := 0x1300050

abbrev ATM_IRQ_STAT : Nat := 0x1600010
abbrev ATM_CUR_TAG : Nat := 0x1600040
abbrev ATM_CUR_DEST : Nat := 0x1600044
abbrev ATM_BYTES_LO : Nat := 0x1600048
abbrev ATM_BYTES_HI : Nat := 0x160004C
abbrev ATM_DESC_COUNT : Nat := 0x1600050
abbrev ATM_DEST_FAIL : Nat := 0x1600054

abbrev RED_IRQ_STAT : Nat := 0x1100010
abbrev RED_CUR_TAG : Nat := 0x1100040
abbrev RED_CUR_QUEUE : Nat := 0x1100044
abbrev RED_ELEMS_LO : Nat := 0x1100048
abbrev RED_ELEMS_HI : Nat := 0x110004C
abbrev RED_DESC_COUNT : Nat := 0x1100050
abbrev RED_CNT_NAN : Nat := 0x1100054
abbrev RED_CNT_OVF : Nat := 0x1100058
abbrev RED_CNT_SAT : Nat := 0x110005C
abbrev RED_CNT_FRESH_RD : Nat := 0x1100060
abbrev RED_TEST_CTL : Nat := 0x1100064
abbrev RED_TEST_STAT : Nat := 0x1100068
abbrev RED_CT_COUNT_USED : Nat := 0x1100100
abbrev RED_CT_SEL : Nat := 0x1100104
abbrev RED_CT_STATE : Nat := 0x1100108
abbrev RED_CT_ACC_LO : Nat := 0x110010C
abbrev RED_CT_ACC_HI : Nat := 0x1100110
abbrev RED_CT_ELEMS : Nat := 0x1100114
abbrev RED_CT_PROG : Nat := 0x1100118
abbrev RED_CT_ARRIVED : Nat := 0x110011C
abbrev RED_CT_DONE_TOK : Nat := 0x1100120
abbrev RED_CT_CMD : Nat := 0x1100124
abbrev RED_CNT_CT_FULL : Nat := 0x1100128
abbrev RED_CNT_ORDER : Nat := 0x110012C

abbrev OPT_IRQ_STAT : Nat := 0x1200010
abbrev OPT_CUR_TAG : Nat := 0x1200040
abbrev OPT_CUR_QUEUE : Nat := 0x1200044
abbrev OPT_CUR_TILE : Nat := 0x1200048
abbrev OPT_CUR_CYCLES : Nat := 0x120004C
abbrev OPT_ELEMS_LO : Nat := 0x1200050
abbrev OPT_ELEMS_HI : Nat := 0x1200054
abbrev OPT_DESC_COUNT : Nat := 0x1200058
abbrev OPT_CNT_NAN : Nat := 0x120005C
abbrev OPT_CNT_OVF : Nat := 0x1200060
abbrev OPT_CNT_SAT : Nat := 0x1200064
abbrev OPT_TEST_CTL : Nat := 0x1200068
abbrev OPT_TEST_STAT : Nat := 0x120006C
abbrev OPT_CNT_MIRROR_FAIL : Nat := 0x1200100
abbrev OPT_MIRROR_LAST_LO : Nat := 0x1200104
abbrev OPT_MIRROR_LAST_HI : Nat := 0x1200108
abbrev OPT_MIRROR_ACTIVE : Nat := 0x120010C

abbrev PLN_IRQ_STAT : Nat := 0x4700010
abbrev PLN_CUR_TAG : Nat := 0x4700040
abbrev PLN_CUR_QUEUE : Nat := 0x4700044
abbrev PLN_CUR_STAGE : Nat := 0x4700048
abbrev PLN_CUR_CYCLES : Nat := 0x470004C
abbrev PLN_DESC_COUNT : Nat := 0x4700050
abbrev PLN_LAST_STATUS : Nat := 0x4700054
abbrev PLN_LAST_CYCLES : Nat := 0x4700058
abbrev PLN_LAST_DEV : Nat := 0x470005C
abbrev PLN_LAST_COVERED : Nat := 0x4700060
abbrev PLN_LAST_BIDS : Nat := 0x4700064
abbrev PLN_CNT_BADELEM : Nat := 0x4700068
abbrev PLN_CNT_BUDGET : Nat := 0x470006C
abbrev PLN_CNT_NOCONV : Nat := 0x4700070
abbrev PLN_CNT_GREEDY : Nat := 0x4700074
abbrev PLN_TEST_CTL : Nat := 0x4700078
abbrev PLN_TEST_STAT : Nat := 0x470007C
abbrev PLN_MAP_STAT : Nat := 0x4700100
abbrev PLN_MAP_SEQ : Nat := 0x4700104
abbrev PLN_MAP_PLANE : Nat := 0x4700108
abbrev PLN_PRESENT : Nat := 0x470010C

abbrev LNK_IRQ_STAT : Nat := 0x3000010
abbrev LNK_STATUS : Nat := 0x3000040
abbrev LNK_CTL : Nat := 0x3000044
abbrev LNK_BER_LIMIT : Nat := 0x3000048
abbrev LNK_CNT_CORR : Nat := 0x300004C
abbrev LNK_CNT_UNCORR : Nat := 0x3000050
abbrev LNK_CNT_REPLAY : Nat := 0x3000054
abbrev LNK_CNT_NARROW : Nat := 0x3000058
abbrev LNK_CNT_DOWN : Nat := 0x300005C
abbrev LNK_PART_SEL : Nat := 0x3000060
abbrev LNK_PART_CFG : Nat := 0x3000064
abbrev LNK_PART_USE : Nat := 0x3000068
abbrev LNK_SHARED : Nat := 0x300006C
abbrev LNK_TX_GIB : Nat := 0x3000070
abbrev LNK_RX_GIB : Nat := 0x3000074
abbrev LNK_TEST_CTL : Nat := 0x3000078
abbrev LNK_TEST_ERR : Nat := 0x300007C

abbrev FPP_IRQ_STAT : Nat := 0x3100010
abbrev FPP_ETYPE : Nat := 0x3100040
abbrev FPP_MAC_LO : Nat := 0x3100044
abbrev FPP_MAC_HI : Nat := 0x3100048
abbrev FPP_BRANCH_STAT : Nat := 0x310004C
abbrev FPP_KFT_CFG : Nat := 0x3100050
abbrev FPP_RTO : Nat := 0x3100054
abbrev FPP_BR_TIMEOUT : Nat := 0x3100058
abbrev FPP_BR_SEL : Nat := 0x310005C
abbrev FPP_BR_PEER_MAC_LO : Nat := 0x3100060
abbrev FPP_BR_PEER_MAC_HI : Nat := 0x3100064
abbrev FPP_BR_TX_LO : Nat := 0x3100068
abbrev FPP_BR_TX_HI : Nat := 0x310006C
abbrev FPP_BR_RX_LO : Nat := 0x3100070
abbrev FPP_BR_RX_HI : Nat := 0x3100074
abbrev FPP_CNT_FCS : Nat := 0x3100078
abbrev FPP_CNT_MAC : Nat := 0x310007C
abbrev FPP_CNT_ETYPE : Nat := 0x3100080
abbrev FPP_CNT_HDR : Nat := 0x3100084
abbrev FPP_CNT_NOWIN : Nat := 0x3100088
abbrev FPP_CNT_BOUNDS : Nat := 0x310008C
abbrev FPP_CNT_FMT : Nat := 0x3100090
abbrev FPP_CNT_DUP : Nat := 0x3100094
abbrev FPP_CNT_RETX : Nat := 0x3100098
abbrev FPP_CNT_NAK_RX : Nat := 0x310009C
abbrev FPP_CNT_BR_TIMEOUT : Nat := 0x31000A0
abbrev FPP_WAITING : Nat := 0x31000A4
abbrev FPP_TEST_CTL : Nat := 0x31000A8
abbrev FPP_TEST_ERR : Nat := 0x31000AC

abbrev XBR_IRQ_STAT : Nat := 0x3200010
abbrev XBR_TRANSIT_GIB : Nat := 0x3200040
abbrev XBR_CNT_STALL : Nat := 0x3200044
abbrev XBR_TRANSIT_EN : Nat := 0x3200100
abbrev XBR_REACH : Nat := 0x3200104
abbrev XBR_ROUTE_SEL : Nat := 0x3200108
abbrev XBR_ROUTE : Nat := 0x320010C
abbrev XBR_PEER_REACH : Nat := 0x3200110

abbrev PLI_IRQ_STAT : Nat := 0x4100010
abbrev PLI_STATUS : Nat := 0x4100040
abbrev PLI_TILE_LOST_LO : Nat := 0x4100044
abbrev PLI_TILE_LOST_HI : Nat := 0x4100048
abbrev PLI_TILE_PARKED_LO : Nat := 0x410004C
abbrev PLI_TILE_PARKED_HI : Nat := 0x4100050
abbrev PLI_TILE_SEL : Nat := 0x4100054
abbrev PLI_TILE_SEQ : Nat := 0x4100058
abbrev PLI_TILE_ACT : Nat := 0x410005C
abbrev PLI_CNT_CRC : Nat := 0x4100060
abbrev PLI_CNT_GAP : Nat := 0x4100064
abbrev PLI_CNT_STALE : Nat := 0x4100068
abbrev PLI_CNT_ACT : Nat := 0x410006C
abbrev PLI_LAT_MAX : Nat := 0x4100070
abbrev PLI_LOST_LIMIT : Nat := 0x4100074

abbrev LPE_IRQ_STAT : Nat := 0x4000010
abbrev LPE_SLOTS : Nat := 0x4000040
abbrev LPE_CNT_DL_MISS : Nat := 0x4000044
abbrev LPE_LOAD_MAX : Nat := 0x4000048
abbrev LPE_TEST_CTL : Nat := 0x400004C
abbrev LPE_TEST_STAT : Nat := 0x4000050
abbrev LPE_SLOT_SEL : Nat := 0x4000100
abbrev LPE_SLOT_CFG : Nat := 0x4000104
abbrev LPE_KP : Nat := 0x4000108
abbrev LPE_KI : Nat := 0x400010C
abbrev LPE_KD : Nat := 0x4000110
abbrev LPE_KF : Nat := 0x4000114
abbrev LPE_SHIFTS : Nat := 0x4000118
abbrev LPE_OUT_MIN : Nat := 0x400011C
abbrev LPE_OUT_MAX : Nat := 0x4000120
abbrev LPE_SP : Nat := 0x4000124
abbrev LPE_RATE : Nat := 0x4000128
abbrev LPE_AGAIN : Nat := 0x400012C
abbrev LPE_LSTAT : Nat := 0x4000130
abbrev LPE_INTEG : Nat := 0x4000134
abbrev LPE_SETPT : Nat := 0x4000138
abbrev LPE_LOUT : Nat := 0x400013C
abbrev LPE_AX_OUT : Nat := 0x4000140
abbrev LPE_AX_CODE : Nat := 0x4000144
abbrev LPE_AX_HYST : Nat := 0x4000148
abbrev LPE_AT_SLOT_SEL : Nat := 0x400014C
abbrev LPE_AT_CTL : Nat := 0x4000150
abbrev LPE_AT_H : Nat := 0x4000154
abbrev LPE_AT_EPS : Nat := 0x4000158
abbrev LPE_AT_AMAX : Nat := 0x400015C
abbrev LPE_AT_RESULT : Nat := 0x4000160
abbrev LPE_AT_KU : Nat := 0x4000164
abbrev LPE_AT_TU : Nat := 0x4000168
abbrev LPE_AT_KP : Nat := 0x400016C
abbrev LPE_AT_KI : Nat := 0x4000170
abbrev LPE_AT_KD : Nat := 0x4000174
abbrev LPE_AT_AMP : Nat := 0x4000178
abbrev LPE_JOG_CNT0 : Nat := 0x4000180
abbrev LPE_JOG_CNT1 : Nat := 0x4000184
abbrev LPE_JOG_CNT2 : Nat := 0x4000188
abbrev LPE_JOG_CNT3 : Nat := 0x400018C
abbrev LPE_JOG_CTL : Nat := 0x4000190
abbrev LPE_JOG_ERR : Nat := 0x4000194

abbrev ACD_IRQ_STAT : Nat := 0x4200010
abbrev ACD_SERVICE : Nat := 0x4200040
abbrev ACD_PRESENT : Nat := 0x4200044
abbrev ACD_COMMIT_SEQ : Nat := 0x4200048
abbrev ACD_CUR_STAT : Nat := 0x420004C
abbrev ACD_COUNTS : Nat := 0x4200050
abbrev ACD_LAST_TIME : Nat := 0x4200054
abbrev ACD_Q_ADDR_LO : Nat := 0x4200058
abbrev ACD_Q_ADDR_HI : Nat := 0x420005C
abbrev ACD_Q_ACCORD : Nat := 0x4200060
abbrev ACD_Q_WAIT : Nat := 0x4200064
abbrev ACD_Q_WAIT_THR : Nat := 0x4200068
abbrev ACD_Q_SIG : Nat := 0x420006C
abbrev ACD_Q_SIG_INC : Nat := 0x4200070
abbrev ACD_Q_CMD : Nat := 0x4200074
abbrev ACD_Q_STAT : Nat := 0x4200078
abbrev ACD_LAST_ACCORD : Nat := 0x420007C
abbrev ACD_LAST_RESULT : Nat := 0x4200080
abbrev ACD_MOVE_MAX : Nat := 0x4200084
abbrev ACD_SETTLE_MAX : Nat := 0x4200088
abbrev ACD_PEAK_MAX : Nat := 0x420008C
abbrev ACD_SETTLE_WIN : Nat := 0x4200090
abbrev ACD_DITH : Nat := 0x4200094
abbrev ACD_DITH_AMP : Nat := 0x4200098
abbrev ACD_PK_GAIN : Nat := 0x420009C
abbrev ACD_PK_CFG : Nat := 0x42000A0
abbrev ACD_PK_TOL : Nat := 0x42000A4
abbrev ACD_LOCK : Nat := 0x42000A8
abbrev ACD_GEN_BUSY : Nat := 0x42000AC
abbrev ACD_MIR_SEL : Nat := 0x42000B0
abbrev ACD_MIR_STAT : Nat := 0x42000B4
abbrev ACD_MIR_TRIM_X : Nat := 0x42000B8
abbrev ACD_MIR_TRIM_Y : Nat := 0x42000BC
abbrev ACD_CNT_DONE : Nat := 0x42000C0
abbrev ACD_CNT_REFUSED : Nat := 0x42000C4

abbrev FSL_IRQ_STAT : Nat := 0x4300010
abbrev FSL_CFG : Nat := 0x4300040
abbrev FSL_STATUS : Nat := 0x4300044
abbrev FSL_FSEL_FORCE : Nat := 0x4300048
abbrev FSL_ACT : Nat := 0x430004C
abbrev FSL_MZI_SEL : Nat := 0x4300050
abbrev FSL_LOOP_CTL : Nat := 0x4300054
abbrev FSL_LOOP_STAT : Nat := 0x4300058
abbrev FSL_DITH : Nat := 0x430005C
abbrev FSL_BW : Nat := 0x4300060
abbrev FSL_HEATER : Nat := 0x4300064
abbrev FSL_HEATER_SET : Nat := 0x4300068
abbrev FSL_LOOPVAL : Nat := 0x430006C
abbrev FSL_FRINGE : Nat := 0x4300070
abbrev FSL_KA : Nat := 0x4300074
abbrev FSL_KT : Nat := 0x4300078
abbrev FSL_FF_CFG : Nat := 0x430007C
abbrev FSL_GRAD : Nat := 0x4300080
abbrev FSL_CURV : Nat := 0x4300084
abbrev FSL_CNT_WRONG : Nat := 0x4300088
abbrev FSL_CNT_REACQ : Nat := 0x430008C
abbrev FSL_PILOT_INT : Nat := 0x4300090

abbrev AFE_IRQ_STAT : Nat := 0x4400010
abbrev AFE_CH_SEL : Nat := 0x4400040
abbrev AFE_CH_CFG : Nat := 0x4400044
abbrev AFE_CH_CODE : Nat := 0x4400048
abbrev AFE_CH_TRIM : Nat := 0x440004C
abbrev AFE_CH_CAL : Nat := 0x4400050
abbrev AFE_OUT_SEL : Nat := 0x4400054
abbrev AFE_OUT_CODE : Nat := 0x4400058
abbrev AFE_DARK_THR : Nat := 0x440005C
abbrev AFE_LIGHT_MIN : Nat := 0x4400060
abbrev AFE_CNT_OVR : Nat := 0x4400064
abbrev AFE_CNT_CALINPUT : Nat := 0x4400068

abbrev CAL_IRQ_STAT : Nat := 0x4500010
abbrev CAL_CMD : Nat := 0x4500040
abbrev CAL_PORTS : Nat := 0x4500044
abbrev CAL_SCOPE : Nat := 0x4500048
abbrev CAL_PLANE_REF0 : Nat := 0x450004C
abbrev CAL_PLANE_REF1 : Nat := 0x4500050
abbrev CAL_PLANE_REF2 : Nat := 0x4500054
abbrev CAL_RESULT : Nat := 0x4500058
abbrev CAL_PROGRESS : Nat := 0x450005C
abbrev CAL_FAIL_PORTS : Nat := 0x4500060
abbrev CAL_FAIL_MIRRORS : Nat := 0x4500064
abbrev CAL_VALID : Nat := 0x4500068
abbrev CAL_LAST_MS : Nat := 0x450006C

abbrev FIX_IRQ_STAT : Nat := 0x4600010
abbrev FIX_SLOT : Nat := 0x4600040
abbrev FIX_SEQ : Nat := 0x4600044
abbrev FIX_SECTIONS : Nat := 0x4600048
abbrev FIX_CMD : Nat := 0x460004C
abbrev FIX_SAVED_OPTIME_LO : Nat := 0x4600050
abbrev FIX_SAVED_OPTIME_HI : Nat := 0x4600054
abbrev FIX_SLOT_HASH0 : Nat := 0x4600058
abbrev FIX_SLOT_HASH1 : Nat := 0x460005C
abbrev FIX_SLOT_HASH2 : Nat := 0x4600060
abbrev FIX_SLOT_HASH3 : Nat := 0x4600064
abbrev FIX_SLOT_HASH4 : Nat := 0x4600068
abbrev FIX_SLOT_HASH5 : Nat := 0x460006C
abbrev FIX_SLOT_HASH6 : Nat := 0x4600070
abbrev FIX_SLOT_HASH7 : Nat := 0x4600074
abbrev FIX_SLOT_HASH8 : Nat := 0x4600078
abbrev FIX_SLOT_HASH9 : Nat := 0x460007C
abbrev FIX_SLOT_HASH10 : Nat := 0x4600080
abbrev FIX_SLOT_HASH11 : Nat := 0x4600084
abbrev FIX_WRITER_HASH0 : Nat := 0x4600088
abbrev FIX_WRITER_HASH1 : Nat := 0x460008C
abbrev FIX_WRITER_HASH2 : Nat := 0x4600090
abbrev FIX_WRITER_HASH3 : Nat := 0x4600094
abbrev FIX_WRITER_HASH4 : Nat := 0x4600098
abbrev FIX_WRITER_HASH5 : Nat := 0x460009C
abbrev FIX_WRITER_HASH6 : Nat := 0x46000A0
abbrev FIX_WRITER_HASH7 : Nat := 0x46000A4
abbrev FIX_WRITER_HASH8 : Nat := 0x46000A8
abbrev FIX_WRITER_HASH9 : Nat := 0x46000AC
abbrev FIX_WRITER_HASH10 : Nat := 0x46000B0
abbrev FIX_WRITER_HASH11 : Nat := 0x46000B4
abbrev FIX_CNT_SAVES : Nat := 0x46000B8

abbrev RDN_IRQ_STAT : Nat := 0x0A00010
abbrev RDN_STATUS : Nat := 0x0A00040
abbrev RDN_CTL : Nat := 0x0A00044
abbrev RDN_CFG : Nat := 0x0A00048
abbrev RDN_CMP_TOL : Nat := 0x0A0004C
abbrev RDN_CLAIM_WAIT : Nat := 0x0A00050
abbrev RDN_CNT_MISMATCH : Nat := 0x0A00054
abbrev RDN_CNT_SWITCH : Nat := 0x0A00058
abbrev RDN_CNT_INTEG_FIX : Nat := 0x0A0005C
abbrev RDN_CNT_SILENT : Nat := 0x0A00060
abbrev RDN_CNT_RACE : Nat := 0x0A00064
abbrev RDN_LAST_MISMATCH : Nat := 0x0A00068
abbrev RDN_LAST_CHECK : Nat := 0x0A0006C
abbrev RDN_LAST_DRYDOWN : Nat := 0x0A00070
abbrev RDN_SYNC_STAT : Nat := 0x0A00074

abbrev EVR_IRQ_STAT : Nat := 0x0700010
abbrev EVR_CFG : Nat := 0x0700040
abbrev EVR_RL_CFG : Nat := 0x0700044
abbrev EVR_NEWEST_SEQ : Nat := 0x0700048
abbrev EVR_OLDEST_SEQ : Nat := 0x070004C
abbrev EVR_RING : Nat := 0x0700050
abbrev EVR_RD_SEQ : Nat := 0x0700054
abbrev EVR_RD_STAT : Nat := 0x0700058
abbrev EVR_RD_NEXT : Nat := 0x070005C
abbrev EVR_REC0 : Nat := 0x0700060
abbrev EVR_REC1 : Nat := 0x0700064
abbrev EVR_REC2 : Nat := 0x0700068
abbrev EVR_REC3 : Nat := 0x070006C
abbrev EVR_REC4 : Nat := 0x0700070
abbrev EVR_REC5 : Nat := 0x0700074
abbrev EVR_REC6 : Nat := 0x0700078
abbrev EVR_REC7 : Nat := 0x070007C
abbrev EVR_REC8 : Nat := 0x0700080
abbrev EVR_REC9 : Nat := 0x0700084
abbrev EVR_REC10 : Nat := 0x0700088
abbrev EVR_REC11 : Nat := 0x070008C
abbrev EVR_REC12 : Nat := 0x0700090
abbrev EVR_REC13 : Nat := 0x0700094
abbrev EVR_REC14 : Nat := 0x0700098
abbrev EVR_REC15 : Nat := 0x070009C
abbrev EVR_RELEASE : Nat := 0x07000A0
abbrev EVR_CNT_LOST : Nat := 0x07000A4
abbrev EVR_CNT_SUPPRESSED : Nat := 0x07000A8
abbrev EVR_CNT_DROPPED : Nat := 0x07000AC
abbrev EVR_CNT_PERSIST_LOST : Nat := 0x07000B0
abbrev EVR_PERSIST_SEQ : Nat := 0x07000B4
abbrev EVR_SEV_SEL : Nat := 0x07000B8
abbrev EVR_SEV_MAP : Nat := 0x07000BC
abbrev EVR_HM_CTL : Nat := 0x07000C0
abbrev EVR_HM_TEXT0 : Nat := 0x07000C4
abbrev EVR_HM_TEXT1 : Nat := 0x07000C8
abbrev EVR_HM_TEXT2 : Nat := 0x07000CC
abbrev EVR_HM_TEXT3 : Nat := 0x07000D0
abbrev EVR_HM_TEXT4 : Nat := 0x07000D4
abbrev EVR_HM_TEXT5 : Nat := 0x07000D8
abbrev EVR_HM_TEXT6 : Nat := 0x07000DC
abbrev EVR_HM_TEXT7 : Nat := 0x07000E0
abbrev EVR_TIME_STAT : Nat := 0x07000E4
abbrev EVR_BASE_LO : Nat := 0x07000E8
abbrev EVR_BASE_HI : Nat := 0x07000EC

abbrev CRC_IRQ_STAT : Nat := 0x0800010
abbrev CRC_START_LO : Nat := 0x0800040
abbrev CRC_START_HI : Nat := 0x0800044
abbrev CRC_LENGTH : Nat := 0x0800048
abbrev CRC_EXP_A : Nat := 0x080004C
abbrev CRC_EXP_B : Nat := 0x0800050
abbrev CRC_EXP_PAR : Nat := 0x0800054
abbrev CRC_CTL : Nat := 0x0800058
abbrev CRC_PERIOD_MS : Nat := 0x080005C
abbrev CRC_RESULT : Nat := 0x0800060
abbrev CRC_LAST_CRC : Nat := 0x0800064
abbrev CRC_PASSES : Nat := 0x0800068
abbrev CRC_CNT_CHECK : Nat := 0x080006C
abbrev CRC_CNT_REFFAULT : Nat := 0x0800070
abbrev CRC_PROGRESS : Nat := 0x0800074

abbrev BNK_IRQ_STAT : Nat := 0x0900010
abbrev BNK_ECC_CE : Nat := 0x0900040
abbrev BNK_ECC_UE : Nat := 0x0900044
abbrev BNK_UE_ADDR : Nat := 0x0900048
abbrev BNK_CONFLICTS : Nat := 0x090004C
abbrev BNK_MBX_STAT : Nat := 0x0900050
abbrev BNK_MBX_SID : Nat := 0x0900054
abbrev BNK_CNT_MBX : Nat := 0x0900058

abbrev BLT_IRQ_STAT : Nat := 0x4800010
abbrev BLT_CFG : Nat := 0x4800040
abbrev BLT_CUR : Nat := 0x4800044
abbrev BLT_PASSES : Nat := 0x4800048
abbrev BLT_CNT_ABORT : Nat := 0x480004C
abbrev BLT_CNT_SKIP : Nat := 0x4800050
abbrev BLT_CNT_FAIL : Nat := 0x4800054
abbrev BLT_REPAIR : Nat := 0x4800058
abbrev BLT_FAIL_ADDR : Nat := 0x480005C
abbrev BLT_REG_SEL : Nat := 0x4800060
abbrev BLT_REG_STAT : Nat := 0x4800064

end Reg

/-- The registers of a PWR page (type 0x02) and their fields. -/
def regsPWR : List RegInfo :=
  [{ ofs := 0x010, w1c := 0x1F },
   { ofs := 0x040, ro := 0x7777 },
   { ofs := 0x044, wo := 0x33 },
   { ofs := 0x048, rw := 0xFFFF, reset := 0x32 },
   { ofs := 0x04C, rw := 0xFFFF, reset := 0xA },
   { ofs := 0x050, ro := 0x7777 },
   { ofs := 0x054, ro := 0x77777777 },
   { ofs := 0x058, ro := 0x77 },
   { ofs := 0x05C, ro := 0x77777777 },
   { ofs := 0x060, ro := 0x7777 },
   { ofs := 0x064, ro := 0x1FF0F },
   { ofs := 0x068, rw := 0xFF, reset := 0x14 },
   { ofs := 0x06C, rw := 0xFFF, reset := 0x708 },
   { ofs := 0x070, ro := 0xFFF },
   { ofs := 0x074, ro := 0x7FFFF },
   { ofs := 0x078, w1c := 0x7FFFF }] ++
  [{ ofs := 0x07C, ro := 0x1FFF },
   { ofs := 0x080, rw := 0xFFFF, ro := 0xFF0000, reset := 0x736E64 },
   { ofs := 0x084, ro := 0xF },
   { ofs := 0x088, ro := 0xFFF },
   { ofs := 0x08C, ro := 0x3 },
   { ofs := 0x090, ro := 0xFFFFFFFF },
   { ofs := 0x094, ro := 0xFF },
   { ofs := 0x098, ro := 0xFFFFFF },
   { ofs := 0x09C, ro := 0x1F },
   { ofs := 0x0A0, w1c := 0xF, reset := 0x1 },
   { ofs := 0x0A4, ro := 0xFFFFFFFF },
   { ofs := 0x0A8, ro := 0xFFFFFFFF },
   { ofs := 0x0AC, ro := 0xFFFFFFFF },
   { ofs := 0x0B0, ro := 0xFFFFFFFF },
   { ofs := 0x0B4, ro := 0xFFFFFFFF },
   { ofs := 0x0B8, ro := 0xFFFFFFFF }] ++
  [{ ofs := 0x0BC, ro := 0xFFFFFFFF },
   { ofs := 0x0C0, ro := 0xFFFFFFFF }]

/-- The registers of a CLK page (type 0x03) and their fields. -/
def regsCLK : List RegInfo :=
  [{ ofs := 0x010, w1c := 0x7 },
   { ofs := 0x040, ro := 0x7 },
   { ofs := 0x044, ro := 0x1FFF },
   { ofs := 0x048, w1c := 0xFFF },
   { ofs := 0x04C, ro := 0xFFFF },
   { ofs := 0x050, ro := 0xFFFFFF, reset := 0x3E8640 }]

/-- The registers of a HST page (type 0x06) and their fields. -/
def regsHST : List RegInfo :=
  [{ ofs := 0x010, w1c := 0x3F },
   { ofs := 0x040, rw := 0xFFFF, reset := 0x88B5 },
   { ofs := 0x044, ro := 0xFFFFFFFF },
   { ofs := 0x048, ro := 0xFFFF },
   { ofs := 0x04C, ro := 0x3F },
   { ofs := 0x050, ro := 0xFF },
   { ofs := 0x054, rw := 0xFFFF, reset := 0x3C },
   { ofs := 0x058, rw := 0xFFFFFFFF },
   { ofs := 0x05C, rw := 0xFFFFFFFF },
   { ofs := 0x060, rw := 0xFFFFFFFF },
   { ofs := 0x064, rw := 0xFFFFFFFF },
   { ofs := 0x068, rw := 0xFFFFFFFF },
   { ofs := 0x06C, rw := 0xFFF, reset := 0x80A },
   { ofs := 0x070, ro := 0xFFFFFFFF },
   { ofs := 0x074, ro := 0xFFFFFFFF },
   { ofs := 0x078, ro := 0xFFFFFFFF }] ++
  [{ ofs := 0x07C, ro := 0xFFFFFFFF },
   { ofs := 0x080, ro := 0xFFFFFFFF },
   { ofs := 0x084, ro := 0xFFFFFFFF },
   { ofs := 0x088, ro := 0xFFFFFFFF },
   { ofs := 0x08C, ro := 0xFFFFFFFF },
   { ofs := 0x090, rw := 0xFF },
   { ofs := 0x094, ro := 0xFFFFFFFF },
   { ofs := 0x098, ro := 0xFFFFFFFF },
   { ofs := 0x09C, ro := 0xFFFFFFFF },
   { ofs := 0x0A0, ro := 0xFFFFFFFF },
   { ofs := 0x0A4, ro := 0xFFFFFFFF },
   { ofs := 0x0A8, ro := 0xFFFFFFFF },
   { ofs := 0x0AC, ro := 0xFFFFFFFF },
   { ofs := 0x0B0, ro := 0xFFFFFFFF },
   { ofs := 0x0B4, rw := 0x7 },
   { ofs := 0x0B8, ro := 0xFFFF000F }] ++
  [{ ofs := 0x0BC, ro := 0xFFFFFFFF },
   { ofs := 0x0C0, w1s := 0x30000, ro := 0xFFFF },
   { ofs := 0x0C4, w1s := 0xFFFF },
   { ofs := 0x0C8, w1c := 0xFFFF },
   { ofs := 0x0CC, ro := 0x3FFFF }]

/-- The registers of a SYS page (type 0x01) and their fields. -/
def regsSYS : List RegInfo :=
  [{ ofs := 0x040, ro := 0xFFFFFF, reset := 0xA11152 },
   { ofs := 0x044, ro := 0xFFFFFFFF },
   { ofs := 0x048, ro := 0x1 },
   { ofs := 0x04C, rw := 0xFFFFFFFF },
   { ofs := 0x050, rw := 0xFFFFFFFF },
   { ofs := 0x054, rw := 0xFFFFFFFF },
   { ofs := 0x058, rw := 0xFFFFFFFF }]

/-- The registers of a BOOT page (type 0x04) and their fields. -/
def regsBOOT : List RegInfo :=
  [{ ofs := 0x010, w1c := 0x1F },
   { ofs := 0x040, ro := 0x3F },
   { ofs := 0x044, ro := 0xFFFFFFFF, reset := 0x10001 },
   { ofs := 0x048, ro := 0xFFFF },
   { ofs := 0x04C, ro := 0xFFFF },
   { ofs := 0x050, ro := 0xFFFF },
   { ofs := 0x054, rw := 0xFFFF, reset := 0x3E8 },
   { ofs := 0x058, w1s := 0x1 },
   { ofs := 0x05C, wo := 0x1 },
   { ofs := 0x060, ro := 0xFFFFFFFF },
   { ofs := 0x064, ro := 0xFFFFFFFF },
   { ofs := 0x068, ro := 0xFFFFFFFF },
   { ofs := 0x06C, ro := 0xFFFFFFFF },
   { ofs := 0x070, ro := 0xFFFFFFFF },
   { ofs := 0x074, ro := 0xFFFFFFFF },
   { ofs := 0x078, ro := 0xFFFFFFFF }] ++
  [{ ofs := 0x07C, ro := 0xFFFFFFFF },
   { ofs := 0x080, ro := 0xFFFFFFFF },
   { ofs := 0x084, ro := 0xFFFFFFFF },
   { ofs := 0x088, ro := 0xFFFFFFFF },
   { ofs := 0x08C, ro := 0xFFFFFFFF },
   { ofs := 0x090, rw := 0x3 },
   { ofs := 0x094, ro := 0xFFFFFFFF },
   { ofs := 0x098, ro := 0xFFFFFFFF },
   { ofs := 0x09C, ro := 0xFFFFFFFF },
   { ofs := 0x0A0, ro := 0xFFFFFFFF },
   { ofs := 0x0A4, ro := 0xFFFFFFFF },
   { ofs := 0x0A8, ro := 0xFFFFFFFF },
   { ofs := 0x0AC, ro := 0xFFFFFFFF },
   { ofs := 0x0B0, ro := 0xFFFFFFFF },
   { ofs := 0x0B4, ro := 0xFFFFFFFF },
   { ofs := 0x0B8, ro := 0xFFFFFFFF }] ++
  [{ ofs := 0x0BC, ro := 0xFFFFFFFF },
   { ofs := 0x0C0, ro := 0xFFFFFFFF },
   { ofs := 0x0C4, ro := 0xFFFFFFFF }]

/-- The registers of a PROT page (type 0x05) and their fields. -/
def regsPROT : List RegInfo :=
  [{ ofs := 0x040, w1s := 0x1, ro := 0x2 },
   { ofs := 0x044, rw := 0xFF },
   { ofs := 0x048, rw := 0x3FF },
   { ofs := 0x04C, rw := 0x7 },
   { ofs := 0x050, rw := 0x7 },
   { ofs := 0x054, wo := 0xFFFFFFFF },
   { ofs := 0x058, ro := 0xFFFFFFFF },
   { ofs := 0x05C, ro := 0xFFFFFFFF },
   { ofs := 0x060, ro := 0xFFFFFFFF },
   { ofs := 0x064, ro := 0xFFFFFFFF },
   { ofs := 0x068, ro := 0xFFFFFFFF },
   { ofs := 0x06C, ro := 0xFFFFFFFF },
   { ofs := 0x070, ro := 0xFFFFFFFF },
   { ofs := 0x074, ro := 0xFFFFFFFF },
   { ofs := 0x078, ro := 0xFFFFFFFF },
   { ofs := 0x07C, ro := 0xFFFFFFFF }] ++
  [{ ofs := 0x080, ro := 0xFFFFFFFF },
   { ofs := 0x084, ro := 0xFFFFFFFF }]

/-- The registers of a STG page (type 0x14) and their fields. -/
def regsSTG : List RegInfo :=
  [{ ofs := 0x010, w1c := 0x7 },
   { ofs := 0x040, ro := 0x1FFFFF },
   { ofs := 0x044, rw := 0xFFFFFFFF },
   { ofs := 0x048, rw := 0xFFFFFFFF },
   { ofs := 0x04C, ro := 0xFFFFFC0 },
   { ofs := 0x050, rw := 0xFFF, reset := 0xA },
   { ofs := 0x054, ro := 0x1FFFF },
   { ofs := 0x058, rw := 0xFFFFFFFF },
   { ofs := 0x05C, rw := 0xF },
   { ofs := 0x060, rw := 0xFFF },
   { ofs := 0x064, rw := 0x1FFF },
   { ofs := 0x068, rw := 0xFFF0001 }]

/-- The registers of a STK page (type 0x20) and their fields. -/
def regsSTK : List RegInfo :=
  [{ ofs := 0x010, w1c := 0x7 },
   { ofs := 0x040, ro := 0xFFFF, reset := 0x50 },
   { ofs := 0x044, rw := 0xFFFFFFFF },
   { ofs := 0x048, rw := 0xFFFFFFFF },
   { ofs := 0x04C, ro := 0xFFFFFFC0 },
   { ofs := 0x050, ro := 0x1F },
   { ofs := 0x054, rw := 0xFF, reset := 0x18 },
   { ofs := 0x058, ro := 0x1FFFF },
   { ofs := 0x05C, ro := 0xFFFFFFFF },
   { ofs := 0x060, ro := 0xFFFFFFFF }]

/-- The registers of a DMC page (type 0x21) and their fields. -/
def regsDMC : List RegInfo :=
  [{ ofs := 0x010, w1c := 0x1F },
   { ofs := 0x040, ro := 0xFFFFFFFF },
   { ofs := 0x044, ro := 0x3 },
   { ofs := 0x048, ro := 0xFFFF },
   { ofs := 0x04C, ro := 0x3FFF },
   { ofs := 0x050, rw := 0x7 },
   { ofs := 0x054, ro := 0x7FFFF },
   { ofs := 0x058, rw := 0xFFFFFFFF },
   { ofs := 0x05C, rw := 0xFFFFFFFF },
   { ofs := 0x060, ro := 0xFFFFFFC0 },
   { ofs := 0x064, ro := 0x7FF },
   { ofs := 0x068, rw := 0xFF, reset := 0x18 },
   { ofs := 0x06C, ro := 0x1FFFF }]

/-- The registers of a SCH page (type 0x10) and their fields. -/
def regsSCH : List RegInfo :=
  [{ ofs := 0x010, w1c := 0x3F },
   { ofs := 0x040, wo := 0xFFFFFFFF },
   { ofs := 0x044, wo := 0xFFFFFFFF },
   { ofs := 0x048, wo := 0xFFFFFF0F },
   { ofs := 0x04C, rw := 0x3FF },
   { ofs := 0x050, rw := 0xFFFFFFFF },
   { ofs := 0x054, ro := 0xFFFF3FFF },
   { ofs := 0x058, ro := 0xFF },
   { ofs := 0x05C, ro := 0xFFFFFFFF },
   { ofs := 0x060, ro := 0xFFFFFFFF },
   { ofs := 0x064, ro := 0x1FF },
   { ofs := 0x068, rw := 0xFFFFFFFF },
   { ofs := 0x06C, rw := 0xFFFFFFFF },
   { ofs := 0x070, ro := 0xFFFF },
   { ofs := 0x074, ro := 0x1 },
   { ofs := 0x400, rw := 0x3, ro := 0xFFF0000, reset := 0x2 }] ++
  [{ ofs := 0x404, ro := 0xFFFFFFFF },
   { ofs := 0x408, ro := 0xFFF },
   { ofs := 0x40C, ro := 0xFFFFFFFF },
   { ofs := 0x410, ro := 0xFFF },
   { ofs := 0x414, ro := 0x1FFFF },
   { ofs := 0x418, rw := 0xFFFFFFFF },
   { ofs := 0x41C, ro := 0xFFFFFFFF },
   { ofs := 0x420, ro := 0xFFFFFFFF },
   { ofs := 0x424, w1s := 0x7 },
   { ofs := 0x428, ro := 0xFFFF, reset := 0x10 },
   { ofs := 0x42C, ro := 0xFFFFFFFF },
   { ofs := 0x430, ro := 0xFFFFFFFF },
   { ofs := 0x434, ro := 0xFFFFFFFF },
   { ofs := 0x438, rw := 0xFFFF }]

/-- The registers of a CPY page (type 0x13) and their fields. -/
def regsCPY : List RegInfo :=
  [{ ofs := 0x010, w1c := 0x1 },
   { ofs := 0x040, ro := 0xFFFFFFFF },
   { ofs := 0x044, ro := 0x3F },
   { ofs := 0x048, ro := 0xFFFFFFFF },
   { ofs := 0x04C, ro := 0xFFFFFFFF },
   { ofs := 0x050, ro := 0xFFFFFFFF }]

/-- The registers of a ATM page (type 0x16) and their fields. -/
def regsATM : List RegInfo :=
  [{ ofs := 0x010, w1c := 0x1 },
   { ofs := 0x040, ro := 0xFFFFFFFF },
   { ofs := 0x044, ro := 0x3F },
   { ofs := 0x048, ro := 0xFFFFFFFF },
   { ofs := 0x04C, ro := 0xFFFFFFFF },
   { ofs := 0x050, ro := 0xFFFFFFFF },
   { ofs := 0x054, rw := 0xFFFFFFFF }]

/-- The registers of a RED page (type 0x11) and their fields. -/
def regsRED : List RegInfo :=
  [{ ofs := 0x010, w1c := 0xF },
   { ofs := 0x040, ro := 0xFFFFFFFF },
   { ofs := 0x044, ro := 0x3F },
   { ofs := 0x048, ro := 0xFFFFFFFF },
   { ofs := 0x04C, ro := 0xFFFFFFFF },
   { ofs := 0x050, ro := 0xFFFFFFFF },
   { ofs := 0x054, rw := 0xFFFFFFFF },
   { ofs := 0x058, rw := 0xFFFFFFFF },
   { ofs := 0x05C, rw := 0xFFFFFFFF },
   { ofs := 0x060, rw := 0xFFFFFFFF },
   { ofs := 0x064, w1s := 0x1 },
   { ofs := 0x068, ro := 0xFF03 },
   { ofs := 0x100, ro := 0xFFF0FFF },
   { ofs := 0x104, rw := 0x7FF },
   { ofs := 0x108, ro := 0xFFF00F7 },
   { ofs := 0x10C, ro := 0xFFFFFFFF }] ++
  [{ ofs := 0x110, ro := 0xFFF },
   { ofs := 0x114, ro := 0x7FFFFFF },
   { ofs := 0x118, ro := 0xFFFFFFFF },
   { ofs := 0x11C, ro := 0xFFFF },
   { ofs := 0x120, ro := 0xFFFF },
   { ofs := 0x124, w1s := 0x1 },
   { ofs := 0x128, rw := 0xFFFFFFFF },
   { ofs := 0x12C, rw := 0xFFFFFFFF }]

/-- The registers of a OPT page (type 0x12) and their fields. -/
def regsOPT : List RegInfo :=
  [{ ofs := 0x010, w1c := 0xF },
   { ofs := 0x040, ro := 0xFFFFFFFF },
   { ofs := 0x044, ro := 0x3F },
   { ofs := 0x048, ro := 0x83FFFFFF },
   { ofs := 0x04C, ro := 0xFF },
   { ofs := 0x050, ro := 0xFFFFFFFF },
   { ofs := 0x054, ro := 0xFFFFFFFF },
   { ofs := 0x058, ro := 0xFFFFFFFF },
   { ofs := 0x05C, rw := 0xFFFFFFFF },
   { ofs := 0x060, rw := 0xFFFFFFFF },
   { ofs := 0x064, rw := 0xFFFFFFFF },
   { ofs := 0x068, w1s := 0x1 },
   { ofs := 0x06C, ro := 0xFF03 },
   { ofs := 0x100, rw := 0xFFFFFFFF },
   { ofs := 0x104, ro := 0xFFFFFFFF },
   { ofs := 0x108, ro := 0xFFF }] ++
  [{ ofs := 0x10C, ro := 0xF }]

/-- The registers of a PLN page (type 0x47) and their fields. -/
def regsPLN : List RegInfo :=
  [{ ofs := 0x010, w1c := 0x3F },
   { ofs := 0x040, ro := 0xFFFFFFFF },
   { ofs := 0x044, ro := 0x3F },
   { ofs := 0x048, ro := 0x7FFFF0F },
   { ofs := 0x04C, ro := 0xFFFFFFFF },
   { ofs := 0x050, ro := 0xFFFFFFFF },
   { ofs := 0x054, ro := 0xFFFFFFFF },
   { ofs := 0x058, ro := 0xFFFFFFFF },
   { ofs := 0x05C, ro := 0xFFFFFFFF },
   { ofs := 0x060, ro := 0xFFFFFFFF },
   { ofs := 0x064, ro := 0xFFFFFFFF },
   { ofs := 0x068, rw := 0xFFFFFFFF },
   { ofs := 0x06C, rw := 0xFFFFFFFF },
   { ofs := 0x070, rw := 0xFFFFFFFF },
   { ofs := 0x074, rw := 0xFFFFFFFF },
   { ofs := 0x078, w1s := 0x1 }] ++
  [{ ofs := 0x07C, ro := 0xFF03 },
   { ofs := 0x100, ro := 0x7FFFFF },
   { ofs := 0x104, ro := 0xFFFFFFFF },
   { ofs := 0x108, ro := 0x3F },
   { ofs := 0x10C, ro := 0xFFFFFFFF }]

/-- The registers of a LNK page (type 0x30) and their fields. -/
def regsLNK : List RegInfo :=
  [{ ofs := 0x010, w1c := 0x1F },
   { ofs := 0x040, ro := 0x11FFF7F },
   { ofs := 0x044, w1s := 0x1 },
   { ofs := 0x048, rw := 0xFF, reset := 0xC },
   { ofs := 0x04C, rw := 0xFFFFFFFF },
   { ofs := 0x050, rw := 0xFFFFFFFF },
   { ofs := 0x054, rw := 0xFFFFFFFF },
   { ofs := 0x058, rw := 0xFFFFFFFF },
   { ofs := 0x05C, rw := 0xFFFFFFFF },
   { ofs := 0x060, rw := 0xF },
   { ofs := 0x064, rw := 0x8FFF0FFF },
   { ofs := 0x068, ro := 0xFFF },
   { ofs := 0x06C, ro := 0xFFF0FFF, reset := 0x7C0 },
   { ofs := 0x070, ro := 0xFFFFFFFF },
   { ofs := 0x074, ro := 0xFFFFFFFF },
   { ofs := 0x078, rw := 0x3 }] ++
  [{ ofs := 0x07C, ro := 0xFFFFFFFF }]

/-- The registers of a FPP page (type 0x31) and their fields. -/
def regsFPP : List RegInfo :=
  [{ ofs := 0x010, w1c := 0x3F },
   { ofs := 0x040, rw := 0xFFFF, reset := 0x88B6 },
   { ofs := 0x044, ro := 0xFFFFFFFF },
   { ofs := 0x048, ro := 0xFFFF },
   { ofs := 0x04C, ro := 0x3FFFF0F },
   { ofs := 0x050, rw := 0xFFFF0F, reset := 0x81408 },
   { ofs := 0x054, rw := 0xFFFF, reset := 0x14 },
   { ofs := 0x058, rw := 0xFFFF, reset := 0x14 },
   { ofs := 0x05C, rw := 0x3 },
   { ofs := 0x060, rw := 0xFFFFFFFF },
   { ofs := 0x064, rw := 0x8000FFFF },
   { ofs := 0x068, ro := 0xFFFFFFFF },
   { ofs := 0x06C, ro := 0xFFFFFFFF },
   { ofs := 0x070, ro := 0xFFFFFFFF },
   { ofs := 0x074, ro := 0xFFFFFFFF },
   { ofs := 0x078, rw := 0xFFFFFFFF }] ++
  [{ ofs := 0x07C, rw := 0xFFFFFFFF },
   { ofs := 0x080, rw := 0xFFFFFFFF },
   { ofs := 0x084, rw := 0xFFFFFFFF },
   { ofs := 0x088, rw := 0xFFFFFFFF },
   { ofs := 0x08C, rw := 0xFFFFFFFF },
   { ofs := 0x090, rw := 0xFFFFFFFF },
   { ofs := 0x094, rw := 0xFFFFFFFF },
   { ofs := 0x098, rw := 0xFFFFFFFF },
   { ofs := 0x09C, rw := 0xFFFFFFFF },
   { ofs := 0x0A0, rw := 0xFFFFFFFF },
   { ofs := 0x0A4, ro := 0x7F },
   { ofs := 0x0A8, rw := 0x3 },
   { ofs := 0x0AC, ro := 0xFFFFFFFF }]

/-- The registers of a XBR page (type 0x32) and their fields. -/
def regsXBR : List RegInfo :=
  [{ ofs := 0x010, w1c := 0x1 },
   { ofs := 0x040, ro := 0xFFFFFFFF },
   { ofs := 0x044, rw := 0xFFFFFFFF },
   { ofs := 0x100, rw := 0x1 },
   { ofs := 0x104, ro := 0xFFFF },
   { ofs := 0x108, rw := 0xF },
   { ofs := 0x10C, rw := 0x1F, ro := 0x3F00, reset := 0xF1F },
   { ofs := 0x110, ro := 0x1FFFF }]

/-- The registers of a PLI page (type 0x41) and their fields. -/
def regsPLI : List RegInfo :=
  [{ ofs := 0x010, w1c := 0x3F },
   { ofs := 0x040, ro := 0x17F },
   { ofs := 0x044, ro := 0xFFFFFFFF },
   { ofs := 0x048, ro := 0xF },
   { ofs := 0x04C, ro := 0xFFFFFFFF },
   { ofs := 0x050, ro := 0xF },
   { ofs := 0x054, rw := 0x3F },
   { ofs := 0x058, ro := 0xFFFFFFFF },
   { ofs := 0x05C, ro := 0xFFFFFFFF, reset := 0xFF000000 },
   { ofs := 0x060, rw := 0xFFFFFFFF },
   { ofs := 0x064, rw := 0xFFFFFFFF },
   { ofs := 0x068, rw := 0xFFFFFFFF },
   { ofs := 0x06C, ro := 0xFFFFFFFF },
   { ofs := 0x070, rw := 0xFFFF },
   { ofs := 0x074, rw := 0xF, reset := 0x3 }]

/-- The registers of a LPE page (type 0x40) and their fields. -/
def regsLPE : List RegInfo :=
  [{ ofs := 0x010, w1c := 0x1F },
   { ofs := 0x040, ro := 0x3FF, reset := 0x180 },
   { ofs := 0x044, rw := 0xFFFFFFFF },
   { ofs := 0x048, rw := 0xFFFF },
   { ofs := 0x04C, w1s := 0x1 },
   { ofs := 0x050, ro := 0xFF03 },
   { ofs := 0x100, rw := 0x7FFF },
   { ofs := 0x104, rw := 0x1F7373 },
   { ofs := 0x108, rw := 0xFFFFFFFF },
   { ofs := 0x10C, rw := 0xFFFFFFFF },
   { ofs := 0x110, rw := 0xFFFFFFFF },
   { ofs := 0x114, rw := 0xFFFFFFFF },
   { ofs := 0x118, rw := 0x1F1F1F1F },
   { ofs := 0x11C, rw := 0xFFFFFFFF },
   { ofs := 0x120, rw := 0xFFFFFFFF, reset := 0x7FFFFFFF },
   { ofs := 0x124, rw := 0xFFFFFFFF }] ++
  [{ ofs := 0x128, rw := 0x7FFFFFFF },
   { ofs := 0x12C, rw := 0xFFFFFFFF },
   { ofs := 0x130, ro := 0x3F1F },
   { ofs := 0x134, ro := 0xFFFFFFFF },
   { ofs := 0x138, ro := 0xFFFFFFFF },
   { ofs := 0x13C, ro := 0xFFFFFFFF },
   { ofs := 0x140, ro := 0xFFFFFFFF },
   { ofs := 0x144, ro := 0x1FFFFF, reset := 0x40000 },
   { ofs := 0x148, rw := 0x7FFFFFFF },
   { ofs := 0x14C, rw := 0x7FFF },
   { ofs := 0x150, w1s := 0x3 },
   { ofs := 0x154, rw := 0x7FFFFFFF },
   { ofs := 0x158, rw := 0x7FFFFFFF },
   { ofs := 0x15C, rw := 0x7FFFFFFF },
   { ofs := 0x160, ro := 0x3FFFFFF },
   { ofs := 0x164, ro := 0xFFFFFFFF }] ++
  [{ ofs := 0x168, ro := 0xFFFFFFFF },
   { ofs := 0x16C, ro := 0xFFFFFFFF },
   { ofs := 0x170, ro := 0xFFFFFFFF },
   { ofs := 0x174, ro := 0xFFFFFFFF },
   { ofs := 0x178, ro := 0xFFFFFFFF },
   { ofs := 0x180, ro := 0xFFFFFFFF },
   { ofs := 0x184, ro := 0xFFFFFFFF },
   { ofs := 0x188, ro := 0xFFFFFFFF },
   { ofs := 0x18C, ro := 0xFFFFFFFF },
   { ofs := 0x190, w1s := 0xF },
   { ofs := 0x194, rw := 0xFFFFFFFF }]

/-- The registers of a ACD page (type 0x42) and their fields. -/
def regsACD : List RegInfo :=
  [{ ofs := 0x010, w1c := 0x1F },
   { ofs := 0x040, ro := 0x3 },
   { ofs := 0x044, ro := 0xFFFFFFFF },
   { ofs := 0x048, ro := 0xFFFFFFFF },
   { ofs := 0x04C, ro := 0xFFF03FF },
   { ofs := 0x050, ro := 0xFFF0FFF },
   { ofs := 0x054, ro := 0xFFFF },
   { ofs := 0x058, rw := 0xFFFFFFFF },
   { ofs := 0x05C, rw := 0xFFF0FFF },
   { ofs := 0x060, rw := 0xFFFFFFFF },
   { ofs := 0x064, rw := 0x8FFF },
   { ofs := 0x068, rw := 0xFFFFFFFF },
   { ofs := 0x06C, rw := 0x18FFF },
   { ofs := 0x070, rw := 0xFFFFF },
   { ofs := 0x074, rw := 0xF00, w1s := 0x3 },
   { ofs := 0x078, ro := 0xFFFFFFFF }] ++
  [{ ofs := 0x07C, ro := 0xFFFFFFFF },
   { ofs := 0x080, ro := 0xFFFFFFF },
   { ofs := 0x084, rw := 0xFFF, reset := 0x640 },
   { ofs := 0x088, rw := 0xFFF, reset := 0x3E8 },
   { ofs := 0x08C, rw := 0xFFF, reset := 0x640 },
   { ofs := 0x090, rw := 0x7FFFFFFF, reset := 0x40000 },
   { ofs := 0x094, rw := 0x3F, reset := 0xA },
   { ofs := 0x098, rw := 0x7FFFFFFF, reset := 0x20000 },
   { ofs := 0x09C, rw := 0xFFFFFFFF, reset := 0x4000 },
   { ofs := 0x0A0, rw := 0xF1F, reset := 0x210 },
   { ofs := 0x0A4, rw := 0x7FFFFFFF, reset := 0x400 },
   { ofs := 0x0A8, rw := 0xFFFFFFFF, reset := 0x402000 },
   { ofs := 0x0AC, ro := 0x3FFFF },
   { ofs := 0x0B0, rw := 0xFFF },
   { ofs := 0x0B4, ro := 0x7FF0007, reset := 0x7FF0000 },
   { ofs := 0x0B8, rw := 0xFFFFFFFF }] ++
  [{ ofs := 0x0BC, rw := 0xFFFFFFFF },
   { ofs := 0x0C0, ro := 0xFFFFFFFF },
   { ofs := 0x0C4, rw := 0xFFFFFFFF }]

/-- The registers of a FSL page (type 0x43) and their fields. -/
def regsFSL : List RegInfo :=
  [{ ofs := 0x010, w1c := 0x3F },
   { ofs := 0x040, rw := 0xFF03, reset := 0x4B03 },
   { ofs := 0x044, ro := 0xFF1F },
   { ofs := 0x048, rw := 0x1F },
   { ofs := 0x04C, ro := 0xFFFFFFFF },
   { ofs := 0x050, rw := 0x7 },
   { ofs := 0x054, rw := 0x1, w1s := 0x2 },
   { ofs := 0x058, ro := 0xF33F },
   { ofs := 0x05C, rw := 0xFFFFFFF, reset := 0x400000 },
   { ofs := 0x060, rw := 0x1FFF, reset := 0x7D0 },
   { ofs := 0x064, ro := 0xFFFF },
   { ofs := 0x068, rw := 0xFFFF },
   { ofs := 0x06C, ro := 0xFFFFFFFF },
   { ofs := 0x070, ro := 0xFFFFFFFF },
   { ofs := 0x074, rw := 0xFFFFFFFF },
   { ofs := 0x078, rw := 0xFFFFFFFF }] ++
  [{ ofs := 0x07C, rw := 0xFFFF000F, reset := 0x8 },
   { ofs := 0x080, ro := 0xFFFFFFFF },
   { ofs := 0x084, ro := 0xFFFFFFFF },
   { ofs := 0x088, rw := 0xFFFFFFFF },
   { ofs := 0x08C, rw := 0xFFFFFFFF },
   { ofs := 0x090, rw := 0xFFFF, reset := 0x64 }]

/-- The registers of a AFE page (type 0x44) and their fields. -/
def regsAFE : List RegInfo :=
  [{ ofs := 0x010, w1c := 0x3 },
   { ofs := 0x040, rw := 0x3F },
   { ofs := 0x044, rw := 0x3FF, reset := 0xA },
   { ofs := 0x048, ro := 0x1FFFF },
   { ofs := 0x04C, rw := 0xFFFFFFFF, reset := 0x80000000 },
   { ofs := 0x050, ro := 0xFFFF },
   { ofs := 0x054, rw := 0x3F },
   { ofs := 0x058, ro := 0xFFFF },
   { ofs := 0x05C, rw := 0xFFFF, reset := 0x40 },
   { ofs := 0x060, rw := 0xFFFF, reset := 0x28F },
   { ofs := 0x064, rw := 0xFFFFFFFF },
   { ofs := 0x068, rw := 0xFFFFFFFF }]

/-- The registers of a CAL page (type 0x45) and their fields. -/
def regsCAL : List RegInfo :=
  [{ ofs := 0x010, w1c := 0x7 },
   { ofs := 0x040, wo := 0x7 },
   { ofs := 0x044, rw := 0xFFFFFFFF },
   { ofs := 0x048, rw := 0x10F3F, reset := 0xF3F },
   { ofs := 0x04C, rw := 0x7FF07FF },
   { ofs := 0x050, rw := 0x7FF07FF },
   { ofs := 0x054, rw := 0x7FF07FF },
   { ofs := 0x058, ro := 0x7FFFFFF },
   { ofs := 0x05C, ro := 0xFFFFFFFF },
   { ofs := 0x060, ro := 0xFFFFFFFF },
   { ofs := 0x064, ro := 0xFFF },
   { ofs := 0x068, ro := 0x7 },
   { ofs := 0x06C, ro := 0xFFFFFFFF }]

/-- The registers of a FIX page (type 0x46) and their fields. -/
def regsFIX : List RegInfo :=
  [{ ofs := 0x010, w1c := 0xF },
   { ofs := 0x040, ro := 0x3F },
   { ofs := 0x044, ro := 0xFFFFFFFF },
   { ofs := 0x048, ro := 0x3F3F },
   { ofs := 0x04C, w1s := 0x1 },
   { ofs := 0x050, ro := 0xFFFFFFFF },
   { ofs := 0x054, ro := 0xFF },
   { ofs := 0x058, ro := 0xFFFFFFFF },
   { ofs := 0x05C, ro := 0xFFFFFFFF },
   { ofs := 0x060, ro := 0xFFFFFFFF },
   { ofs := 0x064, ro := 0xFFFFFFFF },
   { ofs := 0x068, ro := 0xFFFFFFFF },
   { ofs := 0x06C, ro := 0xFFFFFFFF },
   { ofs := 0x070, ro := 0xFFFFFFFF },
   { ofs := 0x074, ro := 0xFFFFFFFF },
   { ofs := 0x078, ro := 0xFFFFFFFF }] ++
  [{ ofs := 0x07C, ro := 0xFFFFFFFF },
   { ofs := 0x080, ro := 0xFFFFFFFF },
   { ofs := 0x084, ro := 0xFFFFFFFF },
   { ofs := 0x088, ro := 0xFFFFFFFF },
   { ofs := 0x08C, ro := 0xFFFFFFFF },
   { ofs := 0x090, ro := 0xFFFFFFFF },
   { ofs := 0x094, ro := 0xFFFFFFFF },
   { ofs := 0x098, ro := 0xFFFFFFFF },
   { ofs := 0x09C, ro := 0xFFFFFFFF },
   { ofs := 0x0A0, ro := 0xFFFFFFFF },
   { ofs := 0x0A4, ro := 0xFFFFFFFF },
   { ofs := 0x0A8, ro := 0xFFFFFFFF },
   { ofs := 0x0AC, ro := 0xFFFFFFFF },
   { ofs := 0x0B0, ro := 0xFFFFFFFF },
   { ofs := 0x0B4, ro := 0xFFFFFFFF },
   { ofs := 0x0B8, ro := 0xFFFFFFFF }]

/-- The registers of a RDN page (type 0x0A) and their fields. -/
def regsRDN : List RegInfo :=
  [{ ofs := 0x010, w1c := 0xFF },
   { ofs := 0x040, ro := 0xFF7F },
   { ofs := 0x044, w1s := 0x7 },
   { ofs := 0x048, rw := 0x1, reset := 0x1 },
   { ofs := 0x04C, rw := 0xFFFF, reset := 0x40 },
   { ofs := 0x050, rw := 0xFFFF, reset := 0x32 },
   { ofs := 0x054, rw := 0xFFFFFFFF },
   { ofs := 0x058, rw := 0xFFFFFFFF },
   { ofs := 0x05C, rw := 0xFFFFFFFF },
   { ofs := 0x060, rw := 0xFFFFFFFF },
   { ofs := 0x064, rw := 0xFFFFFFFF },
   { ofs := 0x068, ro := 0x1FFF3F },
   { ofs := 0x06C, ro := 0x73FFF },
   { ofs := 0x070, ro := 0xFFFFFFFF },
   { ofs := 0x074, ro := 0xFF }]

/-- The registers of a EVR page (type 0x07) and their fields. -/
def regsEVR : List RegInfo :=
  [{ ofs := 0x010, w1c := 0x3F },
   { ofs := 0x040, rw := 0x777, reset := 0x524 },
   { ofs := 0x044, rw := 0xFFFF00FF, reset := 0x640010 },
   { ofs := 0x048, ro := 0xFFFFFFFF },
   { ofs := 0x04C, ro := 0xFFFFFFFF },
   { ofs := 0x050, ro := 0x7F07FF },
   { ofs := 0x054, rw := 0xFFFFFFFF },
   { ofs := 0x058, ro := 0x3 },
   { ofs := 0x05C, ro := 0xFFFFFFFF },
   { ofs := 0x060, ro := 0xFFFFFFFF },
   { ofs := 0x064, ro := 0xFFFFFFFF },
   { ofs := 0x068, ro := 0xFFFFFFFF },
   { ofs := 0x06C, ro := 0xFFFFFFFF },
   { ofs := 0x070, ro := 0xFFFFFFFF },
   { ofs := 0x074, ro := 0xFFFFFFFF },
   { ofs := 0x078, ro := 0xFFFFFFFF }] ++
  [{ ofs := 0x07C, ro := 0xFFFFFFFF },
   { ofs := 0x080, ro := 0xFFFFFFFF },
   { ofs := 0x084, ro := 0xFFFFFFFF },
   { ofs := 0x088, ro := 0xFFFFFFFF },
   { ofs := 0x08C, ro := 0xFFFFFFFF },
   { ofs := 0x090, ro := 0xFFFFFFFF },
   { ofs := 0x094, ro := 0xFFFFFFFF },
   { ofs := 0x098, ro := 0xFFFFFFFF },
   { ofs := 0x09C, ro := 0xFFFFFFFF },
   { ofs := 0x0A0, wo := 0xFFFFFFFF },
   { ofs := 0x0A4, rw := 0xFFFFFFFF },
   { ofs := 0x0A8, rw := 0xFFFFFFFF },
   { ofs := 0x0AC, rw := 0xFFFFFFFF },
   { ofs := 0x0B0, rw := 0xFFFFFFFF },
   { ofs := 0x0B4, ro := 0xFFFFFFFF },
   { ofs := 0x0B8, rw := 0xFFFF }] ++
  [{ ofs := 0x0BC, rw := 0x7 },
   { ofs := 0x0C0, rw := 0x70, w1s := 0x1, reset := 0x20 },
   { ofs := 0x0C4, rw := 0xFFFFFFFF },
   { ofs := 0x0C8, rw := 0xFFFFFFFF },
   { ofs := 0x0CC, rw := 0xFFFFFFFF },
   { ofs := 0x0D0, rw := 0xFFFFFFFF },
   { ofs := 0x0D4, rw := 0xFFFFFFFF },
   { ofs := 0x0D8, rw := 0xFFFFFFFF },
   { ofs := 0x0DC, rw := 0xFFFFFFFF },
   { ofs := 0x0E0, rw := 0xFFFFFFFF },
   { ofs := 0x0E4, ro := 0x1 },
   { ofs := 0x0E8, ro := 0xFFFFFFFF },
   { ofs := 0x0EC, ro := 0xFF }]

/-- The registers of a CRC page (type 0x08) and their fields. -/
def regsCRC : List RegInfo :=
  [{ ofs := 0x010, w1c := 0x7 },
   { ofs := 0x040, rw := 0xFFFFFFFF },
   { ofs := 0x044, rw := 0xFFF },
   { ofs := 0x048, rw := 0xFFFFFFFF },
   { ofs := 0x04C, rw := 0xFFFFFFFF },
   { ofs := 0x050, rw := 0xFFFFFFFF },
   { ofs := 0x054, ro := 0x3, reset := 0x3 },
   { ofs := 0x058, w1s := 0x7 },
   { ofs := 0x05C, rw := 0xFFFF },
   { ofs := 0x060, ro := 0xFFFFFFF },
   { ofs := 0x064, ro := 0xFFFFFFFF },
   { ofs := 0x068, ro := 0xFFFFFFFF },
   { ofs := 0x06C, rw := 0xFFFFFFFF },
   { ofs := 0x070, rw := 0xFFFFFFFF },
   { ofs := 0x074, ro := 0xFFFFFFFF }]

/-- The registers of a BNK page (type 0x09) and their fields. -/
def regsBNK : List RegInfo :=
  [{ ofs := 0x010, w1c := 0x7 },
   { ofs := 0x040, rw := 0xFFFFFFFF },
   { ofs := 0x044, rw := 0xFFFFFFFF },
   { ofs := 0x048, ro := 0xFFFFF8 },
   { ofs := 0x04C, rw := 0xFFFFFFFF },
   { ofs := 0x050, w1c := 0x1, ro := 0xFFFF00FC },
   { ofs := 0x054, ro := 0xFFFF },
   { ofs := 0x058, rw := 0xFFFFFFFF }]

/-- The registers of a BLT page (type 0x48) and their fields. -/
def regsBLT : List RegInfo :=
  [{ ofs := 0x010, w1c := 0xF },
   { ofs := 0x040, rw := 0xFFFFFFFF, reset := 0x64000A },
   { ofs := 0x044, ro := 0xFFF },
   { ofs := 0x048, ro := 0xFFFFFFFF },
   { ofs := 0x04C, rw := 0xFFFFFFFF },
   { ofs := 0x050, rw := 0xFFFFFFFF },
   { ofs := 0x054, rw := 0xFFFFFFFF },
   { ofs := 0x058, ro := 0x1FF01 },
   { ofs := 0x05C, ro := 0xFFFFFF },
   { ofs := 0x060, rw := 0xFF },
   { ofs := 0x064, ro := 0x7 }]

/-- The registers of a page type; none of a type that R61 does not give. -/
def pageRegs (ty : Nat) : Option (List RegInfo) :=
  match ty with
  | 0x02 => some regsPWR
  | 0x03 => some regsCLK
  | 0x06 => some regsHST
  | 0x01 => some regsSYS
  | 0x04 => some regsBOOT
  | 0x05 => some regsPROT
  | 0x14 => some regsSTG
  | 0x20 => some regsSTK
  | 0x21 => some regsDMC
  | 0x10 => some regsSCH
  | 0x13 => some regsCPY
  | 0x16 => some regsATM
  | 0x11 => some regsRED
  | 0x12 => some regsOPT
  | 0x47 => some regsPLN
  | 0x30 => some regsLNK
  | 0x31 => some regsFPP
  | 0x32 => some regsXBR
  | 0x41 => some regsPLI
  | 0x40 => some regsLPE
  | 0x42 => some regsACD
  | 0x43 => some regsFSL
  | 0x44 => some regsAFE
  | 0x45 => some regsCAL
  | 0x46 => some regsFIX
  | 0x0A => some regsRDN
  | 0x07 => some regsEVR
  | 0x08 => some regsCRC
  | 0x09 => some regsBNK
  | 0x48 => some regsBLT
  | _ => none

/-- The instance count of a page type (R19); 0 for a type that does not exist. -/
def pageInstances (ty : Nat) : Nat :=
  match ty with
  | 0x01 => 1 | 0x02 => 1 | 0x03 => 1 | 0x04 => 1 | 0x05 => 1 | 0x06 => 1 | 0x07 => 1 | 0x08 => 5
  | 0x09 => 1 | 0x0A => 1 | 0x10 => 4 | 0x11 => 128 | 0x12 => 64 | 0x13 => 32 | 0x14 => 4 | 0x16 => 4
  | 0x20 => 8 | 0x21 => 2 | 0x30 => 64 | 0x31 => 32 | 0x32 => 4 | 0x40 => 48 | 0x41 => 1 | 0x42 => 1
  | 0x43 => 32 | 0x44 => 4 | 0x45 => 1 | 0x46 => 1 | 0x47 => 4 | 0x48 => 1
  | _ => 0

/-- The offset under which a register's row stands in its page's list: the queue groups of an SCH
page repeat every 0x40 bytes. -/
def rowOfs (ty ofs : Nat) : Nat :=
  if ty == 0x10 && 0x400 ≤ ofs && ofs < 0x800 then 0x400 + ofs % 0x40 else ofs

/-- The row of a register, by type and offset. -/
def regInfo (ty ofs : Nat) : Option RegInfo :=
  ((pageRegs ty).getD []).find? fun r => r.ofs == rowOfs ty ofs

end Sys2Proof.Machine
end

