-- ==== Sys2Proof/Machine/Tbl.lean ====
section
/-!
DEFINITION. Sparse tables: the plain data by which the model holds memories, register files, queues
and every numbered unit. A table is a list of (key, value) pairs in ONE canonical form: keys strictly
rising and no entry equal to what an unlisted key reads as. The default of an unlisted key is a
function of the key, given at every read and write.
-/

namespace Sys2Proof.Machine

/-- A sparse table from numbers to values. -/
abbrev Tbl (α : Type) := List (Nat × α)

/-- The value at key `k`: the listed one, else the default. -/
def tget {α : Type} (d : Nat → α) : Tbl α → Nat → α
  | [], k => d k
  | (j, v) :: t, k => if j = k then v else tget d t k

/-- The table without key `k`. -/
def terase {α : Type} : Tbl α → Nat → Tbl α
  | [], _ => []
  | (j, v) :: t, k => if j = k then terase t k else (j, v) :: terase t k

/-- The table with key `k` set to `v`; writing the default removes the entry. -/
def tset {α : Type} [DecidableEq α] (d : Nat → α) : Tbl α → Nat → α → Tbl α
  | [], k, v => if v = d k then [] else [(k, v)]
  | (j, w) :: t, k, v =>
    if j < k then (j, w) :: tset d t k v
    else if v = d k then terase ((j, w) :: t) k
    else (k, v) :: terase ((j, w) :: t) k

/-- The table with a function applied to the value at key `k`. -/
def tmod {α : Type} [DecidableEq α] (d : Nat → α) (t : Tbl α) (k : Nat) (f : α → α) : Tbl α :=
  tset d t k (f (tget d t k))

/-- Every listed key lies above `lo`, keys rise, and no entry is the default. -/
def tblWfFrom {α : Type} [DecidableEq α] (d : Nat → α) : Option Nat → Tbl α → Bool
  | _, [] => true
  | lo, (j, v) :: t =>
    (match lo with | none => true | some l => decide (l < j)) && decide (v ≠ d j) &&
      tblWfFrom d (some j) t

/-- The canonical form of a table. -/
def tblWf {α : Type} [DecidableEq α] (d : Nat → α) (t : Tbl α) : Bool := tblWfFrom d none t

/-- The table without the entries whose key lies in [lo, hi): they read as the default again. -/
def tclear {α : Type} (t : Tbl α) (lo hi : Nat) : Tbl α :=
  t.filter fun e => !(decide (lo ≤ e.1) && decide (e.1 < hi))

/-- A function applied to every listed entry; entries that become the default go. -/
def tmapAll {α : Type} [DecidableEq α] (d : Nat → α) (t : Tbl α) (f : α → α) : Tbl α :=
  t.filterMap fun e => if f e.2 = d e.1 then none else some (e.1, f e.2)

/-- `n` bytes from address `a`, lowest address first. -/
def treadBytes (d : Nat → Byte) (t : Tbl Byte) (a : Nat) : Nat → List Byte
  | 0 => []
  | n + 1 => tget d t a :: treadBytes d t (a + 1) n

/-- The bytes written from address `a` upward. -/
def twriteBytes (d : Nat → Byte) (t : Tbl Byte) (a : Nat) : List Byte → Tbl Byte
  | [] => t
  | b :: bs => twriteBytes d (tset d t a b) (a + 1) bs

end Sys2Proof.Machine
end

