-- ==== Sys2Proof/Machine/State.lean ====
section
/-!
DEFINITION. The state of the W1152 as plain data: one structure for each chapter of the spec, and
`State` over them, with the queue of waiting commands. Numbered things (registers, memories, units,
queues, ports, mirrors) are sparse tables whose unlisted entries read as the reset value.
-/

namespace Sys2Proof.Machine

/-- Why the machine would stop for good. The spec stops the block nowhere, so no meaning raises it. -/
inductive Fault where
  /-- Raised by no command: every event of the spec has an effect. Safe. -/
  | stopped
  deriving DecidableEq, Repr

/-- Why a command has no effect given. -/
inductive Refusal where
  /-- Raised by an arm of `exec` for a command that has no meaning yet, with its mnemonic. Safe. -/
  | notModelled (mnemonic : String)
  deriving DecidableEq, Repr

/-! ## Frames that leave the block -/

/-- A KRT frame that the agent sends (R71 to R74, R86). `tail` are header bytes 14 to 23. [DESIGN CHOICE: log 24] -/
structure KrtOut where
  dst : BitVec 48
  etype : BitVec 16
  resp : Bool
  op : Byte
  sid : BitVec 16
  seq : Word
  tag : BitVec 16
  status : BitVec 16
  tail : BitVec 80
  payload : List Byte
  auth : BitVec 128
  deriving DecidableEq, Repr

/-- A board-link message to be sent, with its KIND (R268). -/
structure OutMsg where
  kind : Nat
  hdr : LinkMsg
  deriving DecidableEq, Repr

/-- Everything that the block sends: the model's own record of its outputs, newest first. [DEDUCED: log 139] -/
inductive Sent where
  /-- A KRT response or NOTIFY on the host port. -/
  | krt (f : KrtOut)
  /-- An ACTUATOR frame of a tile: 276 bytes of R303. -/
  | actuator (tile : Nat) (bytes : List Byte)
  /-- A KFT frame on a face-plate port; `kind` is the type code of R287. -/
  | kft (port : Nat) (kind : Byte) (f : KftFrame)
  /-- A board-link message on link `n`. -/
  | link (n : Nat) (m : OutMsg)
  /-- A board-link frame header of a FEC block: acknowledgement code and number (R270). -/
  | linkAck (n : Nat) (ak : Nat) (aseq : Nat)
  /-- The blocks from BSEQ on are sent again on link `n` (R271). -/
  | linkReplay (n : Nat) (bseq : Nat) (count : Nat)
  /-- A training pattern on link `n` (R274). -/
  | linkTrain (n : Nat) (answer : Bool)
  /-- A steering message to the partner (R339, R391), by its type code. -/
  | steer (kind : Nat) (m : SteerMsg)
  /-- What JTAG shifts out (R57). -/
  | jtag (bits : List Bool)
  deriving DecidableEq, Repr

/-! ## Power, reset, clocks, JTAG (02) -/

/-- The power states of R41. -/
inductive PState where
  | off | powering | zeroing | waking | idle | on | failed | retain
  deriving DecidableEq, Repr

/-- The kinds of step phase (R47, R46, R50): power-gate steps up and down, clock-ungate steps of a
die, and clock-ungate steps of a planning array. -/
inductive PhaseKind where
  | gateUp | gateDown | ungate | plnUngate
  deriving DecidableEq, Repr

/-- A step phase of a unit, by die index (R49). -/
structure Phase where
  unit : Nat
  kind : PhaseKind
  deriving DecidableEq, Repr

/-- The JTAG instructions of R57. -/
inductive JtagInstr where
  | bypass | idcode | samplePreload | extest | clamp | highz
  deriving DecidableEq, Repr

/-- What the wake agent knows of a Flow die (R44 to R46, R51). -/
structure DieWake where
  /-- A WAKE command asked for ON, so IRQ_STAT.WAKE is set there. -/
  cmd : Bool := false
  /-- The wake stops at IDLE (R51, IDLE of an OFF die). -/
  stopIdle : Bool := false
  /-- A doorbell, signal or WAKE came while the die stepped down (R46). -/
  again : Bool := false
  /-- The OFF_AFTER period runs (R44). -/
  offTimer : Bool := false
  deriving DecidableEq, Repr

/-- Power, reset, clocks and JTAG. [DESIGN CHOICE: log 5] -/
structure Pwr where
  /-- The module is held in reset. -/
  inReset : Bool := true
  /-- RESET_N is asserted. -/
  resetN : Bool := true
  /-- PWRGD is high. -/
  pwrgd : Bool := true
  /-- Rails in tolerance, in the order of R27. -/
  rails : BitVec 19 := 0x7FFFF#19
  /-- A thermal trip holds the module until the next reset (R56). -/
  tripped : Bool := false
  /-- The strap contacts as the board sets them (R37). -/
  strapPins : BitVec 12 := 0#12
  /-- Power state of each die, by die index. -/
  units : Tbl PState := []
  wakes : Tbl DieWake := []
  /-- Waiting step phases, first in first out (R49). -/
  wakeQ : List Phase := []
  /-- The phase that is running. -/
  phase : Option Phase := none
  /-- Engines that are ON; the others are IDLE (R43). -/
  engOn : Tbl Bool := []
  /-- Position in the power-up order (R52). -/
  upStep : Nat := 0
  /-- The power cap is in force (R54). -/
  capped : Bool := false
  /-- The operating time in ms (R39), 40 bits. -/
  optime : BitVec 40 := 0#40
  /-- The power-cycle count (R39). -/
  pcycle : BitVec 24 := 0#24
  /-- High halves latched by a read of the low half, by the high half's key (PWR.OPTIME_HI, SCH.NS_HI). -/
  latch : Tbl (Option Word) := []
  /-- REFCLK25 and SDSREF156 present, AON on its own oscillator (R35, R36). -/
  ref25 : Bool := true
  ref156 : Bool := true
  aonInt : Bool := false
  jtag : JtagInstr := .bypass
  /-- The boundary cells' preloaded values, and the values that drive the pins in EXTEST and CLAMP. -/
  jtagCells : List Bool := []
  jtagDrive : Option (List Bool) := none
  deriving DecidableEq, Repr

/-! ## Host transport (03) -/

/-- An unacknowledged NOTIFY (R86, R87). -/
structure Notify where
  seq : Word
  payload : List Byte
  tries : Nat
  deriving DecidableEq, Repr

/-- A session slot (R77 to R87). Bit i of `mask` says that SEQ H - i was accepted. -/
structure Session where
  isOpen : Bool := false
  sid : BitVec 16 := 0#16
  cls : Nat := 0
  notify : Bool := false
  keySlot : Nat := 0
  mac : BitVec 48 := 0#48
  keyIn : BitVec 384 := 0#384
  keyOut : BitVec 384 := 0#384
  h : Word := 0#32
  mask : BitVec 64 := 0#64
  cache : List (Word × KrtOut) := []
  running : List Word := []
  nseq : Word := 1#32
  unacked : List Notify := []
  lost : Word := 0#32
  deriving DecidableEq, Repr

/-- The KRT agent. -/
structure Hst where
  /-- 150 ms have passed: the agent answers (R84). -/
  answers : Bool := false
  /-- Sessions may open (SYS.KRT_READY). -/
  ready : Bool := false
  sessions : Tbl Session := []
  openCount : Nat := 1
  /-- Pages that raised a NOTIFY and have not been at 0 since (R85), by page key. -/
  armed : Tbl Bool := []
  /-- Pages in a soft reset (R64), by page key. -/
  srst : Tbl Bool := []
  deriving DecidableEq, Repr

/-! ## Boot, identity, protection (04) -/

/-- The phases of BOOT.PAGE_STAT; `off` until the boot ROM starts. -/
inductive BootPhase where
  | off | rom | stage1 | firmware | recovery
  deriving DecidableEq, Repr

/-- A host key slot of the set-up: highest class, VALID and the 97 key bytes (R99, R103). -/
structure HostKey where
  maxClass : BitVec 2 := 0#2
  valid : Bool := false
  key : List Byte := []
  deriving DecidableEq, Repr

/-- A protection set-up: a rights value for each page type and eight host keys (R101). -/
structure Setup where
  rights : Tbl (BitVec 10) := []
  keys : Tbl HostKey := []
  deriving DecidableEq, Repr

/-- The site record that stage 1 chose (R100). -/
structure SiteRec where
  slot : Nat
  seq : Word
  owner : Nat
  deriving DecidableEq, Repr

/-- Boot, identity and protection. -/
structure Boot where
  phase : BootPhase := .off
  /-- The slot now tried or running. -/
  slot : Nat := 0
  /-- A restart of the management domain is asked for and waits for the flash (R109). -/
  restart : Bool := false
  /-- A save or a sector write is in progress. -/
  flashBusy : Bool := false
  /-- The power-up calibration of this module reset has run. -/
  calibrated : Bool := false
  /-- The set-up in force, the set being loaded, and whether one is being loaded (R111). -/
  sealOn : Bool := false
  staged : Bool := false
  inForce : Setup := {}
  loading : Setup := {}
  keyPtr : Nat := 0
  /-- The site record chosen by stage 1 and not yet sealed. -/
  siteNew : Option SiteRec := none
  /-- Digests at the last seal: STAGE1, MGMT, LOOPUC (R107). -/
  meas : Tbl (BitVec 384) := []
  measNew : Tbl (BitVec 384) := []
  deriving DecidableEq, Repr

/-- The fuses that can still be blown (R95, R98). [DESIGN CHOICE: log 9] -/
structure Otp where
  floor : Nat := 0
  owner1 : Option (BitVec 384) := none
  owner0Revoked : Bool := false
  deriving DecidableEq, Repr

/-! ## Sillage, CRC engines, Blotter (14) -/

/-- A Sillage record (R398), pending in the FIFO (seq 0) or in the ring. -/
structure Rec where
  seq : Word
  sev : Nat
  rebased : Bool
  typ : Nat
  code : Nat
  page : Nat
  inst : Nat
  status : Nat
  optime : BitVec 40
  pcycle : BitVec 24
  args : List Word
  /-- Copied to flash (R409); released by the reader (R406). -/
  persisted : Bool := false
  released : Bool := false
  deriving DecidableEq, Repr

/-- A rate-limiter bucket (R401), full at reset. -/
structure Bucket where
  tokens : Nat := 16
  supp : Nat := 0
  sev : Nat := 0
  first : Word := 0#32
  last : Word := 0#32
  code : Nat := 0
  page : Nat := 0
  inst : Nat := 0
  deriving DecidableEq, Repr

/-- Sillage. -/
structure Evr where
  /-- Severities written over the defaults of R400, by code. -/
  sevMap : Tbl (Option Nat) := []
  buckets : Tbl Bucket := []
  fifo : List Rec := []
  /-- Losses since the last LOST record, per severity, with the times of the first and the last. -/
  losses : Tbl Nat := []
  lossFirst : Word := 0#32
  lossLast : Word := 0#32
  ring : List Rec := []
  /-- Highest SEQ written. -/
  newest : Word := 0#32
  deriving DecidableEq, Repr

/-- What a CRC engine does (R411 to R413). -/
inductive CrcRun where
  | idle | running | waiting
  deriving DecidableEq, Repr

/-- A CRC scan engine. -/
structure Crc where
  run : CrcRun := .idle
  learn : Bool := false
  /-- The parity of EXP_A and EXP_B is good. -/
  parA : Bool := true
  parB : Bool := true
  deriving DecidableEq, Repr

/-- What the Blotter does (R416 to R418). -/
inductive BltRun where
  | waiting | copying | testing | restoring | repaired
  deriving DecidableEq, Repr

/-- The Blotter. -/
structure Blt where
  run : BltRun := .waiting
  /-- The next test is the spare's own. -/
  spareNext : Bool := true
  /-- Bytes of the region that are served from the spare: [0, redirected). -/
  redirected : Nat := 0
  /-- The restore in progress ended a passed test. -/
  passed : Bool := false
  tested : Tbl Bool := []
  skipped : Tbl Bool := []
  deriving DecidableEq, Repr

/-! ## Memory tiers (05) -/

/-- A staging pin (R122), in 64 KiB units. -/
structure Pin where
  base : Nat := 0
  size : Nat := 0
  valid : Bool := false
  domain : BitVec 12 := 0#12
  deriving DecidableEq, Repr

/-- A DDR5 channel: its DIMMs and whether it trained (R123 to R128). `train` is 0 not tried, 1 passed,
2 failed, 3 unsupported, 4 failed at run time. -/
structure Chan where
  dimms : List Dimm := []
  train : Nat := 0
  deriving DecidableEq, Repr

/-- A region that JOB_ADMIT granted (R139): tier 0 stack, 1 DDR5, 2 staging. -/
structure Region where
  base : Nat
  size : Nat
  kind : Nat
  die : Nat
  tier : Nat
  spilled : Bool
  stack : Nat
  pin : Option Nat
  deriving DecidableEq, Repr

/-- A JOB_ADMIT whose reply waits (R139 to R142): the request, and the placement once it is made. -/
structure Admit where
  domain : Nat
  tag : List Byte
  body : List Byte
  regions : Option (List Region)
  deriving DecidableEq, Repr

/-- An access held for a sleeping unit (R117), with the ECC findings of its reads. -/
structure HeldAcc where
  queue : Nat
  idx : Word
  ecc : List EccHit
  deriving DecidableEq, Repr

/-- The memories and the admission of jobs. [DESIGN CHOICE: log 10] -/
structure Mem where
  /-- Local memory by local address: stacks, staging and DDR5. Unlisted bytes read 0. -/
  cells : Tbl Byte := []
  /-- Poisoned granules (R130), by address / 64. -/
  poison : Tbl Bool := []
  /-- Staging granules that are not FRESH (R198), by address / 64. -/
  unfresh : Tbl Bool := []
  /-- Scratch SRAM, 16 MiB with the mailbox in its last 64 KiB (R414). Unlisted bytes read 0. -/
  scratch : Tbl Byte := []
  /-- The Blotter's spare bank, 64 KiB (R416). -/
  spare : Tbl Byte := []
  /-- The port that went second in bank 31's last conflict: true for port B; none before the first (R415). -/
  lastSecondB : Option Bool := none
  /-- The configuration flash, 64 MiB (R91). Unlisted bytes read 0xFF. -/
  flash : Tbl Byte := []
  /-- Staging pins, by 16 x die + pin. -/
  pins : Tbl Pin := []
  chans : Tbl Chan := []
  /-- The channel whose training is next or running; 16 when all have ended. -/
  nextChan : Nat := 0
  /-- The channel set: chosen, its code (0 none, 1 S8a, 2 S8b, 3 S16), capacity in GiB, rate. -/
  ddrChosen : Bool := false
  ddrSet : Nat := 0
  ddrGib : Nat := 0
  ddrMts : Nat := 0
  /-- Admitted domains and their regions. -/
  domains : Tbl (Option (List Region)) := []
  /-- Ranges (base, size) released and not yet zeroed (R142). -/
  zeroing : List (Nat × Nat) := []
  admits : List Admit := []
  held : List HeldAcc := []
  /-- Bytes read from stack k (key k) and written to it (key 8 + k) since reset. -/
  traffic : Tbl Nat := []
  deriving DecidableEq, Repr

/-! ## Flow programs (06) -/

/-- The queue states of R147. -/
inductive QState where
  | unbound | idle | running | halted | stopped | failed
  deriving DecidableEq, Repr

/-- Where a fetched descriptor stands. -/
inductive DStage where
  | waiting | released
  deriving DecidableEq, Repr

/-- A fetched descriptor that has not completed: its 64 bytes, the copies fetched with it, and what
its run has done so far. -/
structure Desc where
  raw : List Byte
  idx : Word
  stage : DStage := .waiting
  /-- Engine number within its die, once one is assigned. -/
  engine : Option Nat := none
  /-- NS at release (R181). -/
  start : Word := 0#32
  /-- The release waited for a wake. -/
  woke : Bool := false
  /-- An ALT descriptor that a poisoned wait released (R161). -/
  waitPois : Bool := false
  /-- A peer takes part. -/
  remote : Bool := false
  /-- Copies fetched: destination list, shard descriptor, element program, parameter block. -/
  dlist : List Byte := []
  shard : List Byte := []
  prog : List Byte := []
  param : List Byte := []
  /-- The local part of the run is over; remote transactions still outstanding; first failure. -/
  ran : Bool := false
  outstanding : Nat := 0
  status : Nat := 0
  detail : Nat := 0
  done : Nat := 0
  /-- What a FENCE waits for in other queues: (queue, index). -/
  fence : List (Nat × Word) := []
  /-- The contribution entry that a REDUCE joined. -/
  entry : Option Nat := none
  entryGen : Nat := 0
  /-- A running REDUCE whose entry was discarded (R204), or an aborted engine. -/
  abort : Bool := false
  /-- ATOMIZE destinations that failed. -/
  destFail : List Nat := []
  /-- The copy engine that a mirrored OPTIM holds (R232), and whether its mirroring has stopped (R239). -/
  copyEng : Option Nat := none
  mirrorOff : Bool := false
  deriving DecidableEq, Repr

/-- A flow queue (R145 to R147). -/
structure Queue where
  state : QState := .unbound
  domain : BitVec 12 := 0#12
  ring : Nat := 0
  cq : Nat := 0
  size : Nat := 0
  head : Word := 0#32
  tail : Word := 0#32
  done : Word := 0#32
  prio : Bool := false
  errStop : Bool := true
  waitLimit : BitVec 16 := 0#16
  lastErr : Word := 0#32
  lastIdx : Word := 0#32
  lastTag : Word := 0#32
  /-- Descriptors next to be fetched whose doorbell found the die not ON (R181, FLAGS bit 1). -/
  wokeLeft : Nat := 0
  /-- Fetched and not completed, in ring order. -/
  descs : List Desc := []
  deriving DecidableEq, Repr

/-- A token (R154). -/
structure Token where
  value : Word := 0#32
  poison : Bool := false
  bound : Option (BitVec 12) := none
  src : BitVec 16 := 0#16
  deriving DecidableEq, Repr

/-- A receive window (R169): the RECV it serves, and the byte runs [lo, hi) placed so far. -/
structure Window where
  die : Nat
  queue : Nat
  idx : Word
  domain : BitVec 12
  port : Nat
  stream : Nat
  format : Nat
  shift : Nat
  dst : Nat
  base : Nat
  len : Nat
  tok : Option Nat
  placed : List (Nat × Nat)
  chunks : Nat
  deriving DecidableEq, Repr

/-- The schedulers. -/
structure Flow where
  queues : Tbl Queue := []
  tokens : Tbl Token := []
  windows : List Window := []
  deriving DecidableEq, Repr

/-! ## Reduction and the engines' own states (07) -/

/-- The states of a contribution entry (R201). -/
inductive CtState where
  | free | opened | discarded
  deriving DecidableEq, Repr

/-- A contribution entry (R201). `gen` tells one life of the entry from the next (R203). -/
structure CtEntry where
  state : CtState := .free
  domain : BitVec 12 := 0#12
  acc : Nat := 0
  count : Nat := 0
  op : Nat := 0
  isInt : Bool := false
  expect : Nat := 0
  doneTok : BitVec 16 := 0#16
  arrived : Nat := 0
  seen : Nat := 0
  /-- The FRESH-marking sweep of R204 runs. -/
  sweeping : Bool := false
  gen : Nat := 0
  deriving DecidableEq, Repr

/-- An engine's test state (R212, R240, R263, R340); HELD follows from HOLD and no work. -/
structure EngSt where
  testing : Bool := false
  faulty : Bool := false
  /-- The running self-test follows a soft reset. -/
  fromReset : Bool := false
  deriving DecidableEq, Repr

/-! ## Board links (10) -/

/-- The states of a board link, as `LNK.PAGE_STAT` shows them; a spare link is one to which the plan joins
nothing. -/
inductive LinkSt where
  | quiet | training | up | retraining | backoff | miswired | disabled
  deriving DecidableEq, Repr

/-- A block in the retry buffer: its BSEQ, and the message that starts in it. -/
structure RetryBlock where
  bseq : Byte
  msg : Option OutMsg
  deriving DecidableEq, Repr

/-- A board link (R265 to R283). -/
structure Link where
  st : LinkSt := .quiet
  lanes : BitVec 4 := 0#4
  /-- Lanes before the retrain that runs, and whether it was asked for by WIDEN (R272). -/
  before : BitVec 4 := 0#4
  widen : Bool := false
  peerPos : Nat := 0
  peerLink : Nat := 0
  peerBoard : Nat := 0
  /-- A first INIT has been compared; own verdict and the peer's (0 none, 1 match, 2 mismatch). -/
  inited : Bool := false
  verdict : Nat := 0
  theirs : Nat := 0
  /-- The interval to the next training attempt in ms (R274). -/
  interval : Nat := 1
  /-- Next BSEQ to send, next one expected, and whether a NAK is outstanding (R270). -/
  bseq : Byte := 0#8
  expect : Byte := 0#8
  naked : Bool := false
  retry : List RetryBlock := []
  /-- Replays of the oldest block without progress (R271). -/
  replays : Nat := 0
  /-- Messages that wait for credits, for the retry buffer or for a retrain. -/
  txq : List OutMsg := []
  /-- Credits held at the peer, the peer's partition sizes, and slots owed to the peer, by partition
  (R280 to R282). Credits lie below 0 while a partition that shrank still drains. -/
  credits : Tbl Int := []
  sizes : Tbl Nat := []
  owed : Tbl Nat := []
  /-- The domain last served from the shared pool (R281). -/
  turn : Nat := 0
  /-- PART_CFG of the 16 domain partitions. -/
  parts : Tbl Word := []
  txBytes : Nat := 0
  rxBytes : Nat := 0
  /-- PRBS test running (R299). -/
  test : Nat := 0
  deriving DecidableEq, Repr

/-- What an outstanding transaction does when it is answered. -/
inductive TxnKind where
  | write | read | signal | poison | tokOp | mirror
  deriving DecidableEq, Repr

/-- An outstanding transaction that this module originated (R136, R157, R269). -/
structure Txn where
  tag : BitVec 16
  kind : TxnKind
  pos : Nat
  queue : Nat
  idx : Word
  /-- The ATOMIZE destination it serves. -/
  dest : Nat
  /-- The local address that read data goes to, and how many bytes the transaction moves. -/
  local_ : Nat
  bytes : Nat
  msg : OutMsg
  /-- The link that carries it; none while it waits for a route. -/
  link : Option Nat
  deriving DecidableEq, Repr

/-- A remote WRITE or READ held for a sleeping unit (R117): link, whether it writes, message, findings. -/
structure HeldLink where
  link : Nat
  isWrite : Bool
  msg : LinkMsg
  ecc : List EccHit
  deriving DecidableEq, Repr

/-- The crossbar's view of the board, and the transactions. -/
structure Board where
  links : Tbl Link := []
  txns : List Txn := []
  nextTag : BitVec 16 := 0#16
  /-- TAGs of the last 1,024 REGWRs applied, by source position (R269). -/
  seen : Tbl (List (BitVec 16)) := []
  /-- Masks and TRANSIT_EN (bit 16) that peers last reported (R284). -/
  peerReach : Tbl (BitVec 17) := []
  /-- ROUTE registers by peer: VIA and AUTO as written. -/
  routeCfg : Tbl Nat := []
  /-- Positions ever reached, and whether the first 1,000 ms have passed (R422). -/
  reached : BitVec 16 := 0#16
  late : Bool := false
  /-- The route last in use to each peer, and peers whose route drains (R284). -/
  lastRoute : Tbl Nat := []
  draining : Tbl Bool := []
  /-- Bytes of transit through each hub (R285), and remote accesses held for a wake. -/
  transit : Tbl Nat := []
  heldLink : List HeldLink := []
  deriving DecidableEq, Repr
/-! ## Optimizer engines (08) -/

/-- What an engine counts while it runs: NaN, overflow, saturation, FRESH granules read. -/
structure Tally where
  nan : Nat := 0
  ovf : Nat := 0
  sat : Nat := 0
  fresh : Nat := 0
  deriving DecidableEq, Repr

/-- The resources of an optimizer engine (R214) and where its program stands (R221). -/
structure OptEng where
  /-- V0 to V31, 64 lanes each; an unlisted register holds +0.0 in every lane. -/
  v : Tbl (List Word) := []
  /-- S0 to S63. -/
  s : Tbl Word := []
  la : Tbl (List Word) := []
  ha : Tbl Word := []
  /-- The next instruction, the body's first one, whether pass 2 runs, and the tile. -/
  pc : Nat := 0
  body : Nat := 0
  pass2 : Bool := false
  tile : Nat := 0
  /-- Stores of the present tile: address, bytes, and whether they are mirrored. -/
  writes : List (Nat × List Byte × Bool) := []
  /-- Gradient granules that the present tile consumes. -/
  consumed : List Nat := []
  /-- Counts of the present tile, and the ranges that it has read. -/
  tally : Tally := {}
  reads : List (Nat × Nat) := []
  /-- The status of a failed tile. -/
  status : Nat := 0
  /-- Elements of the tiles written in the running pass, and elements processed in all. -/
  written : Nat := 0
  ended : Bool := false
  deriving DecidableEq, Repr

/-! ## Planning and the present Accord (09) -/

/-- An entry of the plane port map (R246): kind 0 endpoint, 1 service, 2 dark. -/
structure MapEntry where
  kind : Nat := 0
  boardNo : Nat := 0
  pos : Nat := 0
  branch : Nat := 0
  port : Nat := 0
  deriving DecidableEq, Repr

/-- A loaded plane port map. -/
structure PortMap where
  plane : Nat
  seq : Word
  entries : Tbl MapEntry
  deriving DecidableEq, Repr

/-- An Accord table: its number, the number of its base, and the entries' PEER, KIND and HOLD, unlisted entries having no
circuit (R258). [DEDUCED: log 68] -/
structure AccTable where
  number : Word := 0#32
  base : Word := 0#32
  peers : Tbl Nat := []
  kinds : Tbl Nat := []
  holds : Tbl Bool := []
  deriving DecidableEq, Repr

/-! ## Steering (11) -/

/-- What the module knows of a plane tile. -/
structure Tile where
  /-- A SAMPLE was accepted since reset; its SEQ, and the time of its arrival. -/
  seen : Bool := false
  seq : Word := 0#32
  at_ : BitVec 64 := 0#64
  actSeq : Word := 0#32
  actSrc : Byte := 0xFF#8
  parked : Bool := false
  hv : Bool := false
  lost : Bool := false
  /-- SEQ and CRC field of the last 16 accepted frames, oldest first (R381). -/
  history : List (Word × Word) := []
  /-- A sample's frame has not left yet; whether the module held the claim when the sample came. -/
  due : Bool := false
  held : Bool := false
  /-- The last OUTPUT message that this module formed for the tile, and the partner's waiting one. -/
  own : Option SteerMsg := none
  partner : Option SteerMsg := none
  /-- Consecutive mismatched samples, the axis in the tile that differed first in them, and samples without an OUTPUT (R380). -/
  mismatches : Nat := 0
  firstAxis : Nat := 0
  silent : Nat := 0
  deriving DecidableEq, Repr

/-- A steering slot (R309 to R320): the configuration words, then the law's values. -/
structure Slot where
  cfg : Word := 0#32
  kp : Word := 0#32
  ki : Word := 0#32
  kd : Word := 0#32
  kf : Word := 0#32
  shifts : Word := 0#32
  outMin : Word := 0#32
  outMax : Word := 0x7FFFFFFF#32
  sp : Word := 0#32
  rate : Word := 0#32
  again : Word := 0#32
  integ : Word := 0#32
  /-- r after the rate limit, and whether r_prev and y_prev hold a value. -/
  r : Word := 0#32
  rSet : Bool := false
  yPrev : Word := 0#32
  ySet : Bool := false
  u : Word := 0#32
  /-- The error e of the last sample. -/
  e : Word := 0#32
  sat : Bool := false
  integd : Bool := false
  held : Bool := false
  deriving DecidableEq, Repr

/-- An axis. -/
structure Axis where
  hyst : Word := 0#32
  winner : Option Nat := none
  uOut : Word := 0#32
  code : Nat := 0
  /-- The axis has had an enabled slot since reset; a preload is due from this value (R312). -/
  driven : Bool := false
  preload : Option Word := none
  /-- The loop engine of the axis; axis a sits on a mod 48 until it moves (R307). -/
  engine : Option Nat := none
  trim : Word := 0#32
  /-- Excluded from comparison (R379): code repeated; snapshots until a COEF or TRIM no longer counts;
  integrators replaced; ended early until a SYNC. -/
  late : Bool := false
  coefAge : Nat := 0
  replaced : Bool := false
  early : Bool := false
  deriving DecidableEq, Repr

/-- An entry of the Accord queue (R326 to R329). `st` is 0 free, 1 ARMED, 2 LOADING, 3 validating,
4 VALIDATED, 5 committed. -/
structure AcdEntry where
  st : Nat := 0
  addr : Nat := 0
  domain : BitVec 12 := 0#12
  accord : Word := 0#32
  wait : Word := 0#32
  thr : Word := 0#32
  sig : Word := 0#32
  inc : Word := 0#32
  raw : List Byte := []
  table : AccTable := {}
  /-- The ACCORD message has gone, naming this commit SEQ. -/
  commitSeq : Option Word := none
  /-- NS when validation passed. -/
  passed : BitVec 64 := 0#64
  deriving DecidableEq, Repr

/-- A circuit's mirror pair in PEAK (R331, R332). -/
structure Pair where
  tx : Nat
  rx : Nat
  n : Nat := 0
  /-- Σ of TAP times each waveform: transmit X and Y, receive X and Y. -/
  sums : List Int := [0, 0, 0, 0]
  conv : Nat := 0
  ended : Bool := false
  /-- Samples since the pair entered PEAK. -/
  age : Nat := 0
  gen : Nat := 0
  deriving DecidableEq, Repr

/-- A group of moved mirrors (R330, R331). `phase` is 0 not started, 1 ramp, 2 settle, 3 peak, 4 ended. -/
structure Group where
  mirrors : List Nat
  phase : Nat := 0
  steps : Nat := 1
  start : Word := 0#32
  gen : Option Nat := none
  pairs : List Pair := []
  deriving DecidableEq, Repr

/-- An Accord between commit and done. -/
structure Move where
  number : Word
  entry : Option Nat
  sig : Word
  inc : Word
  commitSeq : Word
  since : BitVec 64
  moved : List Nat
  old : AccTable
  groups : List Group
  deriving DecidableEq, Repr

/-- The auto-tune unit (R323 to R325). -/
structure Tune where
  running : Bool := false
  slot : Nat := 0
  gen : Nat := 0
  bias : Word := 0#32
  relay : Word := 0#32
  /-- The relay gives B for one sample before the slot resumes. -/
  ending : Bool := false
  /-- Samples of the present cycle, whether a first rising switch came, cycles done, and the extremes. -/
  n : Nat := 0
  started : Bool := false
  cycles : Nat := 0
  lo : Int := 0
  hi : Int := 0
  periods : Nat := 0
  swings : Int := 0
  deriving DecidableEq, Repr

/-- Plane steering. -/
structure Steer where
  portMap : Option PortMap := none
  /-- Bytes counted by SNAPSHOT so far: by (port x 4 + branch), 128 + that for reception (R249). -/
  snapBase : Tbl Nat := []
  present : AccTable := {}
  /-- The number of the last Accord that is done. -/
  doneNum : Word := 0#32
  /-- The plane link: locked lanes, UP or DEGRADED, and training. -/
  lanes : BitVec 4 := 0#4
  training : Bool := false
  tiles : Tbl Tile := []
  taps : Tbl Nat := []
  slots : Tbl Slot := []
  axes : Tbl Axis := []
  /-- C0 to C5 and PARK of an axis; none while the defaults hold. -/
  coefs : Tbl (Option (List Word)) := []
  mirrors : Tbl Nat := []
  /-- A PLANE calibration since reset ended OK for the mirror; the store's calibration is valid. -/
  mirCal : Tbl Bool := []
  storeCal : Bool := false
  /-- Slot, AX_HYST (offset 0x148) and trim (0xB8, 0xBC) writes that wait for a sample: (slot or
  mirror, offset, value). -/
  writes : List (Nat × Nat × Word) := []
  /-- Axes and slots as they were before the present sample of their tile (R313). -/
  before : Tbl (Option (Axis × List Slot)) := []
  entries : Tbl AcdEntry := []
  order : List Nat := []
  move : Option Move := none
  /-- Consecutive in-window samples of a mirror in SETTLE. -/
  settled : Tbl Nat := []
  retries : List Pair := []
  tune : Tune := {}
  jogs : Tbl Word := []
  jogIn : Tbl Nat := []
  /-- Loop engines that run a drain (HOLD written). -/
  draining : Tbl Bool := []
  /-- Integrators kept aside at tile-0 SEQs that are multiples of 16 (R385), newest first. -/
  snaps : List (Word × Tbl Word) := []
  /-- Accords received from the partner and not yet committed (R386): commit SEQ and table. -/
  follow : List (Word × AccTable) := []
  deriving DecidableEq, Repr

/-! ## Pair redundancy (13) -/

/-- The redundancy states of R372. -/
inductive RState where
  | disabled | waiting | syncing | standby | contending | active | yielded
  deriving DecidableEq, Repr

/-- Redundancy. -/
structure Rdn where
  st : RState := .waiting
  /-- The state that CONTENDING came from; a race is on; an even module waits for the further hold-off. -/
  from_ : RState := .waiting
  race : Bool := false
  raced : Bool := false
  backedOff : Bool := false
  out : Bool := false
  in_ : Bool := false
  outSense : Bool := true
  /-- YIELDED was left and STANDBY or ACTIVE not reached. -/
  afterYield : Bool := false
  yieldCause : Nat := 0
  /-- The partner's last STATUS: state, eligible, stale, lost tiles, present Accord. -/
  heard : Bool := false
  pState : Nat := 0
  pElig : Bool := false
  pStale : Bool := false
  pLost : BitVec 40 := 0#40
  /-- OUTPUT messages arrive; the partner is marked silent until the next one (R380). -/
  partnerOk : Bool := false
  silent : Bool := false
  stale : Bool := false
  /-- The self-check: running, engine test over, own and partner's CHECK (result, cause, history). -/
  checking : Bool := false
  ownCheck : Option (Nat × Nat × List Byte) := none
  partnerCheck : Option (Nat × Nat × List Byte) := none
  declSeq : Word := 0#32
  failEngine : Nat := 0
  /-- NS when CLAIM_IN was sensed deasserted, and tiles that have had no frame since the claim. -/
  senseNs : BitVec 64 := 0#64
  tilesLeft : Tbl Bool := []
  takeover : Bool := false
  /-- SYNC at the requester: messages and image bytes; at the holder: an image is asked for. -/
  syncMsgs : Nat := 0
  syncImage : Tbl Byte := []
  syncSeq : Word := 0#32
  syncReq : Bool := false
  /-- Steering messages held until the image is applied. -/
  syncAfter : List (Nat × SteerMsg) := []
  imageAsked : Bool := false
  lastStatus : List Byte := []
  deriving DecidableEq, Repr

/-! ## Fast selectors, AFE, calibration, Fixative (12) -/

/-- The states of a lock-in loop (R354). -/
inductive LoopSt where
  | off | scanning | acquiring | locked | holding | reacq | fault
  deriving DecidableEq, Repr

/-- A lock-in loop. -/
structure Loop where
  st : LoopSt := .off
  /-- The state that HOLDING returns to. -/
  back : LoopSt := .acquiring
  en : Bool := false
  v : Int := 0
  ff : Int := 0
  af : Int := 0
  code : Nat := 0
  setCode : Nat := 0
  freq : Option Nat := none
  amp : Nat := 64
  bw : Nat := 2000
  c2pi : Nat := 0
  scanned : Bool := false
  ka : Word := 0#32
  kt : Word := 0#32
  tauSh : Nat := 8
  t0 : Nat := 0
  g : Int := 0
  c2 : Int := 0
  curvOk : Bool := false
  badPeriods : Nat := 0
  goodPeriods : Nat := 0
  winOut : Bool := true
  pilotOk : Bool := false
  pilots : Nat := 0
  pilotFails : Nat := 0
  checking : Bool := false
  lastCause : Nat := 0
  /-- Re-acquisition: attempts failed in a row, and NS of the last attempt's success. -/
  attempts : Nat := 0
  lastReacq : BitVec 64 := 0#64
  /-- A verify or full scan is queued or runs. -/
  scan : Bool := false
  fullScan : Bool := false
  cntWrong : Word := 0#32
  cntReacq : Word := 0#32
  pilotInt : Nat := 100
  deriving DecidableEq, Repr

/-- An AFE input channel. -/
structure Channel where
  int_ : Nat := 10
  code : Nat := 0
  ovr : Bool := false
  offset : BitVec 16 := 0#16
  gain : BitVec 16 := 0x8000#16
  cal : Nat := 0
  deriving DecidableEq, Repr

/-- What the calibration unit runs; `op` is 0 none, 1 OFFSET, 2 FRINGE, 3 PLANE. -/
structure Calib where
  op : Nat := 0
  abort : Bool := false
  /-- Loops still to be scanned by a FRINGE command. -/
  todo : List Nat := []
  /-- A unit was refused CALINPUT. -/
  refused : Bool := false
  done : Nat := 0
  total : Nat := 0
  deriving DecidableEq, Repr

/-- The Fixative store in use (R366 to R370). -/
structure Fixative where
  none_ : Bool := true
  slotB : Bool := false
  aValid : Bool := false
  bValid : Bool := false
  foreign : Bool := false
  seq : Word := 0#32
  valid : BitVec 6 := 0#6
  used : BitVec 6 := 0#6
  saving : Bool := false
  pending : Bool := false
  /-- The image of the save that runs, taken at its start. -/
  image : List Byte := []
  writer : List Byte := []
  hash : BitVec 384 := 0#384
  optime : BitVec 40 := 0#40
  /-- A PLANE calibration (or a SYNC) has ended OK since reset. -/
  planeOk : Bool := false
  /-- The link table record in force (R278): 140 bytes, or none. -/
  linkTbl : Option (List Byte) := none
  /-- The record that LINK_TABLE_SET stored, in force from the next module reset (R279). -/
  linkNew : Option (List Byte) := none
  /-- A service waits for the running save: its code and tag (R279). -/
  waiter : Option (Nat × List Byte) := none
  deriving DecidableEq, Repr

/-- Selectors, converters and calibration. -/
structure Sel where
  present : Tbl Bool := []
  detected : Tbl Bool := []
  /-- Cages inserted since reset whose next scans are followed by a save (R365). -/
  inserted : Tbl Bool := []
  loops : Tbl Loop := []
  chans : Tbl Channel := []
  trimOuts : Tbl Nat := []
  cal : Calib := {}
  fix : Fixative := {}
  afeDefaults : Bool := true
  slotsFromStore : Bool := false
  deriving DecidableEq, Repr

/-! ## Face-plate ports and KFT (10) -/

/-- The states of a face-plate port (`FPP.PAGE_STAT`), the absent cage apart. -/
inductive PortSt where
  | disabled | training | up | down
  deriving DecidableEq, Repr

/-- A branch change in progress (R177, R296, R297). `phase` is 0 while it waits for its path (R355),
1 for the BURST_END with ECHO, 2 for the BRANCH with ECHO. -/
structure Change where
  queue : Nat
  idx : Word
  branch : Nat
  tx : Bool
  rx : Bool
  phase : Nat
  deriving DecidableEq, Repr

/-- A frame of a transfer that is not acknowledged: its number, its place in the source, its length,
the times it was sent, and whether it is to be sent again when sending is possible. -/
structure TxFrame where
  no : Nat
  at_ : Nat
  len : Nat
  sends : Nat
  again : Bool
  deriving DecidableEq, Repr

/-- A transfer to a KFT destination of an ATOMIZE (R294). -/
structure Transfer where
  queue : Nat
  idx : Word
  dest : Nat
  port : Nat
  number : Nat
  domain : Nat
  stream : Nat
  format : Nat
  /-- Its first chunk offset, and its frames that are not acknowledged. -/
  base : Nat
  frames : List TxFrame
  /-- Number of frames in all. -/
  count : Nat
  deriving DecidableEq, Repr

/-- What the receiver tracks of a transfer into a window (R292). -/
structure Track where
  queue : Nat
  idx : Word
  port : Nat
  branch : Nat
  mac : BitVec 48
  domain : BitVec 16
  stream : BitVec 24
  number : Nat
  /-- Frames received in order: 0 to `next - 1`. Later ones recorded, as numbers. -/
  next : Nat
  recorded : List Nat
  /-- Frames since the last ACK, and frames named in a NAK of REASON GAP. -/
  owed : Nat
  naked : List Nat
  deriving DecidableEq, Repr

/-- A face-plate port. -/
structure Port where
  st : PortSt := .disabled
  txBr : Nat := 0
  rxBr : Nat := 0
  epTx : Byte := 0#8
  epRx : Byte := 0#8
  paused : Bool := false
  change : Option Change := none
  /-- Branches whose path has a stored phase since the port trained (R298). -/
  visited : BitVec 4 := 0#4
  transfer : Nat := 0
  /-- `BR_PEER_MAC_LO` and `_HI` by branch. -/
  macLo : Tbl Word := []
  macHi : Tbl Word := []
  brTx : Tbl Nat := []
  brRx : Tbl Nat := []
  /-- Sources without a window (R291): domain, stream, MAC and branch, oldest first. -/
  noWin : List (BitVec 16 × BitVec 24 × BitVec 48 × Nat) := []
  /-- Answers owed on other branches (R298): branch, type code, frame; oldest first. -/
  owed : List (Nat × Byte × KftFrame) := []
  /-- The last 256 TOKENs applied: domain, stream, SEQ. -/
  tokens : List (BitVec 16 × BitVec 24 × Word) := []
  /-- PRBS test running (R299). -/
  test : Nat := 0
  deriving DecidableEq, Repr

/-- The ports. -/
structure Kft where
  ports : Tbl Port := []
  transfers : List Transfer := []
  tracks : List Track := []
  deriving DecidableEq, Repr


/-- The state of the block. -/
structure State where
  /-- The commands that wait, first in first out. -/
  pending : List Instr := []
  /-- What the block has sent, newest first (the model's own record). -/
  out : List Sent := []
  /-- Counter for free values (the model's own field). -/
  fresh : Nat := 0
  /-- Nanoseconds since reset release (SCH.NS). -/
  ns : BitVec 64 := 0#64
  /-- Stored register words, by window offset (R61). -/
  regs : Tbl Word := []
  pwr : Pwr := {}
  hst : Hst := {}
  boot : Boot := {}
  otp : Otp := {}
  evr : Evr := {}
  crc : Tbl Crc := []
  blt : Blt := {}
  mem : Mem := {}
  flow : Flow := {}
  /-- Contribution entries, by 2048 x die + entry. -/
  ct : Tbl CtEntry := []
  /-- Engine test states, by 256 x page type + instance. -/
  eng : Tbl EngSt := []
  /-- Optimizer engines, by 16 x die + engine. -/
  opt : Tbl OptEng := []
  board : Board := {}
  kft : Kft := {}
  ste : Steer := {}
  rdn : Rdn := {}
  sel : Sel := {}
  deriving DecidableEq, Repr

/-- The machine right after VDD_AON has risen and before RESET_N is released: every unit OFF, memory
with nothing listed, and every register at its reset value. [DESIGN CHOICE: log 5, 11] -/
def State.reset : State := {}

end Sys2Proof.Machine
end

