-- ==== Sys2Proof/Machine/Ops.lean ====
section
/-!
DEFINITION. The named operations that every family shares: stored register words, unit power states,
status codes, Sillage events with the rate limiter and the FIFO, interrupt bits with their NOTIFY
frames, free values, and the record of what the block sends.
-/

namespace Sys2Proof.Machine

/-! ## Status codes (R426) -/

abbrev stOK : Nat := 0x0000
abbrev stPENDING : Nat := 0x0001
abbrev stSTATE : Nat := 0x0010
abbrev stRANGE : Nat := 0x0011
abbrev stRESOURCE : Nat := 0x0012
abbrev stCAPACITY : Nat := 0x0013
abbrev stORDER : Nat := 0x0014
abbrev stAUTH : Nat := 0x0020
abbrev stSEALED : Nat := 0x0021
abbrev stNOTREADY : Nat := 0x0030
abbrev stLINK : Nat := 0x0040
abbrev stABORTED : Nat := 0x0041
abbrev stCHECK : Nat := 0x0050
abbrev stREFFAULT : Nat := 0x0051
abbrev stCALINPUT : Nat := 0x0060
abbrev stSTORE : Nat := 0x0061
abbrev stFOREIGN : Nat := 0x0062
abbrev stDEADLINE : Nat := 0x0070
abbrev stPARTNER : Nat := 0x0080

/-! ## Stored register words -/

/-- The window offset of a page (R61). -/
def pageKey (ty inst : Nat) : Nat := ty * 0x100000 + inst * 0x1000

/-- A register of instance `i`, from its instance 0 key. -/
def Reg.at (r i : Nat) : Nat := r + i * 0x1000

/-- The word that a register holds after reset (R6): its page's table, EN of the page (1 but for FPP,
R65 and the chapters), the FREQ of R352 and the integration time of R350. [DESIGN CHOICE: log 11] -/
def regDefault (k : Nat) : Word :=
  let ty := k / 0x100000
  let inst := k / 0x1000 % 0x100
  let ofs := k % 0x1000
  if ofs == 0x008 then (if ty == 0x31 || (pageRegs ty).isNone then 0#32 else 1#32)
  else
    match regInfo ty ofs with
    | some r => if inst < pageInstances ty then toWord r.reset else 0#32
    | none => 0#32

/-- A stored register word. -/
def getReg (s : State) (k : Nat) : Word := tget regDefault s.regs k

/-- A stored register word as a number. -/
def getRegN (s : State) (k : Nat) : Nat := (getReg s k).toNat

/-- Store a register word. -/
def setReg (s : State) (k : Nat) (w : Word) : State := { s with regs := tset regDefault s.regs k w }

/-- Store a number into a register. -/
def setRegN (s : State) (k n : Nat) : State := setReg s k (toWord n)

/-- Replace a field of a stored word. -/
def setRegFld (s : State) (k lo n v : Nat) : State := setReg s k (putFld (getReg s k) lo n v)

/-- Add to a saturating counter. -/
def bumpReg (s : State) (k : Nat) (n : Nat) : State := setReg s k (satAdd (getReg s k) n)

/-- Add to a wrapping counter. -/
def wrapReg (s : State) (k : Nat) (n : Nat) : State := setReg s k (getReg s k + toWord n)

/-- Set bits of a stored word. -/
def orReg (s : State) (k : Nat) (m : Word) : State := setReg s k (getReg s k ||| m)

/-- Clear bits of a stored word. -/
def andNotReg (s : State) (k : Nat) (m : Word) : State := setReg s k (getReg s k &&& ~~~ m)

/-- A 64-bit counter in a low and a high word. -/
def bump64 (s : State) (lo hi n : Nat) : State :=
  let v := getRegN s lo + getRegN s hi * 2 ^ 32 + n
  setRegN (setRegN s lo (v % 2 ^ 32)) hi (v / 2 ^ 32)

/-- Header registers of a page (R63). -/
def ctlOf (s : State) (ty inst : Nat) : Word := getReg s (pageKey ty inst + 0x008)

/-- `PAGE_CTL.EN`. -/
def enOf (s : State) (ty inst : Nat) : Bool := bitOf (ctlOf s ty inst) 0

/-- `PAGE_CTL.HOLD`. -/
def holdOf (s : State) (ty inst : Nat) : Bool := bitOf (ctlOf s ty inst) 2

/-- The bits of `IRQ_STAT` that a page defines. [DEDUCED: log 26] -/
def irqMask (ty : Nat) : Nat := match regInfo ty 0x010 with | some r => r.w1c | none => 0

/-- `PAGE_CAP.SRST`: the pages that support a soft reset. -/
def capSrst (ty : Nat) : Bool :=
  [0x11, 0x12, 0x13, 0x16, 0x30, 0x31, 0x40, 0x41, 0x47].contains ty

/-- `PAGE_CAP.HOLD`: the pages that support hold. -/
def capHold (ty : Nat) : Bool :=
  [0x10, 0x11, 0x12, 0x13, 0x16, 0x40, 0x42, 0x43, 0x47, 0x48].contains ty

/-- `PAGE_CAP.BLOCK` as the blocks' chapters give it; 0 where a chapter gives none. [DEDUCED: log 26] -/
def capBlock (ty : Nat) : Nat :=
  match ty with
  | 0x14 => 64 | 0x20 => 32 | 0x21 => 8 | 0x10 => 16 | 0x11 => 2048 | 0x12 => 256 | 0x47 => 128
  | 0x30 => 2048 | 0x40 => 576 | 0x09 => 32 | _ => 0

/-! ## Units and their power states -/

abbrev dieSTE : Nat := 4
abbrev dieAFE : Nat := 5
abbrev dieIOD : Nat := 9
abbrev dieHUB : Nat := 17
abbrev dieDMC : Nat := 21
abbrev dieSTK : Nat := 23
abbrev dieCLK : Nat := 31

/-- The code of a power state (R41). -/
def pcode : PState → Nat
  | .off => 0 | .powering => 1 | .zeroing => 2 | .waking => 3 | .idle => 4 | .on => 5 | .failed => 6
  | .retain => 7

/-- The power state of a die, by die index. -/
def unitSt (s : State) (u : Nat) : PState := tget (fun _ => PState.off) s.pwr.units u

/-- Put a die into a power state. -/
def setUnit (s : State) (u : Nat) (p : PState) : State :=
  { s with pwr := { s.pwr with units := tset (fun _ => PState.off) s.pwr.units u p } }

/-- A unit is ON. -/
def isOn (s : State) (u : Nat) : Bool := unitSt s u == .on

/-- What the wake agent holds for a Flow die. -/
def wakeOf (s : State) (d : Nat) : DieWake := tget (fun _ => {}) s.pwr.wakes d

/-- Update it. -/
def modWake (s : State) (d : Nat) (f : DieWake → DieWake) : State :=
  { s with pwr := { s.pwr with wakes := tmod (fun _ => {}) s.pwr.wakes d f } }

/-- The die on which a page's block sits: `none` for blocks of the AON domain. -/
def pageDie (ty inst : Nat) : Option Nat :=
  match ty with
  | 0x02 => none | 0x07 => none
  | 0x03 => some dieCLK
  | 0x08 => if inst < 4 then some inst else some dieSTE
  | 0x10 => some inst | 0x14 => some inst | 0x16 => some inst | 0x47 => some inst
  | 0x11 => some (inst / 32) | 0x12 => some (inst / 16) | 0x13 => some (inst / 8)
  | 0x20 => some (dieSTK + inst) | 0x21 => some (dieDMC + inst) | 0x32 => some (dieHUB + inst)
  | 0x30 => some (dieIOD + 4 + inst / 16) | 0x31 => some (dieIOD + inst / 8)
  | 0x44 => some (dieAFE + inst)
  | _ => some dieSTE

/-- The own board position and the board size (R20, R37). -/
def ownPos (s : State) : Nat := fld (getReg s Reg.PWR_STRAPS) 0 4

def boardSize (s : State) : Nat := 2 * 2 ^ fld (getReg s Reg.PWR_STRAPS) 4 2

def strapRole (s : State) : Bool := bitOf (getReg s Reg.PWR_STRAPS) 6

def strapPlan (s : State) : Nat := fld (getReg s Reg.PWR_STRAPS) 7 2

def strapBoard (s : State) : Nat := fld (getReg s Reg.PWR_STRAPS) 9 3

/-- The position of the partner: 2k and 2k + 1 form a pair (R22). -/
def partnerPos (s : State) : Nat := if ownPos s % 2 == 0 then ownPos s + 1 else ownPos s - 1

/-- The plane number of the pair (R22). -/
def planeNo (s : State) : Nat := 8 * strapBoard s + ownPos s / 2

/-! ## Free values and outputs -/

/-- A free number of `n` bits, and the state with the counter advanced. [DESIGN CHOICE: log 3] -/
def freeNat (n : Nat) (s : State) : Nat × State :=
  ((Config.freeBits s.fresh).toNat % 2 ^ n, { s with fresh := s.fresh + 1 })

/-- Record what the block sends. [DEDUCED: log 139] -/
def send (s : State) (x : Sent) : State := { s with out := x :: s.out }

/-! ## Interrupt bits and notifications (R85 to R87) -/

/-- The rights in force of a page type, 10 bits (R101). -/
def rightsOf (s : State) (ty : Nat) : BitVec 10 := tget (fun _ => 0#10) s.boot.inForce.rights ty

/-- A session slot. -/
def sessOf (s : State) (i : Nat) : Session := tget (fun _ => {}) s.hst.sessions i

def setSess (s : State) (i : Nat) (x : Session) : State :=
  { s with hst := { s.hst with sessions := tset (fun _ => {}) s.hst.sessions i x } }

/-- The 24 header bytes of a KRT frame (R72); `tail` are bytes 14 to 23. -/
def krtHeader (resp : Bool) (op : Byte) (sid : BitVec 16) (seq : Word) (tag status : BitVec 16)
    (len : Nat) (tail : BitVec 80) : List Byte :=
  [BitVec.ofNat 8 (0x10 + b2n resp), op] ++ beBytes 2 sid.toNat ++ beBytes 4 seq.toNat ++
    beBytes 2 tag.toNat ++ beBytes 2 status.toNat ++ beBytes 2 len ++ beBytes 10 tail.toNat

/-- A module frame of a session with its tag: HMAC over header and payload, first 16 bytes (R72). -/
def krtTagged (key : BitVec 384) (f : KrtOut) : KrtOut :=
  { f with auth := (Config.hmacSha384 key
      (krtHeader f.resp f.op f.sid f.seq f.tag f.status f.payload.length f.tail ++ f.payload)).extractLsb' 256 128 }

/-- Ten free header bytes: the spec states no SPACE and ADDRESS for frames that the module sends. [DESIGN CHOICE: log 3, 24] -/
def freeTail (s : State) : BitVec 80 :=
  (Config.freeBits s.fresh).setWidth 80 ||| ((Config.freeBits (s.fresh + 1)).setWidth 80 <<< 64)

/-- The payload of a NOTIFY (R86). -/
def notifyPayload (s : State) (ty inst : Nat) (pend lost : Word) : List Byte :=
  [BitVec.ofNat 8 ty, BitVec.ofNat 8 inst, 0#8, 0#8] ++ beBytes 4 pend.toNat ++
    beBytes 4 (getRegN s (pageKey ty inst + 0x01C)) ++ beBytes 5 s.pwr.optime.toNat ++
    beBytes 3 s.pwr.pcycle.toNat ++ beBytes 4 lost.toNat ++ zeros 8

/-- Send a NOTIFY frame of a session. -/
def sendNotify (s : State) (x : Session) (n : Notify) : State :=
  let f : KrtOut := { dst := x.mac, etype := (getReg s Reg.HST_ETYPE).setWidth 16, resp := false, op := 0x06#8, sid := x.sid, seq := n.seq, tag := 0#16, status := 0#16, tail := freeTail s, payload := n.payload, auth := 0#128 }
  { send s (.krt (krtTagged x.keyOut f)) with fresh := s.fresh + 2 }

/-- Queue one NOTIFY for a page to a slot; the flag tells that it was lost (R85, R87). -/
def notifySlot (ty inst : Nat) (pend : Word) (p : State × Bool) (i : Nat) : State × Bool :=
  let (s, lost) := p
  let x := sessOf s i
  if x.isOpen && x.notify && (rightsOf s ty).getLsbD (2 * x.cls) then
    if 16 ≤ x.unacked.length then (setSess s i { x with lost := x.lost + 1#32 }, true)
    else
      let n : Notify := { seq := x.nseq, payload := notifyPayload s ty inst pend x.lost, tries := 0 }
      let x' := { x with nseq := x.nseq + 1#32, unacked := x.unacked ++ [n], lost := 0#32 }
      (sendNotify (setSess s i x') x' n, lost)
  else (s, lost)

/-- `IRQ_STAT` AND `IRQ_EN` of a page. -/
def pendingOf (s : State) (ty inst : Nat) : Word :=
  getReg s (pageKey ty inst + 0x010) &&& getReg s (pageKey ty inst + 0x014)

/-- Settle a page's pending state: notify once when it becomes pending, re-arm at 0 (R85). -/
def notifyPage (s : State) (ty inst : Nat) : State × Bool :=
  let k := pageKey ty inst
  let pend := pendingOf s ty inst
  let was := tget (fun _ => false) s.hst.armed k
  let arm (b : Bool) (s : State) : State :=
    { s with hst := { s.hst with armed := tset (fun _ => false) s.hst.armed k b } }
  if pend == 0#32 then (arm false s, false)
  else if was then (s, false)
  else (List.range 8).foldl (notifySlot ty inst pend) (arm true s, false)

/-- Settle a page without a record of a lost notification. -/
def settleQuiet (s : State) (ty inst : Nat) : State :=
  match notifyPage s ty inst with
  | (s, false) => s
  | (s, true) => (notifyPage (orReg s Reg.HST_IRQ_STAT 4#32) 0x06 0).1

/-! ## Sillage: events, rate limiter, FIFO (R399 to R403) -/

/-- The default severity of a code (R400). -/
def sevDefault (code : Nat) : Nat :=
  if [0x0222, 0x0202, 0x0403, 0x0A01].contains code then 5
  else if [0x1401, 0x2001, 0x2101, 0x0901, 0x3001, 0x3101, 0x4101, 0x4104, 0x3220, 0x1101, 0x1201,
      0x4701, 0x4001, 0x4601, 0x4602, 0x4603, 0x3020, 0x1203, 0x0801, 0x0802, 0x4801,
      0x4303].contains code then 4
  else if [0x0A00, 0x4201, 0x4500, 0x4003, 0x0400, 0x0401, 0x0604, 0x0A05, 0x0A20, 0x0220,
      0x0720].contains code then 2
  else if [0x1400, 0x2000, 0x2100, 0x0900, 0x1402, 0x2002, 0x2102, 0x4800, 0x1005, 0x0800,
      0x4600].contains code then 1
  else 3

/-- The severity of a code: the map where it was written, else the default given. [DEDUCED: log 31] -/
def sevOf (s : State) (code dflt : Nat) : Nat :=
  match tget (fun _ => none) s.evr.sevMap code with
  | some v => v
  | none => dflt

/-- The highest severity in a list of records. -/
def maxSev (l : List Rec) : Nat := l.foldl (fun m r => max m r.sev) 0

/-- The lowest severity in a list of records. [DEDUCED: log 133] -/
def minSev (l : List Rec) : Nat := l.foldl (fun m r => min m r.sev) (maxSev l)

/-- The FIFO without its newest entry of severity `v`, and that entry. [DEDUCED: log 133] -/
def dropNewest (v : Nat) (l : List Rec) : List Rec × Option Rec :=
  let r := l.reverse
  match r.findIdx? (fun x => x.sev == v) with
  | some i => ((r.eraseIdx i).reverse, r[i]?)
  | none => (l, none)

/-- Account a lost event (R403). [DEDUCED: log 132] -/
def loseRec (s : State) (r : Rec) : State :=
  let n := if r.typ == 0x03 then (r.args.headD 0#32).toNat else 1
  let t := s.pwr.optime.setWidth 32
  let none? := s.evr.losses.isEmpty
  let s := { s with evr := { s.evr with
    losses := tmod (fun _ => 0) s.evr.losses r.sev (· + n)
    lossFirst := if none? then t else s.evr.lossFirst
    lossLast := t } }
  orReg (bumpReg s Reg.EVR_CNT_LOST 1) Reg.EVR_IRQ_STAT 2#32

/-- Put a record into the pending FIFO of 64 entries (R402, R403). [DEDUCED: log 133] -/
def fifoPush (s : State) (r : Rec) : State :=
  if s.evr.fifo.length < 64 then { s with evr := { s.evr with fifo := s.evr.fifo ++ [r] } }
  else if r.sev < maxSev s.evr.fifo then loseRec s r
  else
    match dropNewest (minSev s.evr.fifo) s.evr.fifo with
    | (rest, some x) => loseRec { s with evr := { s.evr with fifo := rest ++ [r] } } x
    | (_, none) => loseRec s r

/-- The rate-limiter bucket of a code (R401). -/
def bucketOf (s : State) (b : Nat) : Bucket := tget (fun _ => {}) s.evr.buckets b

def setBucket (s : State) (b : Nat) (x : Bucket) : State :=
  { s with evr := { s.evr with buckets := tset (fun _ => {}) s.evr.buckets b x } }

/-- An event meets the rate limiter, then the FIFO (R401). -/
def evrAdmit (s : State) (r : Rec) : State :=
  let b := r.code % 1024
  let k := bucketOf s b
  if fld (getReg s Reg.EVR_CFG) 8 3 ≤ r.sev then fifoPush s r
  else if 0 < k.tokens then fifoPush (setBucket s b { k with tokens := k.tokens - 1 }) r
  else
    let t := s.pwr.optime.setWidth 32
    bumpReg (setBucket s b { k with
      supp := min (k.supp + 1) 65535
      sev := if k.supp == 0 then r.sev else max k.sev r.sev
      first := if k.supp == 0 then t else k.first
      last := t, code := r.code, page := r.page, inst := r.inst }) Reg.EVR_CNT_SUPPRESSED 1

/-- After records entered the FIFO: `IRQ_STAT.LOST` of the EVR page is settled. [DEDUCED: log 14, 132] -/
def evrSettle (s : State) : State := if bitOf (getReg s Reg.EVR_IRQ_STAT) 1 then settleQuiet s 0x07 0 else s

/-- An event of TYPE EVENT with a severity default given: ARG0 is the source page's ERR_CODE (R399). -/
def eventSev (s : State) (dflt code page inst status : Nat) (args : List Nat) : State :=
  let s := evrAdmit s {
    seq := 0#32, sev := sevOf s code dflt, rebased := false, typ := 0x01, code := code, page := page,
    inst := inst, status := status, optime := s.pwr.optime, pcycle := s.pwr.pcycle,
    args := getReg s (pageKey page inst + 0x01C) :: args.map toWord }
  evrSettle s

/-- An event with the default severity of its code. [DEDUCED: log 136] -/
def event (s : State) (code page inst status : Nat) (args : List Nat) : State :=
  eventSev s (sevDefault code) code page inst status args

/-- Settle a page; a lost notification sets HST.IRQ_STAT.NOTIFY_LOST, which settles the HST page. -/
def irqSettle (s : State) (ty inst : Nat) : State :=
  match notifyPage s ty inst with
  | (s, false) => s
  | (s, true) =>
    let s := event (orReg s Reg.HST_IRQ_STAT 4#32) 0x0602 0x06 0 0 []
    (notifyPage s 0x06 0).1

/-- A hardware event sets an interrupt bit: the bit, its Sillage record and the NOTIFY. The bits of
the EVR page record nothing in their turn. [DEDUCED: log 136] -/
def raiseIrqArgs (s : State) (ty inst bit status : Nat) (args : List Nat) : State :=
  let s := orReg s (pageKey ty inst + 0x010) (toWord (2 ^ bit))
  let s := if ty == 0x07 then s else event s (ty * 256 + bit) ty inst status args
  irqSettle s ty inst

/-- The same without status and arguments. [DEDUCED: log 14] -/
def raiseIrq (s : State) (ty inst bit : Nat) : State := raiseIrqArgs s ty inst bit 0 []

/-- An interrupt bit that sets without a record: bits forced by software and bits of the EVR page. [DEDUCED: log 14] -/
def raiseQuiet (s : State) (ty inst bit : Nat) : State :=
  irqSettle (orReg s (pageKey ty inst + 0x010) (toWord (2 ^ bit))) ty inst

/-- Fold an operation over the numbers 0 to n - 1. -/
def forEach (n : Nat) (s : State) (f : State → Nat → State) : State := (List.range n).foldl f s

end Sys2Proof.Machine
end

