-- ==== Sys2Proof/Machine/Power.lean ====
section
/-!
DEFINITION. Power states and wakes (R41 to R52): the wake queue of step phases, the wake of a Flow
die by a doorbell, a signal or a command, entry into OFF, and live allocations.
-/

namespace Sys2Proof.Machine

/-! ## Live allocations and pending work -/

/-- A contribution entry. -/
def ctOf (s : State) (i : Nat) : CtEntry := tget (fun _ => {}) s.ct i

/-- OPEN contribution entries of die `d`: `STG.LIVE.ACC` (R122, R201). -/
def liveAcc (s : State) (d : Nat) : Nat :=
  (s.ct.filter fun e => e.1 / 2048 == d && e.2.state == .opened).length

/-- A pin of die `d`. -/
def pinOf (s : State) (d i : Nat) : Pin := tget (fun _ => {}) s.mem.pins (16 * d + i)

/-- Valid pins of die `d`: `STG.LIVE.PINS`. -/
def livePins (s : State) (d : Nat) : Nat :=
  (s.mem.pins.filter fun e => e.1 / 16 == d && e.2.valid).length

/-- The die holds a live allocation (R44, R122). -/
def isLive (s : State) (d : Nat) : Bool := 0 < liveAcc s d || 0 < livePins s d

/-- A queue, by global number. -/
def queueOf (s : State) (q : Nat) : Queue := tget (fun _ => {}) s.flow.queues q

def setQueue (s : State) (q : Nat) (x : Queue) : State :=
  { s with flow := { s.flow with queues := tset (fun _ => {}) s.flow.queues q x } }

/-- A CRC engine. -/
def crcOf (s : State) (i : Nat) : Crc := tget (fun _ => {}) s.crc i

/-- A descriptor is pending on die `d`, or a CRC scan runs on it (R430). An unbound or failed queue
holds none; a halted or stopped one keeps its own. -/
def diePending (s : State) (d : Nat) : Bool :=
  ((List.range 16).any fun i =>
    let x := queueOf s (16 * d + i)
    x.state != .unbound && x.state != .failed && (x.head != x.tail || !x.descs.isEmpty)) ||
  (crcOf s d).run == .running

/-! ## The wake queue (R49) -/

/-- A phase enters the wake queue. [DEDUCED: log 16] -/
def queuePhase (s : State) (u : Nat) (k : PhaseKind) : State :=
  { s with pwr := { s.pwr with wakeQ := s.pwr.wakeQ ++ [{ unit := u, kind := k }] } }

/-- A phase of this kind of this unit waits or runs. -/
def phaseOf (s : State) (u : Nat) (k : PhaseKind) : Bool :=
  s.pwr.wakeQ.contains { unit := u, kind := k } || s.pwr.phase == some { unit := u, kind := k }

/-- A unit leaves OFF: its power-gate phase is queued (R47). [DEDUCED: log 16] -/
def startWake (s : State) (u : Nat) : State := queuePhase (setUnit s u .powering) u .gateUp

/-- A unit's clock-ungate phase is queued. -/
def startUngate (s : State) (u : Nat) : State := queuePhase (setUnit s u .waking) u .ungate

/-- A Flow die is asked to come ON, by a doorbell, a signal or WAKE (R45, R46, R51). -/
def wakeDie (s : State) (d : Nat) : State :=
  match unitSt s d with
  | .off => startWake (modWake s d fun w => { w with stopIdle := false }) d
  | .idle => startUngate (modWake s d fun w => { w with offTimer := false }) d
  | .powering =>
    if phaseOf s d .gateDown then modWake s d fun w => { w with again := true }
    else modWake s d fun w => { w with stopIdle := false }
  | .zeroing => modWake s d fun w => { w with stopIdle := false }
  | _ => s

/-- A Flow die enters IDLE; its OFF_AFTER period starts (R43, R44). -/
def enterIdle (s : State) (d : Nat) : State :=
  modWake (setUnit s d .idle) d fun w => { w with cmd := false, stopIdle := false, offTimer := true }

/-- A Flow die starts stepping down into OFF (R46). [DEDUCED: log 18] -/
def startOff (s : State) (d : Nat) : State :=
  queuePhase (modWake (setUnit s d .powering) d fun _ => {}) d .gateDown

/-- The last live allocation of an IDLE die has ended: OFF_AFTER starts again (R44). -/
def offAfterRestart (s : State) (d : Nat) : State :=
  if unitSt s d == .idle && !isLive s d then modWake s d fun w => { w with offTimer := true } else s

/-- The staging range of a die is lost or zeroed: bytes 0, no poison, every granule FRESH (R48, R130,
R198). [DEDUCED: log 18] -/
def clearStaging (s : State) (d : Nat) : State :=
  let lo := 0xC000000000 + d * 0x10000000
  let hi := lo + 0x10000000
  { s with mem := { s.mem with
    cells := tclear s.mem.cells lo hi
    poison := tclear s.mem.poison (lo / 64) (hi / 64)
    unfresh := tclear s.mem.unfresh (lo / 64) (hi / 64) } }

/-- The stacks of a die leave RETAIN. -/
def stacksOn (s : State) (d : Nat) : State :=
  let on (s : State) (k : Nat) : State :=
    if unitSt s (dieSTK + k) == .retain then setUnit s (dieSTK + k) .on else s
  on (on s (2 * d)) (2 * d + 1)

/-- The stacks of a die enter RETAIN. -/
def stacksRetain (s : State) (d : Nat) : State :=
  let f (s : State) (k : Nat) : State :=
    if unitSt s (dieSTK + k) == .on then setUnit s (dieSTK + k) .retain else s
  f (f s (2 * d)) (2 * d + 1)

/-- A Flow die reaches ON: its stacks are ready, and a WAKE command's interrupt is set (R51). -/
def reachOn (s : State) (d : Nat) : State :=
  let w := wakeOf s d
  let s := modWake (stacksOn (setUnit s d .on) d) d fun _ => {}
  if w.cmd then raiseIrq s 0x02 0 4 else s

/-! ## Hubs and DDR5 controllers (R43, R117) -/

/-- The hub dies to which a DDR5 controller attaches (01): DMC0 to HUB0 and HUB1, DMC1 to HUB2, HUB3. -/
def dmcHubs (m : Nat) : List Nat := [2 * m, 2 * m + 1]

/-- DDR5 controllers follow their hubs: RETAIN while no hub is ON, ON again with one. -/
def dmcFollow (s : State) : State :=
  forEach 2 s fun s m =>
    let any := (dmcHubs m).any fun h => isOn s (dieHUB + h)
    let u := dieDMC + m
    if any && unitSt s u == .retain then setUnit s u .on
    else if !any && unitSt s u == .on then setUnit s u .retain else s

/-- A hub die is needed: it joins the wake queue when it is OFF. -/
def wakeHub (s : State) (h : Nat) : State :=
  if unitSt s (dieHUB + h) == .off then startWake s (dieHUB + h) else s

/-! ## Failed units -/

/-- A unit enters FAILED, once: Sillage code 0x0222 with its index and its code before (R400). -/
def failUnit (s : State) (u : Nat) : State :=
  if unitSt s u == .failed then s
  else
    let was := pcode (unitSt s u)
    let s := setUnit s u .failed
    let s := { s with pwr := { s.pwr with
      wakeQ := s.pwr.wakeQ.filter fun p => p.unit != u
      phase := if (s.pwr.phase.map Phase.unit) == some u then none else s.pwr.phase } }
    event s 0x0222 0x02 0 0 [u, was]

/-- Any die is FAILED (SYS reads DEGRADED). -/
def anyFailed (s : State) : Bool := s.pwr.units.any fun e => e.2 == .failed

/-- The temperature register field of a die (R56). -/
def setTemp (s : State) (u t : Nat) : State := setRegFld s (Reg.PWR_TEMP0 + 4 * (u / 4)) (8 * (u % 4)) 8 t

/-- [DESIGN CHOICE: log 6] -/
def tempOf (s : State) (u : Nat) : Nat := fld (getReg s (Reg.PWR_TEMP0 + 4 * (u / 4))) (8 * (u % 4)) 8

/-- The hottest die and its temperature, the lowest index among equals: `PWR.TEMP_MAX`. [DESIGN CHOICE: log 6] -/
def tempMax (s : State) : Nat × Nat :=
  (List.range 32).foldl (fun m u => if m.2 < tempOf s u then (u, tempOf s u) else m) (0, tempOf s 0)

/-- The issue rate of a die is halved (R54, R56, R165). -/
def issueHalf (s : State) (d : Nat) : Bool :=
  s.pwr.capped || (getReg s Reg.PWR_THROTTLE).getLsbD d

end Sys2Proof.Machine
end

