-- ==== Sys2Proof/Machine/MemOps.lean ====
section
/-!
DEFINITION. Local memory (R58, R114 to R132): the regions, the state of the tier that an address needs,
ECC findings, poison, FRESH, and the reads and writes of granules that every engine shares.
-/

namespace Sys2Proof.Machine

abbrev stagingBase : Nat := 0xC000000000
abbrev windowBase : Nat := 0xE000000000
abbrev ddrBase : Nat := 0x80000000000
abbrev stackSize : Nat := 0x1400000000

/-- The region of a local address (R58). -/
inductive Tier where
  | stack (k : Nat)
  | staging (d : Nat)
  | window
  | ddr
  | none
  deriving DecidableEq, Repr

/-- The region in which a local address lies. -/
def tierOf (a : Nat) : Tier :=
  if a < 8 * stackSize then .stack (a / stackSize)
  else if stagingBase ≤ a && a < stagingBase + 0x40000000 then .staging ((a - stagingBase) / 0x10000000)
  else if windowBase ≤ a && a < windowBase + 0x10000000 then .window
  else if ddrBase ≤ a && a < 2 * ddrBase then .ddr
  else .none

/-- The DDR5 channels of the set in interleave order (R126). -/
def setChannels (code : Nat) : List Nat :=
  match code with
  | 3 => [0, 8, 1, 9, 2, 10, 3, 11, 4, 12, 5, 13, 6, 14, 7, 15]
  | 1 => [0, 8, 1, 9, 2, 10, 3, 11]
  | 2 => [4, 12, 5, 13, 6, 14, 7, 15]
  | _ => []

/-- A DDR5 channel. -/
def chanOf (s : State) (c : Nat) : Chan := tget (fun _ => {}) s.mem.chans c

/-- The channel of a DDR5 address (R127). -/
def ddrChannel (s : State) (a : Nat) : Nat :=
  let l := setChannels s.mem.ddrSet
  (l[(a - ddrBase) / 256 % (max l.length 1)]?).getD 0

/-- A local address lies in a memory tier, below the installed DDR5 capacity once that is known (R58,
R125). -/
def addrExists (s : State) (a : Nat) : Bool :=
  match tierOf a with
  | .stack _ => true
  | .staging _ => true
  | .ddr => !s.mem.ddrChosen || (a - ddrBase < s.mem.ddrGib * 2 ^ 30)
  | _ => false

/-- The Flow die that owns a stack (R115). -/
def stackOwner (k : Nat) : Nat := k / 2

/-- The status with which the units refuse an access to an address, 0 for none: a FAILED stack, owner
or staging die, DDR5 before the choice, a FAILED controller (R118, R125). -/
def unitStatus (s : State) (a : Nat) : Nat :=
  match tierOf a with
  | .stack k =>
    if unitSt s (dieSTK + k) == .failed || unitSt s (stackOwner k) == .failed then stNOTREADY else stOK
  | .staging d => if unitSt s d == .failed then stNOTREADY else stOK
  | .ddr =>
    if !s.mem.ddrChosen then stNOTREADY
    else if unitSt s (dieDMC + ddrChannel s a / 8) == .failed then stNOTREADY else stOK
  | _ => stRANGE

/-- The channel of a DDR5 address has failed at run time (R128). -/
def chanLost (s : State) (a : Nat) : Bool :=
  match tierOf a with
  | .ddr => s.mem.ddrChosen && (chanOf s (ddrChannel s a)).train == 4
  | _ => false

/-- A poisoned granule (R130), by any address in it. -/
def poisoned (s : State) (a : Nat) : Bool := tget (fun _ => false) s.mem.poison (a / 64)

def setPoison (s : State) (a : Nat) (b : Bool) : State :=
  { s with mem := { s.mem with poison := tset (fun _ => false) s.mem.poison (a / 64) b } }

/-- The FRESH bit of a staging granule (R198). -/
def isFresh (s : State) (a : Nat) : Bool := !(tget (fun _ => false) s.mem.unfresh (a / 64))

def setFresh (s : State) (a : Nat) (b : Bool) : State :=
  { s with mem := { s.mem with unfresh := tset (fun _ => false) s.mem.unfresh (a / 64) (!b) } }

/-- The memories are in their canonical form: local memory, poison and FRESH marks, scratch, spare and flash. -/
def Memory.wf (m : Mem) : Bool :=
  tblWf (fun _ => 0#8) m.cells && tblWf (fun _ => false) m.poison && tblWf (fun _ => false) m.unfresh &&
    tblWf (fun _ => 0#8) m.scratch && tblWf (fun _ => 0#8) m.spare && tblWf (fun _ => 0xFF#8) m.flash

/-- One byte of local memory; an unlisted byte reads 0. [DESIGN CHOICE: log 10] -/
def readByte (s : State) (a : Nat) : Byte := tget (fun _ => 0#8) s.mem.cells a

/-- `n` bytes of local memory. -/
def readBytes (s : State) (a n : Nat) : List Byte := treadBytes (fun _ => 0#8) s.mem.cells a n

/-- Bytes stored into local memory, without any check. -/
def storeBytes (s : State) (a : Nat) (bs : List Byte) : State :=
  { s with mem := { s.mem with cells := twriteBytes (fun _ => 0#8) s.mem.cells a bs } }

/-- Traffic of a stack (STK.RD_GIB, STK.WR_GIB). [DEDUCED: log 130] -/
def countTraffic (s : State) (a n : Nat) (write : Bool) : State :=
  match tierOf a with
  | .stack k => { s with mem := { s.mem with
      traffic := tmod (fun _ => 0) s.mem.traffic (if write then 8 + k else k) (· + n) } }
  | _ => s

/-! ## ECC findings (R129, R130) -/

/-- The page and the tier offset that account for an address. -/
def eccPage (s : State) (a : Nat) : Nat × Nat × Nat :=
  match tierOf a with
  | .stack k => (0x20, k, a - k * stackSize)
  | .staging d => (0x14, d, a - stagingBase - d * 0x10000000)
  | _ => (0x21, ddrChannel s a / 8, a - ddrBase)

/-- The counters of a tier page: `ECC_CE`, `ECC_UE`, `UE_ADDR` (low, and high where there is one). -/
def eccRegs (ty : Nat) : Nat × Nat × Nat × Option Nat :=
  match ty with
  | 0x14 => (0x044, 0x048, 0x04C, none)
  | 0x20 => (0x044, 0x048, 0x04C, some 0x050)
  | _ => (0x058, 0x05C, 0x060, some 0x064)

/-- A corrected error: counted, with its interrupt bit. -/
def eccCorrected (s : State) (a : Nat) : State :=
  let (ty, i, _) := eccPage s a
  raiseIrq (bumpReg s (pageKey ty i + (eccRegs ty).1) 1) ty i 0

/-- An uncorrectable granule: counted, its offset stored, Sillage, and the granule poisoned. -/
def eccUncorrectable (s : State) (a : Nat) : State :=
  let (ty, i, o) := eccPage s a
  let (_, ue, lo, hi) := eccRegs ty
  let o := o / 64 * 64
  let k := pageKey ty i
  let s := setRegN (bumpReg s (k + ue) 1) (k + lo) (o % 2 ^ 32)
  let s := match hi with | some h => setRegN s (k + h) (o / 2 ^ 32) | none => s
  raiseIrq (setPoison s a true) ty i 1

/-- The findings of one access, for the granules in [a, a + n). -/
def applyEcc (s : State) (ecc : List EccHit) (a n : Nat) : State :=
  ecc.foldl (fun s h =>
    if a / 64 * 64 ≤ h.addr && h.addr < a + n && addrExists s h.addr then
      if h.bad then eccUncorrectable s h.addr else eccCorrected s h.addr
    else s) s

/-! ## Granule accesses -/

/-- The status of a read of the granule at `a`: the units, then a lost channel or poison. -/
def granuleReadStatus (s : State) (a : Nat) : Nat :=
  if unitStatus s a != stOK then unitStatus s a
  else if chanLost s a || poisoned s a then stCHECK else stOK

/-- The first failing status among the granules of [a, a + n). -/
def rangeReadStatus (s : State) (a n : Nat) : Nat :=
  let g := if n == 0 then 0 else (a + n - 1) / 64 - a / 64 + 1
  (List.range g).foldl (fun st i => if st == stOK then granuleReadStatus s ((a / 64 + i) * 64) else st) stOK

/-- A checked read: status and bytes (zeros unless OK), with the ECC findings of the range. -/
def readMem (s : State) (ecc : List EccHit) (a n : Nat) : Nat × List Byte × State :=
  let s := applyEcc s ecc a n
  let st := rangeReadStatus s a n
  if st == stOK then (stOK, readBytes s a n, countTraffic s a n false) else (st, zeros n, s)

/-- A write of bytes within one granule: refused by the units and by a lost channel; a partial write to
a poisoned granule is CHECK and leaves it poisoned; a whole write clears the poison. The granule is
then not FRESH (R128, R130, R198). -/
def writeGranule (s : State) (a : Nat) (bs : List Byte) : Nat × State :=
  if unitStatus s a != stOK then (unitStatus s a, s)
  else if chanLost s a then (stCHECK, s)
  else
    let whole := a % 64 == 0 && bs.length == 64
    if poisoned s a && !whole then (stCHECK, s)
    else
      let s := if whole then setPoison s a false else s
      let s := storeBytes s a bs
      let s := match tierOf a with | .staging _ => setFresh s a false | _ => s
      (stOK, countTraffic s a bs.length true)

/-- A checked write of any length, granule by granule: the first failing status; the other granules
are written. `fuel` bounds the number of granules. -/
def writeMemN : Nat → State → Nat → List Byte → Nat × State
  | 0, s, _, _ => (stOK, s)
  | fuel + 1, s, a, bs =>
    if bs.isEmpty then (stOK, s)
    else
      let n := 64 - a % 64
      let (st, s) := writeGranule s a (bs.take n)
      let (st', s) := writeMemN fuel s (a + n) (bs.drop n)
      (if st == stOK then st' else st, s)

/-- A checked write of any length. -/
def writeMem (s : State) (a : Nat) (bs : List Byte) : Nat × State :=
  writeMemN (bs.length / 64 + 2) s a bs

/-! ## Sleeping units (R117) -/

/-- The units that an access from Flow die `d` to an address needs and that sleep. -/
def sleepers (s : State) (d : Nat) (a : Nat) : List Nat :=
  let hub (h : Nat) : List Nat := if unitSt s (dieHUB + h) == .off ||
      unitSt s (dieHUB + h) == .powering || unitSt s (dieHUB + h) == .waking then [dieHUB + h] else []
  let die (e : Nat) : List Nat := if isOn s e || unitSt s e == .failed then [] else [e]
  match tierOf a with
  | .stack k => let e := stackOwner k; if e == d then die e else hub d ++ hub e ++ die e
  | .staging e => if e == d then die e else hub d ++ hub e ++ die e
  | .ddr =>
    let m := ddrChannel s a / 8
    hub d ++ (if (dmcHubs m).contains d then [] else hub (2 * m)) ++
      (if unitSt s (dieDMC + m) == .retain then [dieDMC + m] else [])
  | _ => []

/-- Wake a sleeping unit that an access needs. [DEDUCED: log 50] -/
def wakeFor (s : State) (d u : Nat) : State :=
  if u < 4 then wakeDie s u
  else if dieHUB ≤ u && u < dieHUB + 4 then wakeHub s (u - dieHUB)
  else if u == dieDMC || u == dieDMC + 1 then
    wakeHub s (if (dmcHubs (u - dieDMC)).contains d then d else 2 * (u - dieDMC))
  else s

/-- Wake all of them. -/
def wakeAll (s : State) (d : Nat) (us : List Nat) : State := us.foldl (fun s u => wakeFor s d u) s

/-! ## Admitted regions (R139 to R144) -/

/-- The regions of a domain; none when it is not admitted. -/
def domainOf (s : State) (dom : Nat) : Option (List Region) := tget (fun _ => none) s.mem.domains dom

/-- A range lies wholly within one region admitted to the domain. -/
def inRegion (s : State) (dom a n : Nat) : Bool :=
  match domainOf s dom with
  | some rs => rs.any fun r => r.base ≤ a && a + n ≤ r.base + r.size
  | none => false

end Sys2Proof.Machine
end

