-- ==== Sys2Proof/Machine/LinkOps.lean ====
section
/-!
DEFINITION. Board links as the other families use them (R268 to R285): the division of links over
peers, credits and partitions, sending a message, routes, and outstanding transactions.
-/

namespace Sys2Proof.Machine

/-! ## Link division (R276, R277) -/

def linkOf (s : State) (n : Nat) : Link := tget (fun _ => {}) s.board.links n

def setLink (s : State) (n : Nat) (x : Link) : State :=
  { s with board := { s.board with links := tset (fun _ => {}) s.board.links n x } }

/-- Links per peer under the even split. -/
def evenLinks (size : Nat) : Nat := 64 / (size - 1)

/-- Links to the partner and to each other peer under the partner-weighted plan. -/
def weighted (size : Nat) : Nat × Nat :=
  match size with
  | 4 => (22, 21) | 8 => (16, 8) | _ => (8, 4)

/-- The offset of position `q` from position `p`. -/
def offsetOf (size p q : Nat) : Nat := (q + size - p) % size

/-- The rank of offset `k` among 1 to S - 1 with the partner's offset left out. -/
def rankOf (partnerOff k : Nat) : Nat := if k < partnerOff then k - 1 else k - 2

/-- The offset of rank `m`. -/
def offsetAtRank (partnerOff m : Nat) : Nat := if m + 1 < partnerOff then m + 1 else m + 2

/-- The record of the link table in force under plan 0b10: (peer, link) for link n, none for spare. -/
def linkTableEntry (record : List Byte) (n : Nat) : Option (Nat × Nat) :=
  let p := leAt record (8 + 2 * n) 1
  if p == 0xFF then none else some (p, leAt record (9 + 2 * n) 1)

/-- The peer position and the peer's link that a plan expects on link `n`; none for a spare link. -/
def planPeer (size plan pos : Nat) (record : List Byte) (n : Nat) : Option (Nat × Nat) :=
  if plan == 2 then linkTableEntry record n
  else if plan == 0 || size == 2 then
    let l := evenLinks size
    if n < l * (size - 1) then
      let k := n / l + 1
      some ((pos + k) % size, (size - k - 1) * l + n % l)
    else none
  else
    let (lp, l) := weighted size
    let partner := if pos % 2 == 0 then pos + 1 else pos - 1
    if n < lp then some (partner, n)
    else
      let m := (n - lp) / l
      if m < size - 2 then
        let q := (pos + offsetAtRank (offsetOf size pos partner) m) % size
        let qPartner := if q % 2 == 0 then q + 1 else q - 1
        some (q, lp + rankOf (offsetOf size q qPartner) (offsetOf size q pos) * l + (n - lp) % l)
      else none

/-! ## Partitions and credits (R280 to R282) -/

/-- `PART_CFG` of entry `e` (partition 1 + e). [DEDUCED: log 88] -/
def partOf (l : Link) (e : Nat) : Word := tget (fun _ => 0#32) l.parts e

/-- The slots of a partition at this receiver: 0 steering, 1 to 16 domains, 17 shared. -/
def partSlots (l : Link) (p : Nat) : Nat :=
  let dom (e : Nat) : Nat := if bitOf (partOf l e) 31 then fld (partOf l e) 16 12 else 0
  if p == 0 then 64
  else if p ≤ 16 then dom (p - 1)
  else 2048 - 64 - ((List.range 16).map dom).sum

/-- The partition of a domain on a link: the first valid entry that names it. [DEDUCED: log 88] -/
def partIndex (l : Link) (domain : Nat) : Option Nat :=
  ((List.range 16).find? fun e => bitOf (partOf l e) 31 && fld (partOf l e) 0 12 == domain).map (· + 1)

/-- The size of a peer's partition: before the peer reports, that of a receiver without domain partitions. -/
def sizeDefault (p : Nat) : Nat := if p == 0 then 64 else if p == 17 then 1984 else 0

/-- Credits held at the peer for a partition, all of them before the first message. -/
def creditDefault (p : Nat) : Int := Int.ofNat (sizeDefault p)

def creditsOf (l : Link) (p : Nat) : Int := tget creditDefault l.credits p

/-- The data slots of a message. [DEDUCED: log 87] -/
def msgSlots (m : OutMsg) : Nat := (m.hdr.data.length + 63) / 64

/-- The credits of a message: N + 1. A steering message of 64 data slots takes the whole steering
partition, which holds 64. [DEDUCED: log 87] -/
def msgNeed (m : OutMsg) : Nat := if m.hdr.cls == 1#8 then min (msgSlots m + 1) 64 else msgSlots m + 1

/-- The partition from which a message draws its credits, if one has them (R281). -/
def drawFrom (l : Link) (m : OutMsg) : Option Nat :=
  let has (p : Nat) : Bool := Int.ofNat (msgNeed m) ≤ creditsOf l p
  if m.hdr.cls == 1#8 then (if has 0 then some 0 else none)
  else
    match partIndex l (m.hdr.domain.toNat % 4096) with
    | some p => if has p then some p else if has 17 then some 17 else none
    | none => if has 17 then some 17 else none

/-- Blocks that a message fills: 20 slots each (R266). -/
def msgBlocks (m : OutMsg) : Nat := (msgSlots m + 1 + 19) / 20

/-- CREDIT, REACH, INIT and IDLE need no credit. -/
def needsCredit (k : Nat) : Bool := [1, 2, 3, 4, 5, 6, 10].contains k

/-- The blocks that a message fills enter the retry buffer; the first one names it. -/
def retryAdd : Nat → Link → Option OutMsg → Link
  | 0, l, _ => l
  | n + 1, l, m =>
    retryAdd n { l with bseq := l.bseq + 1#8, retry := l.retry ++ [{ bseq := l.bseq, msg := m }] } none

/-- The link with a message's credits drawn; a turn of the shared pool moves on (R281). -/
def drawCredits (l : Link) (m : OutMsg) : Link :=
  if !needsCredit m.kind then l
  else
    match drawFrom l m with
    | some p =>
      let l := { l with credits := tmod creditDefault l.credits p (· - Int.ofNat (msgNeed m)) }
      if p == 17 then { l with turn := m.hdr.domain.toNat % 4096 } else l
    | none => l

/-- Put one message on the wire of an UP link: credits drawn, blocks numbered and kept. -/
def emitMsg (s : State) (n : Nat) (m : OutMsg) : State :=
  let l := retryAdd (msgBlocks m) (drawCredits (linkOf s n) m) (some m)
  send (setLink s n { l with txBytes := l.txBytes + 1280 * msgBlocks m }) (.link n m)

/-- A message can leave now: the link is UP, the buffer has room and credits are there. [DEDUCED: log 138] -/
def canEmit (l : Link) (m : OutMsg) : Bool :=
  l.st == .up && l.retry.length + msgBlocks m ≤ 51 && (!needsCredit m.kind || (drawFrom l m).isSome)

/-- Two messages keep their order on a link: one class and one domain (R281). -/
def sameStream (a b : OutMsg) : Bool := a.hdr.domain == b.hdr.domain && a.hdr.cls == b.hdr.cls

/-- Send a message on a link: at once, or in the link's waiting messages, of which those of one domain
leave in order (R281). Steering messages go ahead of flow messages (R283). [DEDUCED: log 138] -/
def sendMsg (s : State) (n : Nat) (m : OutMsg) : State :=
  let l := linkOf s n
  if canEmit l m && (l.txq.all fun x => !sameStream x m) then emitMsg s n m
  else setLink s n { l with txq := l.txq ++ [m] }

/-- How far the domain of a message lies after the one last served from the shared pool. -/
def turnDist (l : Link) (m : OutMsg) : Nat := (m.hdr.domain.toNat % 4096 + 4095 - l.turn % 4096) % 4096

/-- The waiting message that leaves next, of those that are the first of their stream and have credits:
steering, then one of a domain partition, then the domain whose turn on the shared pool it is. -/
def firstReady (l : Link) : Option Nat :=
  let ok (i : Nat) : Bool :=
    match l.txq[i]? with
    | some m => canEmit l m && ((l.txq.take i).all fun x => !sameStream x m)
    | none => false
  let ready := (List.range l.txq.length).filter ok
  let pick (f : OutMsg → Bool) : Option Nat := ready.find? fun i => (l.txq[i]?.map f).getD false
  let dist (i : Nat) : Nat := ((l.txq[i]?).map (turnDist l)).getD 0
  match pick fun m => m.hdr.cls == 1#8 with
  | some i => some i
  | none =>
    match pick fun m => !needsCredit m.kind || drawFrom l m != some 17 with
    | some i => some i
    | none => ready.foldl (fun b i => match b with | some j => if dist i < dist j then some i else b | none => some i) none

/-- Send the waiting messages that may leave. [DEDUCED: log 138] -/
def flushTxq : Nat → State → Nat → State
  | 0, s, _ => s
  | fuel + 1, s, n =>
    let l := linkOf s n
    match firstReady l with
    | none => s
    | some i =>
      match l.txq[i]? with
      | none => s
      | some m => flushTxq fuel (emitMsg (setLink s n { l with txq := l.txq.eraseIdx i }) n m) n

def flushLink (s : State) (n : Nat) : State := flushTxq (linkOf s n).txq.length s n

/-! ## Routes (R284, R422) -/

/-- Links that are UP to a position. -/
def upLinks (s : State) (p : Nat) : List Nat :=
  (List.range 64).filter fun n => let l := linkOf s n; l.st == .up && l.peerPos == p

/-- `XBR.REACH`: positions with an UP link. -/
def reachMask (s : State) : Nat :=
  (List.range 16).foldl (fun m p => if (upLinks s p).isEmpty then m else m + 2 ^ p) 0

/-- What a peer last reported. -/
def peerReach (s : State) (q : Nat) : BitVec 17 := tget (fun _ => 0#17) s.board.peerReach q

/-- A direct peer with transit enabled that reports P. -/
def canTransit (s : State) (q p : Nat) : Bool :=
  (reachMask s).testBit q && (peerReach s q).getLsbD 16 && (peerReach s q).getLsbD p

/-- ROUTE of a peer: VIA in bits 3:0 and AUTO in bit 4, 0x1F after reset. -/
def routeCfg (s : State) (p : Nat) : Nat := tget (fun _ => 0x1F) s.board.routeCfg p

/-- A route to a position, as a code: 0 none, 1 local, 2 direct, 16 + q via q. -/
def routeOf (s : State) (p : Nat) : Nat :=
  let via := routeCfg s p % 16
  if p == ownPos s then 1
  else if (reachMask s).testBit p then 2
  else if via != 0xF && canTransit s via p then 16 + via
  else if (routeCfg s p).testBit 4 then
    match (List.range 16).find? fun q => q != ownPos s && canTransit s q p with
    | some q => 16 + q
    | none => 0
  else 0

/-- The position is pending: not reached and the first 1,000 ms not over (R422). -/
def posPending (s : State) (p : Nat) : Bool := !s.board.late && !(s.board.reached.getLsbD p)

/-- The link that a message to a position takes, the links of a route in turn. -/
def pickLink (s : State) (p turn : Nat) : Option Nat :=
  let hop := match routeOf s p with | 2 => some p | 0 => none | 1 => none | r => some (r - 16)
  match hop with
  | none => none
  | some h => let ls := upLinks s h; ls[turn % (max ls.length 1)]?

/-- A fresh transaction number. -/
def takeTag (s : State) : BitVec 16 × State :=
  (s.board.nextTag, { s with board := { s.board with nextTag := s.board.nextTag + 1#16 } })

/-- Start a transaction: send it on a link of the route; hold it while the position is pending or the
route drains. The flag tells that no route remains (R137, R284, R422). -/
def startTxn (s : State) (x : Txn) : Bool × State :=
  let put (s : State) (l : Option Nat) : State :=
    { s with board := { s.board with txns := s.board.txns ++ [{ x with link := l }] } }
  if tget (fun _ => false) s.board.draining x.pos || (routeOf s x.pos == 0 && posPending s x.pos) then
    (false, put s none)
  else
    match pickLink s x.pos x.tag.toNat with
    | some n =>
      let s := { s with board := { s.board with
        lastRoute := tset (fun _ => 0) s.board.lastRoute x.pos (routeOf s x.pos) } }
      (false, sendMsg (put s (some n)) n x.msg)
    | none => (true, s)

/-- A header of this module's own messages. -/
def ownMsg (s : State) (kind : Nat) (domain : Nat) (tag : BitVec 16) (addr : Nat) : OutMsg :=
  { kind := kind, hdr := { cls := 0#8, domain := BitVec.ofNat 16 domain, src := BitVec.ofNat 8 (ownPos s), tag := tag, address := BitVec.ofNat 64 addr, status := 0#16, count := 0#16, value := 0#32, body := [], data := [] } }

/-- An answer to a message, sent towards its originator: on the arrival link when that is UP, else on
a link of the route (R269). [DEDUCED: log 21] -/
def answerMsg (s : State) (arrival : Nat) (m : OutMsg) : State :=
  if (linkOf s arrival).st == .up then sendMsg s arrival m
  else
    match pickLink s (m.hdr.address.toNat / 2 ^ 44 % 16) m.hdr.tag.toNat with
    | some n => sendMsg s n m
    | none => s

end Sys2Proof.Machine
end

