-- ==== Sys2Proof/Machine/FlowOps.lean ====
section
/-!
DEFINITION. What every flow descriptor shares: the header fields (R148, R149), token operations (R154
to R160), engines, receive windows, and completion (R159, R166, R181, R182).
-/

namespace Sys2Proof.Machine

/-! ## Header fields (R148, R149) -/

def dType (d : Desc) : Nat := leAt d.raw 0 1
def dFlags (d : Desc) : Nat := leAt d.raw 1 1
def dDomain (d : Desc) : Nat := leAt d.raw 2 2 % 4096
def dWaitTok (d : Desc) : Nat := leAt d.raw 4 2 % 4096
def dSigTok (d : Desc) : Nat := leAt d.raw 6 2 % 4096
def dSigPos (d : Desc) : Nat := leAt d.raw 6 2 / 4096
def dThr (d : Desc) : Nat := leAt d.raw 8 4
def dInc (d : Desc) : Nat := leAt d.raw 12 4
def dTag (d : Desc) : Nat := leAt d.raw 16 4
def dWaits (d : Desc) : Bool := (dFlags d).testBit 0
def dSigs (d : Desc) : Bool := (dFlags d).testBit 1
def dRemote (d : Desc) : Bool := (dFlags d).testBit 2
def dOrdered (d : Desc) : Bool := (dFlags d).testBit 3
def dCpl (d : Desc) : Bool := (dFlags d).testBit 4
def dIrq (d : Desc) : Bool := (dFlags d).testBit 5
def dAlt (d : Desc) : Bool := (dFlags d).testBit 6

abbrev tyCOPY : Nat := 0x01
abbrev tyRECV : Nat := 0x02
abbrev tyREDUCE : Nat := 0x03
abbrev tyEMIT : Nat := 0x04
abbrev tyATOMIZE : Nat := 0x05
abbrev tyOPTIM : Nat := 0x06
abbrev tyPLAN : Nat := 0x07
abbrev tyBRANCH : Nat := 0x08
abbrev tyTOKEN : Nat := 0x09
abbrev tyFENCE : Nat := 0x0A
abbrev tyACCORD : Nat := 0x0B

/-- The signal goes to another module (R157: the own position makes it local). [DEDUCED: log 101] -/
def sigRemote (s : State) (d : Desc) : Bool := dSigs d && dRemote d && dSigPos d != ownPos s

def sigLocal (s : State) (d : Desc) : Bool := dSigs d && !sigRemote s d

/-! ## Tokens (R154 to R157) -/

def tokOf (s : State) (t : Nat) : Token := tget (fun _ => {}) s.flow.tokens t

def setTok (s : State) (t : Nat) (x : Token) : State :=
  { s with flow := { s.flow with tokens := tset (fun _ => {}) s.flow.tokens t x } }

/-- The Flow die of a token's slice. -/
def tokDie (t : Nat) : Nat := t / 1024

/-- A signal reaches a die that is not ON: the die is woken (R45). [DEDUCED: log 71] -/
def signalWake (s : State) (d : Nat) : State := if isOn s d then s else wakeDie s d

/-- ADD v: saturating, with TOK_OVF (R155). -/
def tokAdd (s : State) (t v : Nat) : State :=
  let x := tokOf s t
  let past := 0xFFFFFFFF < x.value.toNat + v
  let s := setTok s t { x with value := if past then 0xFFFFFFFF#32 else x.value + toWord v }
  let s := if past then raiseIrq s 0x10 (tokDie t) 2 else s
  signalWake s (tokDie t)

/-- SET v: poison and source mask cleared (R155). -/
def tokSet (s : State) (t v : Nat) : State :=
  signalWake (setTok s t { tokOf s t with value := toWord v, poison := false, src := 0#16 }) (tokDie t)

/-- Poison: the bit is set, the value stays (R155). -/
def tokPoison (s : State) (t : Nat) : State :=
  signalWake (setTok s t { tokOf s t with poison := true }) (tokDie t)

/-- A wait with a threshold is satisfied (R155). -/
def waitMet (s : State) (t thr : Nat) : Bool := !(tokOf s t).poison && thr ≤ (tokOf s t).value.toNat

/-- A token is bound to a domain. -/
def tokBound (s : State) (t dom : Nat) : Bool := (tokOf s t).bound == some (BitVec.ofNat 12 dom)

/-- A descriptor's ADD, SET or poison of a local token: NOTREADY on a FAILED die, nothing on a token
that is no longer bound to the domain (R185, R187). -/
def tokLocal (s : State) (t dom : Nat) (f : State → Nat → State) : Nat × State :=
  if unitSt s (tokDie t) == .failed then (stNOTREADY, s)
  else if tokBound s t dom then (stOK, f s t) else (stAUTH, s)

/-- Fetched descriptors of the module that wait on a token. -/
def waiters (s : State) (t : Nat) : List Desc :=
  s.flow.queues.flatMap fun q => q.2.descs.filter fun d =>
    d.stage == .waiting && dWaits d && dWaitTok d == t

/-! ## Finding and replacing a fetched descriptor -/

def findDesc (s : State) (q : Nat) (idx : Word) : Option Desc :=
  (queueOf s q).descs.find? fun d => d.idx == idx

def setDesc (s : State) (q : Nat) (d : Desc) : State :=
  let x := queueOf s q
  setQueue s q { x with descs := x.descs.map fun e => if e.idx == d.idx then d else e }

/-- The released descriptor of a type, by queue and fetch number. -/
def running (s : State) (q : Nat) (idx : Word) (ty : Nat) : Option Desc :=
  match findDesc s q idx with
  | some d => if d.stage == .released && dType d == ty && !d.ran then some d else none
  | none => none

/-- What a released descriptor of a type does; without one nothing happens. -/
def onRun (s : State) (q : Fin 64) (idx : Word) (ty : Nat) (f : State → Desc → State) : State :=
  match running s q.val idx ty with
  | some d => f s d
  | none => s

/-! ## Engines (R150, R164) -/

/-- The page type of a descriptor type's engine, and its engines on a die; none for the scheduler. -/
def enginePage (ty : Nat) : Option (Nat × Nat) :=
  if ty == tyCOPY then some (0x13, 8)
  else if ty == tyREDUCE || ty == tyEMIT then some (0x11, 32)
  else if ty == tyATOMIZE then some (0x16, 1)
  else if ty == tyOPTIM then some (0x12, 16)
  else if ty == tyPLAN then some (0x47, 1)
  else none

/-- The released descriptors of a die with their queues. -/
def releasedOn (s : State) (die : Nat) : List (Nat × Desc) :=
  s.flow.queues.flatMap fun q =>
    if q.1 / 16 == die then (q.2.descs.filter fun d => d.stage == .released).map fun d => (q.1, d) else []

/-- The descriptor that an engine of a page type runs, with its queue. -/
def engineJob (s : State) (pg die e : Nat) : Option (Nat × Desc) :=
  (releasedOn s die).find? fun x =>
    (enginePage (dType x.2)).map Prod.fst == some pg && x.2.engine == some e

def engOf (s : State) (pg inst : Nat) : EngSt := tget (fun _ => {}) s.eng (256 * pg + inst)

def setEng (s : State) (pg inst : Nat) (x : EngSt) : State :=
  { s with eng := tset (fun _ => {}) s.eng (256 * pg + inst) x }

/-- Engines of a page type on a die. -/
def enginesPer (pg : Nat) : Nat := match pg with | 0x11 => 32 | 0x12 => 16 | 0x13 => 8 | _ => 1

/-- A mirrored OPTIM holds copy engine `e` of the die (R232). -/
def heldByMirror (s : State) (die e : Nat) : Bool := (releasedOn s die).any fun x => x.2.copyEng == some e

/-- An engine may take a descriptor: enabled, not held, not testing or FAULTY, not in a soft reset,
and without work. -/
def engineFree (s : State) (pg die e : Nat) : Bool :=
  let i := enginesPer pg * die + e
  let x := engOf s pg i
  enOf s pg i && !holdOf s pg i && !x.testing && !x.faulty &&
    !(tget (fun _ => false) s.hst.srst (pageKey pg i)) && (engineJob s pg die e).isNone &&
    !(pg == 0x13 && heldByMirror s die e)

/-- The lowest free engine. -/
def freeEngine (s : State) (pg die : Nat) : Option Nat :=
  (List.range (enginesPer pg)).find? fun e => engineFree s pg die e

/-- An engine is ON; the others are IDLE (R43). -/
def setEngOn (s : State) (pg inst : Nat) (b : Bool) : State :=
  { s with pwr := { s.pwr with engOn := tset (fun _ => false) s.pwr.engOn (256 * pg + inst) b } }

/-! ## Receive windows (R169, R170) -/

def closeWindow (s : State) (q : Nat) (idx : Word) : State :=
  { s with flow := { s.flow with windows := s.flow.windows.filter fun w => !(w.queue == q && w.idx == idx) } }

def windowOf (s : State) (q : Nat) (idx : Word) : Option Window :=
  s.flow.windows.find? fun w => w.queue == q && w.idx == idx

/-- Merge a run [lo, hi) into sorted disjoint runs. -/
def addRun : List (Nat × Nat) → Nat × Nat → List (Nat × Nat)
  | [], r => [r]
  | (a, b) :: t, (lo, hi) =>
    if hi < a then (lo, hi) :: (a, b) :: t
    else if b < lo then (a, b) :: addRun t (lo, hi)
    else addRun t (min a lo, max b hi)

/-- Bytes placed in runs. -/
def runBytes (l : List (Nat × Nat)) : Nat := (l.map fun r => r.2 - r.1).sum

/-- Length of the run that starts at 0. -/
def runPrefix (l : List (Nat × Nat)) : Nat := match l with | (0, b) :: _ => b | _ => 0

/-- Chunks wholly placed from the start of a window (R170). -/
def wholeChunks (w : Window) : Nat :=
  let p := runPrefix w.placed
  if w.len ≤ p then (w.len + 2 ^ w.shift - 1) / 2 ^ w.shift else p / 2 ^ w.shift

/-! ## Completion (R159, R166, R181, R182) -/

/-- `SCH.PAGE_STAT[7:0]` of a die. -/
def schState (s : State) (die : Nat) : Nat := if isOn s die then 0x10 else pcode (unitSt s die)

/-- Write a completion record; a record that cannot be written is lost (R181, R431). -/
def writeRecord (s : State) (q : Nat) (st ty eng tag : Nat) (idx : Word) (done start flags det : Nat) : State :=
  let x := queueOf s q
  let rec_ := leBytes 2 st ++ leBytes 1 ty ++ leBytes 1 eng ++ leBytes 4 tag ++ leBytes 4 idx.toNat ++
    leBytes 4 done ++ leBytes 4 start ++ leBytes 4 (s.ns.toNat % 2 ^ 32) ++ leBytes 2 q ++
    leBytes 1 flags ++ leBytes 1 det ++ leBytes 4 0
  if x.size == 0 then s else (writeMem s (x.cq + 32 * (idx.toNat % x.size)) rec_).2

/-- A queue that has nothing left becomes IDLE (R147). -/
def queueSettle (s : State) (q : Nat) : State :=
  let x := queueOf s q
  if x.state == .running && x.head == x.tail && x.descs.isEmpty then setQueue s q { x with state := .idle }
  else s

/-- Record a failed completion in the queue's and the page's registers, and halt the queue when it
says so (R182). -/
def noteFailure (s : State) (q st ty det tag : Nat) (idx : Word) (halt : Bool) : State :=
  let die := q / 16
  let x := queueOf s q
  let s := setQueue s q { x with
    lastErr := toWord (st + ty * 2 ^ 16 + det * 2 ^ 24)
    lastIdx := idx
    lastTag := toWord tag
    state := if halt && (x.state == .running || x.state == .idle) then .halted else x.state }
  let s := setRegN s (pageKey 0x10 die + 0x01C) (det + schState s die * 2 ^ 8 + st * 2 ^ 16)
  let s := if st == stABORTED then raiseIrq (bumpReg s (Reg.at Reg.SCH_CNT_ABORT die) 1) 0x10 die 1 else s
  let s := if st == stDEADLINE then raiseIrq s 0x10 die 4 else s
  if halt && (queueOf s q).state == .halted && x.state != .halted then raiseIrqArgs s 0x10 die 0 st [] else s

/-- The BODY byte 24 that marks a REGWR to TOK_SIGNAL as a poison (log 20). [DESIGN CHOICE: log 20] -/
def poisonBody : List Byte := [1#8]

/-- Send a remote token write of a descriptor: REGWR of a register of the peer's SCH page (R157). -/
def sendRegwr (s : State) (q : Nat) (idx : Word) (kind : TxnKind) (pos dom reg tok value dest : Nat) :
    Bool × State :=
  let (tag, s) := takeTag s
  let addr := pos * 2 ^ 44 + windowBase + pageKey 0x10 (tok / 1024) + reg
  let m := ownMsg s 0x05 dom tag addr
  let b := if kind == .poison then poisonBody else []
  let m := { m with hdr := { m.hdr with value := toWord value, body := b } }
  startTxn s
    { tag := tag, kind := kind, pos := pos, queue := q, idx := idx, dest := dest, local_ := 0, bytes := 0,
      msg := m, link := none }

/-- Poison a descriptor's header signal token, local or remote (R159). [DESIGN CHOICE: log 20] -/
def poisonSig (s : State) (q : Nat) (d : Desc) : State :=
  if sigRemote s d then
    (sendRegwr s q d.idx .poison (dSigPos d) (dDomain d) 0x040 (dSigTok d) (dSigTok d) 0).2
  else if sigLocal s d then (tokLocal s (dSigTok d) (dDomain d) tokPoison).2
  else s

/-- Poison the body tokens of a descriptor that failed: the CHUNK_TOK of a RECV, and the tokens of the
ATOMIZE destinations that it did not reach (R159). DONE_TOK follows R204 in the reduction family. -/
def poisonBodyToks (s : State) (q : Nat) (d : Desc) : State :=
  if dType d == tyRECV then
    let t := leAt d.raw 52 2
    if t.testBit 15 then (tokLocal s (t % 4096) (dDomain d) tokPoison).2 else s
  else if dType d == tyATOMIZE then
    let failed := if d.stage == .waiting then List.range (leAt d.raw 36 2) else d.destFail
    failed.foldl (fun s i =>
      let e := slice d.dlist (16 * i) 16
      if leAt e 0 1 == 1 && (leAt e 1 1).testBit 0 then
        let a := leAt e 8 8
        let t := leAt e 2 2 % 4096
        let p := a / 2 ^ 44 % 16
        if p == ownPos s then (tokLocal s t (dDomain d) tokPoison).2
        else (sendRegwr s q d.idx .poison p (dDomain d) 0x040 t t i).2
      else s) s
  else s

/-- The descriptor's own page accounts for a completion. -/
def enginePageDone (s : State) (q : Nat) (d : Desc) (st : Nat) : State :=
  match enginePage (dType d), d.engine with
  | some (pg, n), some e =>
    let i := n * (q / 16) + e
    let cnt := if pg == 0x12 then 0x058 else 0x050
    let s := wrapReg s (pageKey pg i + cnt) 1
    if st == stOK then s else raiseIrqArgs s pg i 0 st []
  | _, _ => s

/-- Remove a completed descriptor from its queue and count it. -/
def dropDesc (s : State) (q : Nat) (idx : Word) : State :=
  let x := queueOf s q
  queueSettle (setQueue s q { x with
    descs := x.descs.filter fun e => e.idx != idx, done := x.done + 1#32 }) q

/-- The record of a descriptor; a descriptor that was never released has no release time.
[DESIGN CHOICE: log 22; DEDUCED: log 51] -/
def recordOf (s : State) (q : Nat) (d : Desc) (st det flags : Nat) : State :=
  let (f, s) := if d.stage == .released then (d.start.toNat, s) else freeNat 32 s
  writeRecord s q st (dType d) (d.engine.getD 0xFF) (dTag d) d.idx d.done f
    ((if d.waitPois then 1 else flags) + 2 * b2n d.woke + 4 * b2n d.remote) det

/-- Complete a descriptor with a status other than OK. `poison` is off for an ALT descriptor that was
not needed (R161); `waitPoisoned` is the record's FLAGS bit 0. [DESIGN CHOICE: log 22] -/
def failDesc (s : State) (q : Nat) (d : Desc) (st det : Nat) (poison waitPoisoned : Bool) : State :=
  let s := recordOf s q d st det (b2n waitPoisoned)
  let s := enginePageDone s q d st
  let s := noteFailure s q st (dType d) det (dTag d) d.idx (queueOf s q).errStop
  let s := if poison then poisonBodyToks (poisonSig s q d) q d else s
  let s := if dType d == tyRECV then closeWindow s q d.idx else s
  let s := if dIrq d then raiseIrq s 0x10 (q / 16) 5 else s
  dropDesc s q d.idx

/-- The last part of a completion with OK, once remote signals are acknowledged. -/
def endOk (s : State) (q : Nat) (d : Desc) : State :=
  let s := enginePageDone s q d stOK
  let s := if dIrq d then raiseIrq s 0x10 (q / 16) 5 else s
  dropDesc s q d.idx

/-- Complete a descriptor whose work is done: its record when CPL asks for one, then its local signal,
then its remote signal, after whose acknowledgement it ends (R157, R166). -/
def finishOk (s : State) (q : Nat) (d : Desc) : State :=
  let s := if dCpl d then recordOf s q d stOK 0 0 else s
  let s := if dType d == tyRECV then closeWindow s q d.idx else s
  if sigRemote s d then
    let (none?, s) := sendRegwr s q d.idx .signal (dSigPos d) (dDomain d) 0x040 (dSigTok d)
      (dSigTok d + dInc d * 2 ^ 12) 0
    let d := { d with ran := true, remote := true, outstanding := 1 }
    if none? then failDesc (setDesc s q d) q d stLINK 0 true false else setDesc s q d
  else
    let s := if dSigs d then (tokLocal s (dSigTok d) (dDomain d) (fun s t => tokAdd s t (dInc d))).2 else s
    endOk s q d

/-- Complete with a status: the one entry point of the engines. -/
def finish (s : State) (q : Nat) (d : Desc) (st det : Nat) : State :=
  if st == stOK then finishOk s q d else failDesc s q d st det true false

end Sys2Proof.Machine
end

