-- ==== Sys2Proof/Machine/QueueOps.lean ====
section
/-!
DEFINITION. Queue commands (R146, R147) and the data movement that the scheduler, the copy engines and
the ingress do for COPY, RECV, TOKEN and FENCE (R168 to R170, R178, R179).
-/

namespace Sys2Proof.Machine

/-! ## TAIL, STOP, RESUME, FLUSH -/

/-- Move a queue's TAIL: STATE when unbound or FAILED, RANGE beyond SIZE; the die is woken (R146). [DEDUCED: log 71] -/
def tailMove (s : State) (q : Nat) (tail : Word) : Nat × State :=
  let x := queueOf s q
  if x.state == .unbound || x.state == .failed then (stSTATE, s)
  else if x.size < (tail - x.head).toNat then (stRANGE, s)
  else
    let st := if x.state == .idle then .running else x.state
    let w := if isOn s (q / 16) then x.wokeLeft else (tail - x.head).toNat
    let s := queueSettle (setQueue s q { x with tail := tail, state := st, wokeLeft := w }) q
    (stOK, signalWake s (q / 16))

/-- `Qn_CTL.STOP` (R147). -/
def queueStop (s : State) (q : Nat) : Nat × State :=
  let x := queueOf s q
  if x.state == .idle || x.state == .running then (stOK, setQueue s q { x with state := .stopped })
  else (stSTATE, s)

/-- `Qn_CTL.RESUME` (R147). -/
def queueResume (s : State) (q : Nat) : Nat × State :=
  let x := queueOf s q
  if x.state == .halted || x.state == .stopped then
    (stOK, queueSettle (setQueue s q { x with state := .running }) q)
  else (stSTATE, s)

/-- The local address of a queue's descriptor slot. -/
def slotAddr (x : Queue) (i : Word) : Nat := x.ring + 64 * (i.toNat % max x.size 1)

/-- Complete the slots from HEAD to TAIL that were not fetched: ABORTED, their fields read from the
ring (R147). A slot that cannot be read gives a record of TYPE 0, as R431 does. -/
def flushSlots : Nat → State → Nat → State
  | 0, s, _ => s
  | n + 1, s, q =>
    let x := queueOf s q
    if x.head == x.tail then s
    else
      let (st, raw, s) := readMem s [] (slotAddr x x.head) 64
      let d : Desc := { raw := if st == stOK then raw else zeros 64, idx := x.head }
      let s := setQueue s q { x with head := x.head + 1#32, descs := x.descs ++ [d] }
      flushSlots n (failDesc s q d stABORTED 0 true false) q

/-- `Qn_CTL.FLUSH` (R147). -/
def queueFlush (s : State) (q : Nat) : Nat × State :=
  let x := queueOf s q
  if x.state == .halted || x.state == .stopped then
    let s := (x.descs.filter fun d => d.stage == .waiting).foldl
      (fun s d => failDesc s q d stABORTED 0 true false) s
    (stOK, flushSlots ((x.tail - x.head).toNat) s q)
  else (stSTATE, s)

/-! ## COPY (R168) -/

/-- The fields of a COPY body. -/
def copySrc (d : Desc) : Nat := leAt d.raw 24 8
def copyDst (d : Desc) : Nat := leAt d.raw 32 8
def copyLen (d : Desc) : Nat := leAt d.raw 40 4
def copyRows (d : Desc) : Nat := leAt d.raw 44 2
def copySrcStride (d : Desc) : Nat := leAt d.raw 48 4
def copyDstStride (d : Desc) : Nat := leAt d.raw 52 4

/-- The whole span of a COPY's source or destination. -/
def copySpan (len rows stride : Nat) : Nat := (rows - 1) * stride + len

/-- The position in a board address, and its local part. -/
def posOf (a : Nat) : Nat := a / 2 ^ 44 % 16
def locOf (a : Nat) : Nat := a % 2 ^ 44

/-- Units that sleep on the way of a span. -/
def spanSleepers (s : State) (die a n : Nat) : List Nat :=
  sleepers s die a ++ (if 256 < n then sleepers s die (a + 256) else [])

/-- Move one granule; stops at the first failure (status, bytes moved, state). [DEDUCED: log 23] -/
def copyGranule (ecc : List EccHit) (src dst : Nat) (p : Nat × Nat × State) : Nat × Nat × State :=
  let (st, n, s) := p
  if st != stOK then p
  else
    let (st, bs, s) := readMem s ecc src 64
    if st != stOK then (st, n, s)
    else
      let (st, s) := writeMem s dst bs
      (st, if st == stOK then n + 64 else n, s)

/-- Move every granule of a local COPY, in row order. [DEDUCED: log 23] -/
def copyLocal (s : State) (ecc : List EccHit) (d : Desc) : Nat × Nat × State :=
  let per := copyLen d / 64
  (List.range (copyRows d * per)).foldl (fun p i =>
    let r := i / max per 1
    let o := i % max per 1 * 64
    copyGranule ecc (locOf (copySrc d) + r * copySrcStride d + o)
      (locOf (copyDst d) + r * copyDstStride d + o) p) (stOK, 0, s)

/-- Start the remote transactions of one row from byte offset `o`: WRITEs of up to 128 granules from a
local source, READs from a remote one (R136, R268). -/
def copyRemoteRow (ecc : List EccHit) (q : Nat) (d : Desc) (src dst : Nat) :
    Nat → Nat → Nat × Nat × State → Nat × Nat × State
  | 0, _, p => p
  | fuel + 1, o, (st, k, s) =>
    if st != stOK || copyLen d ≤ o then (st, k, s)
    else
      let n := min 8192 (copyLen d - o)
      let (tag, s) := takeTag s
      if posOf src == ownPos s then
        let (st, bs, s) := readMem s ecc (locOf src + o) n
        if st != stOK then (st, k, s)
        else
          let m := ownMsg s 0x01 (dDomain d) tag (dst + o)
          let (none?, s) := startTxn s
            { tag := tag, kind := .write, pos := posOf dst, queue := q, idx := d.idx, dest := 0, local_ := 0, bytes := n,
              msg := { m with hdr := { m.hdr with data := bs } }, link := none }
          copyRemoteRow ecc q d src dst fuel (o + 8192) (if none? then (stLINK, k, s) else (stOK, k + 1, s))
      else
        let m := ownMsg s 0x02 (dDomain d) tag (src + o)
        let (none?, s) := startTxn s
          { tag := tag, kind := .read, pos := posOf src, queue := q, idx := d.idx, dest := 0, local_ := dst + o, bytes := n,
            msg := { m with hdr := { m.hdr with count := BitVec.ofNat 16 (n / 64) } }, link := none }
        copyRemoteRow ecc q d src dst fuel (o + 8192) (if none? then (stLINK, k, s) else (stOK, k + 1, s))

/-- Every row of a remote COPY: first status, transactions started, state. -/
def copyRemote (s : State) (ecc : List EccHit) (q : Nat) (d : Desc) : Nat × Nat × State :=
  (List.range (copyRows d)).foldl (fun p r =>
    copyRemoteRow ecc q d (copySrc d + r * copySrcStride d) (copyDst d + r * copyDstStride d)
      (copyLen d / 8192 + 1) 0 p) (stOK, 0, s)

/-- A descriptor's remote part ends when nothing is outstanding: it completes with the first failure,
or OK with the bytes it moved. -/
def settleRemote (s : State) (q : Nat) (d : Desc) : State :=
  if d.ran && d.outstanding == 0 then finish s q d d.status d.detail else setDesc s q d

/-- Run a released COPY: held while a unit on the way sleeps (R117), whole on the local module, and by
transactions over the board. -/
def copyRun (s : State) (q : Nat) (d : Desc) (ecc : List EccHit) : State :=
  let die := q / 16
  let here (a : Nat) : Bool := posOf a == ownPos s
  let sl := (if here (copySrc d) then
      spanSleepers s die (locOf (copySrc d)) (copySpan (copyLen d) (copyRows d) (copySrcStride d)) else []) ++
    (if here (copyDst d) then
      spanSleepers s die (locOf (copyDst d)) (copySpan (copyLen d) (copyRows d) (copyDstStride d)) else [])
  if !sl.isEmpty then
    let s := wakeAll s die sl
    { s with mem := { s.mem with held := s.mem.held ++ [{ queue := q, idx := d.idx, ecc := ecc }] } }
  else
    let page := pageKey 0x13 (8 * die + d.engine.getD 0)
    if here (copySrc d) && here (copyDst d) then
      let (st, n, s) := copyLocal s ecc d
      finish (bump64 s (page + 0x048) (page + 0x04C) n) q { d with done := n } st 0
    else
      let (st, k, s) := copyRemote s ecc q d
      settleRemote s q { d with ran := true, remote := true, outstanding := k, status := st }

/-! ## RECV (R170) -/

/-- A RECV whose window holds every byte completes OK and its window closes. -/
def recvRun (s : State) (q : Nat) (d : Desc) : State :=
  match windowOf s q d.idx with
  | some w => if w.len ≤ runBytes w.placed then finish s q { d with done := w.len } stOK 0 else s
  | none => s

/-! ## TOKEN (R178) -/

def tokOp (d : Desc) : Nat := leAt d.raw 24 1
def tokTarget (d : Desc) : Nat := leAt d.raw 26 2
def tokCount (d : Desc) : Nat := leAt d.raw 28 2
def tokPos (d : Desc) : Nat := leAt d.raw 30 1
def tokValue (d : Desc) : Nat := leAt d.raw 32 4

/-- The TOKEN acts on a peer: the remote bit with a position other than the own one. [DEDUCED: log 101] -/
def tokIsRemote (s : State) (d : Desc) : Bool := (tokPos d).testBit 7 && tokPos d % 16 != ownPos s

/-- Apply a local operation to each target in ascending order; the first refusal is the status. -/
def tokEach (s : State) (d : Desc) (f : State → Nat → Nat × State) : Nat × State :=
  (List.range (tokCount d)).foldl (fun (p : Nat × State) i =>
    let (st, s) := f p.2 (tokTarget d + i)
    (if p.1 == stOK then st else p.1, s)) (stOK, s)

/-- Send COUNT register writes to the peer; the descriptor completes when all are answered. -/
def tokSend (s : State) (q : Nat) (d : Desc) (reg : Nat) (tokenOf value : Nat → Nat) : State :=
  let (st, k, s) := (List.range (tokCount d)).foldl (fun (p : Nat × Nat × State) i =>
    let t := tokTarget d + i
    let (none?, s) := sendRegwr p.2.2 q d.idx .tokOp (tokPos d % 16) (dDomain d) reg (tokenOf t) (value t) i
    (if none? && p.1 == stOK then stLINK else p.1, if none? then p.2.1 else p.2.1 + 1, s)) (stOK, 0, s)
  settleRemote s q { d with ran := true, remote := true, outstanding := k, status := st }

/-- TOKEN ADD. -/
def tokenAddRun (s : State) (q : Nat) (d : Desc) : State :=
  if tokIsRemote s d then tokSend s q d 0x040 id (fun t => t + tokValue d * 2 ^ 12)
  else
    let (st, s) := tokEach s d fun s t => tokLocal s t (dDomain d) (fun s t => tokAdd s t (tokValue d))
    finish s q d st 0

/-- TOKEN SET. -/
def tokenSetRun (s : State) (q : Nat) (d : Desc) : State :=
  if tokIsRemote s d then tokSend s q d 0x044 id (fun t => t + tokValue d * 2 ^ 12)
  else
    let (st, s) := tokEach s d fun s t => tokLocal s t (dDomain d) (fun s t => tokSet s t (tokValue d))
    finish s q d st 0

/-- TOKEN DOORBELL: each queue's TAIL moves by VALUE under R146 on its own. -/
def tokenDoorbellRun (s : State) (q : Nat) (d : Desc) : State :=
  if tokIsRemote s d then
    tokSend s q d 0x048 (fun t => t / 16 * 1024) (fun t => t % 16 + tokValue d * 2 ^ 8)
  else
    let (st, s) := tokEach s d fun s t => tailMove s t ((queueOf s t).tail + toWord (tokValue d))
    finish s q d st (if st == stRANGE then 0x02 else 0)

/-! ## FENCE (R179) -/

/-- The descriptors of other queues that a FENCE waits for when it is released. -/
def fenceScope (s : State) (q : Nat) (d : Desc) : List (Nat × Word) :=
  let scope := leAt d.raw 24 1
  s.flow.queues.flatMap fun x =>
    let same := match scope with | 0 => false | 1 => x.1 / 16 == q / 16 | _ => true
    if same && x.1 != q && x.2.domain.toNat == dDomain d then x.2.descs.map fun e => (x.1, e.idx) else []

/-- A FENCE completes when nothing earlier of its queue and nothing of its set is left. -/
def fenceRun (s : State) (q : Nat) (d : Desc) : State :=
  let earlier := ((queueOf s q).descs.takeWhile fun e => e.idx != d.idx).isEmpty
  if earlier && d.fence.all (fun x => (findDesc s x.1 x.2).isNone) then finish s q d stOK 0 else s

/-! ## Wait limits (R163) -/

/-- The oldest unreleased descriptor of a queue. -/
def oldestWaiting (s : State) (q : Nat) : Option Desc :=
  (queueOf s q).descs.find? fun d => d.stage == .waiting

/-- It has waited longer than the limit. -/
def waitLimitHit (s : State) (q : Nat) : State :=
  match oldestWaiting s q with
  | some d => if (queueOf s q).waitLimit == 0#16 then s else failDesc s q d stDEADLINE 0 true false
  | none => s

/-- A window has received no byte for longer than the limit. -/
def windowTimeout (s : State) (q : Nat) (idx : Word) : State :=
  match windowOf s q idx, findDesc s q idx with
  | some _, some d => if (queueOf s q).waitLimit == 0#16 then s else failDesc s q d stDEADLINE 0 true false
  | _, _ => s

end Sys2Proof.Machine
end

