-- ==== Sys2Proof/Machine/ReduceOps.lean ====
section
/-!
DEFINITION. Reduction (R171, R172, R192 to R210): the contribution table, REDUCE into FRESH and stored
granules, discard, and EMIT with its formats, residuals and counts.
-/

namespace Sys2Proof.Machine

/-! ## Body fields (R171, R172) -/

def redSrc (d : Desc) : Nat := leAt d.raw 24 8
def redAcc (d : Desc) : Nat := leAt d.raw 32 8
def redCount (d : Desc) : Nat := leAt d.raw 40 4
def redFormat (d : Desc) : Nat := leAt d.raw 44 1
def redOp (d : Desc) : Nat := leAt d.raw 45 1
def redExpect (d : Desc) : Nat := leAt d.raw 46 2
def redDone (d : Desc) : Nat := leAt d.raw 48 2
def redInt (d : Desc) : Bool := redFormat d == 0x10

def emitAcc (d : Desc) : Nat := leAt d.raw 24 8
def emitDst (d : Desc) : Nat := leAt d.raw 32 8
def emitCount (d : Desc) : Nat := leAt d.raw 40 4
def emitFormat (d : Desc) : Nat := leAt d.raw 44 1
def emitMode (d : Desc) : Nat := leAt d.raw 45 1
def emitResid (d : Desc) : Nat := leAt d.raw 48 8
def emitSeed (d : Desc) : Nat := leAt d.raw 56 4

/-! ## The contribution table (R201 to R205) -/

def setCt (s : State) (i : Nat) (e : CtEntry) : State := { s with ct := tset (fun _ => {}) s.ct i e }

/-- Entries of a die whose range overlaps [a, a + 4n). -/
def ctOverlaps (s : State) (die a n : Nat) : List (Nat × CtEntry) :=
  s.ct.filter fun x =>
    x.1 / 2048 == die && x.2.state != .free && x.2.acc < a + 4 * n && a < x.2.acc + 4 * x.2.count

/-- The entry holds exactly the fields of a REDUCE. -/
def ctMatches (e : CtEntry) (d : Desc) : Bool :=
  e.domain.toNat == dDomain d && e.acc == redAcc d && e.count == redCount d && e.op == redOp d &&
    e.isInt == redInt d && e.expect == redExpect d && e.doneTok.toNat == redDone d

/-- The entry goes to FREE; a later life of it has another number. -/
def ctFree (s : State) (i : Nat) : State := setCt s i { gen := (ctOf s i).gen + 1 }

/-- The lowest FREE entry of a die. -/
def ctLowestFree (s : State) (die : Nat) : Option Nat :=
  ((List.range 2048).find? fun k => (ctOf s (2048 * die + k)).state == .free).map (· + 2048 * die)

/-- What a REDUCE meets at its release (R202): it runs with an entry, or completes with a status. -/
inductive CtMeet where
  | runs (entry : Nat)
  | ends (status : Nat)
  deriving DecidableEq, Repr

/-- A discarded entry whose SEEN has reached EXPECT and whose sweep has ended goes to FREE (R205). -/
def ctSettle (s : State) (i : Nat) : State :=
  let e := ctOf s i
  if e.state == .discarded && e.expect ≤ e.seen && !e.sweeping then ctFree s i else s

/-- The FRESH-marking sweep of a discarded entry ends (R204). -/
def sweepDone (s : State) (i : Nat) : State :=
  let e := ctOf s i
  if e.sweeping then ctSettle (setCt s i { e with sweeping := false }) i else s

/-- The release of a REDUCE meets the table (R202). [DEDUCED: log 51] -/
def ctMeet (s : State) (die : Nat) (d : Desc) : CtMeet × State :=
  match ctOverlaps s die (redAcc d) (redCount d) with
  | [] =>
    match ctLowestFree s die with
    | some i =>
      (.runs i, setCt s i
        { state := .opened, domain := BitVec.ofNat 12 (dDomain d), acc := redAcc d, count := redCount d,
          op := redOp d, isInt := redInt d, expect := redExpect d, doneTok := BitVec.ofNat 16 (redDone d),
          gen := (ctOf s i).gen })
    | none =>
      (.ends stRESOURCE, raiseIrq (bumpReg s (Reg.at Reg.RED_CNT_CT_FULL (32 * die)) 1) 0x11 (32 * die) 3)
  | l =>
    match l.find? fun x => ctMatches x.2 d with
    | some (i, e) =>
      if e.state == .opened then (.runs i, s)
      else (.ends stABORTED, ctSettle (setCt s i { e with seen := e.seen + 1 }) i)
    | none => (.ends stORDER, bumpReg s (Reg.at Reg.RED_CNT_ORDER (32 * die)) 1)

/-- Mark the running REDUCEs of an entry: they complete ABORTED at their next granule (R204). [DEDUCED: log 32] -/
def abortDesc (i gen : Nat) (d : Desc) : Desc :=
  if d.stage == .released && dType d == tyREDUCE && d.entry == some i && d.entryGen == gen then
    { d with abort := true }
  else d

/-- Every fetched descriptor of the module mapped. -/
def mapDescs (s : State) (f : Nat → Desc → Desc) : State :=
  { s with flow := { s.flow with
      queues := s.flow.queues.map fun q => (q.1, { q.2 with descs := q.2.descs.map (f q.1) }) } }

/-- Discard an OPEN entry (R204): DISCARDED, every granule FRESH, its running REDUCEs to abort. [DEDUCED: log 38] -/
def ctDiscard (s : State) (i : Nat) : State :=
  let e := ctOf s i
  let die := i / 2048
  let s := setCt s i { e with state := .discarded, sweeping := true }
  let s := { s with mem := { s.mem with
    unfresh := tclear s.mem.unfresh (e.acc / 64) ((e.acc + 4 * e.count + 63) / 64) } }
  let s := mapDescs s fun _ d => abortDesc i e.gen d
  let s := raiseIrq s 0x11 (32 * die) 2
  offAfterRestart s die

/-- DONE_TOK with its enable bit. -/
def doneTokEach (s : State) (d : Desc) (f : State → Nat → State) : State :=
  if (redDone d).testBit 15 then (tokLocal s (redDone d % 4096) (dDomain d) f).2 else s

/-- A REDUCE that joined an entry completes (R203, R204). -/
def ctEnd (s : State) (d : Desc) (st : Nat) : State :=
  match d.entry with
  | none => s
  | some i =>
    let e := ctOf s i
    if e.gen != d.entryGen || e.state == .free then s
    else
      let e := { e with seen := e.seen + 1, arrived := e.arrived + b2n (st == stOK) }
      let s := setCt s i e
      if e.state == .opened then
        if st != stOK then ctSettle (ctDiscard s i) i
        else if e.arrived == e.expect then
          offAfterRestart (doneTokEach (ctFree s i) d fun s t => tokAdd s t 1) (i / 2048)
        else s
      else ctSettle s i

/-- A REDUCE that ran completes: the entry, DONE_TOK's poison when it had combined something, and the
descriptor. [DEDUCED: log 51] -/
def reduceEnd (s : State) (q : Nat) (d : Desc) (st n : Nat) : State :=
  let s := ctEnd s d st
  let s := if st != stOK && 0 < n then doneTokEach s d tokPoison else s
  finish s q { d with done := n } st 0

/-! ## Combining (R193 to R199) -/

/-- Combine an FP32 accumulator with an FP32 input (R195). -/
def combineFp (op acc x : Nat) (t : Tally) : Nat × Tally :=
  let r := match op with
    | 1 => (fp32Min acc x, false)
    | 2 => (fp32Max acc x, false)
    | _ => fp32Round (fpAdd (fp32Val acc) (fp32Val x))
  (r.1, { t with nan := t.nan + b2n (fp32IsNan r.1), ovf := t.ovf + b2n r.2 })

/-- Combine an INT32 accumulator with an input (R196). -/
def combineInt (op acc x : Nat) (t : Tally) : Nat × Tally :=
  match op with
  | 1 => (if signed 32 x < signed 32 acc then x else acc, t)
  | 2 => (if signed 32 acc < signed 32 x then x else acc, t)
  | 3 => (acc ||| x, t)
  | 4 => (acc &&& x, t)
  | _ => let r := int32AddSat acc x; (r.1, { t with sat := t.sat + b2n r.2 })

/-- The byte ranges (offset, length) of an array that elements [lo, hi) of one accumulator granule need. -/
def arrayTouch (code lo hi : Nat) : List (Nat × Nat) :=
  if isMx code then
    let seg := lo / 2048 * segBytes code
    let b := lo % 2048 / 32
    [(seg + b, 1), (seg + 64 + b * blockBytes code, blockBytes code)]
  else [(lo * elemBytes code, (hi - lo) * elemBytes code)]

/-- The first failing read status of those ranges. [DEDUCED: log 52] -/
def touchStatus (s : State) (base : Nat) (l : List (Nat × Nat)) : Nat :=
  l.foldl (fun st r => if st == stOK then rangeReadStatus s (base + r.1) r.2 else st) stOK

/-- One element of the source, as the combine takes it, with its overflow counted (R194). -/
def redInput (s : State) (d : Desc) (i : Nat) (t : Tally) : Nat × Tally :=
  let (v, o) := arrayElem (redFormat d) (fun a n => readBytes s (redSrc d + a) n) i
  (v, { t with ovf := t.ovf + b2n o })

/-- One element of a granule: the first contribution is written, a later one combines (R199). -/
def redElem (s : State) (d : Desc) (fresh : Bool) (old : List Byte) (base n : Nat)
    (p : List Byte × Tally) (k : Nat) : List Byte × Tally :=
  let was := if fresh then 0 else leAt old (4 * k) 4
  if n ≤ base + k then (p.1 ++ leBytes 4 was, p.2)
  else
    let (x, t) := redInput s d (base + k) p.2
    let (v, t) :=
      if fresh then (x, { t with nan := t.nan + b2n (!redInt d && fp32IsNan x) })
      else if redInt d then combineInt (redOp d) was x t else combineFp (redOp d) was x t
    (p.1 ++ leBytes 4 v, t)

/-- One accumulator granule, in one atomic step (R167): status, elements so far, counts, state. [DEDUCED: log 25, 52] -/
def redGranule (d : Desc) (p : Nat × Nat × Tally × State) (g : Nat) : Nat × Nat × Tally × State :=
  let (st, n, t, s) := p
  if st != stOK then p
  else
    let a := redAcc d + 64 * g
    let hi := min (redCount d) (16 * g + 16)
    let fresh := isFresh s a
    let st := touchStatus s (redSrc d) (arrayTouch (redFormat d) (16 * g) hi)
    let st := if st == stOK && !fresh then granuleReadStatus s a else st
    if st != stOK then (st, n, t, s)
    else
      let (bs, t') := (List.range 16).foldl
        (redElem s d fresh (readBytes s a 64) (16 * g) (redCount d)) ([], t)
      let (st, s) := writeGranule s a bs
      if st != stOK then (st, n, t, s) else (stOK, hi, t', s)

/-- Store an engine's counts in its RED page. [DEDUCED: log 25] -/
def tallyRed (s : State) (i : Nat) (t : Tally) : State :=
  let s := bumpReg s (Reg.at Reg.RED_CNT_NAN i) t.nan
  let s := bumpReg s (Reg.at Reg.RED_CNT_OVF i) t.ovf
  let s := bumpReg s (Reg.at Reg.RED_CNT_SAT i) t.sat
  bumpReg s (Reg.at Reg.RED_CNT_FRESH_RD (i / 32 * 32)) t.fresh

/-- The instance of a RED page from a queue and the descriptor's engine. -/
def redInst (q : Nat) (d : Desc) : Nat := 32 * (q / 16) + d.engine.getD 0

/-- A released REDUCE runs: ABORTED when its entry was discarded, else granule by granule. -/
def reduceRun (s : State) (q : Nat) (d : Desc) (ecc : List EccHit) : State :=
  if d.abort then reduceEnd s q d stABORTED 0
  else
    let s := applyEcc s ecc (redSrc d) (arrayBytes (redFormat d) (redCount d))
    let s := applyEcc s ecc (redAcc d) (4 * redCount d)
    let (st, n, t, s) := (List.range ((redCount d + 15) / 16)).foldl (redGranule d) (stOK, 0, {}, s)
    let s := countTraffic s (redSrc d) (arrayBytes (redFormat d) n) false
    let i := redInst q d
    let s := bump64 (tallyRed s i t) (Reg.at Reg.RED_ELEMS_LO i) (Reg.at Reg.RED_ELEMS_HI i) n
    reduceEnd s q d st n

/-! ## EMIT (R206 to R210) -/

/-- Read one accumulator granule for EMIT or OPTIM: 16 words, FRESH read as zeros and counted; a
consuming read sets FRESH (R200). -/
def accGranule (s : State) (a : Nat) (keep : Bool) (t : Tally) : Nat × List Nat × Tally × State :=
  let st := granuleReadStatus s a
  if st != stOK then (st, [], t, s)
  else
    let fresh := isFresh s a
    let bs := readBytes s a 64
    let ws := (List.range 16).map fun k => if fresh then 0 else leAt bs (4 * k) 4
    (stOK, ws, { t with fresh := t.fresh + b2n fresh }, if keep then s else setFresh s a true)

/-- What EMIT has read and made of its elements so far. -/
structure EmitAcc where
  status : Nat := 0
  read : Nat := 0
  tally : Tally := {}
  /-- Scalar output bytes, or MX blocks. -/
  bytes : List Byte := []
  blocks : List (Nat × List Byte) := []
  resid : List Byte := []
  deriving DecidableEq, Repr

/-- Count a mark. [DEDUCED: log 53] -/
def tallyMark (t : Tally) (m : Mark) : Tally :=
  match m with
  | .none => t
  | .sat => { t with sat := t.sat + 1 }
  | .ovf => { t with ovf := t.ovf + 1 }
  | .nan => { t with nan := t.nan + 1 }

/-- MODE bits. -/
def modeBit (d : Desc) (b : Nat) : Bool := (emitMode d).testBit b

/-- Residual i as FP32 (R207). [DEDUCED: log 54] -/
def residAt (s : State) (d : Desc) (i : Nat) : Nat :=
  if modeBit d 5 then (toFp32 (fpDecode fmtBF16 (leNat (readBytes s (emitResid d + 2 * i) 2)))).1
  else leNat (readBytes s (emitResid d + 4 * i) 4)

/-- The value of element i after error feedback. The addition counts nothing: an element counts once, as it is
written (R208). -/
def emitValue (s : State) (d : Desc) (a i : Nat) : Nat := if modeBit d 1 then fp32Add a (residAt s d i) else a

/-- Residual bytes of a value and its output value. [DEDUCED: log 54] -/
def emitResidual (d : Desc) (v : Nat) (o : FpVal) (p : List Byte × Tally) : List Byte × Tally :=
  if modeBit d 1 then
    let (r, sat) := residual (modeBit d 5) v o
    (p.1 ++ leBytes (if modeBit d 5 then 2 else 4) r, { p.2 with sat := p.2.sat + b2n sat })
  else p

/-- One scalar element: quantized, counted, with its residual. [DEDUCED: log 53] -/
def emitScalar (d : Desc) (x : EmitAcc) (v i : Nat) : EmitAcc :=
  match scalarFmt (emitFormat d) with
  | none => { x with bytes := x.bytes ++ leBytes 4 v }
  | some f =>
    let (c, m) :=
      if emitFormat d == 0 then (if fp32IsNan v then (nan32, Mark.nan) else (v, Mark.none))
      else quantScalar (emitFormat d) f (modeBit d 4) (roundingOf (modeBit d 0) (emitSeed d) i) (fp32Val v)
    let (r, t) := emitResidual d v (fpDecode f c) (x.resid, tallyMark x.tally m)
    { x with bytes := x.bytes ++ leBytes (elemBytes (emitFormat d)) c, resid := r, tally := t }

/-- One MX block of 32 values (R209). -/
def emitBlock (d : Desc) (f : FpFmt) (emax : Nat) (x : EmitAcc) (vs : List Nat) (i : Nat) : EmitAcc :=
  let (scale, qs, os) := quantBlock f emax (modeBit d 4)
    (fun k => roundingOf (modeBit d 0) (emitSeed d) (i + k)) vs
  let t := qs.foldl (fun t q => tallyMark t q.2) x.tally
  let (r, t) := (vs.zip os).foldl (fun p vo => emitResidual d vo.1 vo.2 p) (x.resid, t)
  { x with blocks := x.blocks ++ [(scale, packBlock (emitFormat d) (qs.map Prod.fst))], resid := r, tally := t }

/-- Read `m` accumulator granules. -/
def accGranules (d : Desc) : Nat → Nat → Nat × List Nat × Tally × State → Nat × List Nat × Tally × State
  | 0, _, p => p
  | m + 1, a, (st, ws, t, s) =>
    if st != stOK then (st, ws, t, s)
    else
      let (st, w, t, s) := accGranule s a (modeBit d 2) t
      accGranules d m (a + 64) (st, ws ++ w, t, s)

/-- One group of elements: 32 of an MX output, 16 of a scalar one. [DEDUCED: log 53] -/
def emitGroup (d : Desc) (p : EmitAcc × State) (g : Nat) : EmitAcc × State :=
  let (x, s) := p
  if x.status != stOK then p
  else
    let mx := isMx (emitFormat d)
    let per := if mx then 32 else 16
    let lo := per * g
    let n := min per (emitCount d - lo)
    let rb := if modeBit d 5 then 2 else 4
    let rst := if modeBit d 1 then rangeReadStatus s (emitResid d + rb * lo) (rb * n) else stOK
    if rst != stOK then ({ x with status := rst }, s)
    else
      let (st, ws, t, s) := accGranules d (if mx then 2 else 1) (emitAcc d + 4 * lo) (stOK, [], x.tally, s)
      if st != stOK then ({ x with status := st, tally := t }, s)
      else if modeBit d 3 then ({ x with read := lo + n, tally := t }, s)
      else
        let vs := (List.range n).map fun k => emitValue s d (ws.getD k 0) (lo + k)
        let x := { x with read := lo + n, tally := t }
        match mxFmt (emitFormat d) with
        | some (f, emax) => (emitBlock d f emax x vs lo, s)
        | none => ((vs.zip (List.range n)).foldl (fun x v => emitScalar d x v.1 (lo + v.2)) x, s)

/-- A released EMIT runs. -/
def emitRun (s : State) (q : Nat) (d : Desc) (ecc : List EccHit) : State :=
  let rb := if modeBit d 5 then 2 else 4
  let s := applyEcc s ecc (emitAcc d) (4 * emitCount d)
  let s := if modeBit d 1 then applyEcc s ecc (emitResid d) (rb * emitCount d) else s
  let per := if isMx (emitFormat d) then 32 else 16
  let (x, s) := (List.range ((emitCount d + per - 1) / per)).foldl (emitGroup d) ({}, s)
  let s := if modeBit d 1 then countTraffic s (emitResid d) (rb * x.read) false else s
  let out := if isMx (emitFormat d) then packArray (x.blocks.length / 64 + 1) x.blocks else x.bytes
  let (st, s) := if modeBit d 3 then (x.status, s) else
    let (w, s) := writeMem s (emitDst d) out
    (if x.status == stOK then w else x.status, s)
  let (st, s) := if modeBit d 1 then
    let (w, s) := writeMem s (emitResid d) x.resid
    (if st == stOK then w else st, s) else (st, s)
  let i := redInst q d
  let s := bump64 (tallyRed s i x.tally) (Reg.at Reg.RED_ELEMS_LO i) (Reg.at Reg.RED_ELEMS_HI i) x.read
  finish s q { d with done := x.read } st 0

end Sys2Proof.Machine
end

