-- ==== Sys2Proof/Machine/OptOps.lean ====
section
/-!
DEFINITION. Optimizer engines (R214 to R239): the shard descriptor, the element program's instructions
on an engine's registers, tiles with their stores and gradient reads, passes, mirroring, and the run
of an OPTIM.
-/

namespace Sys2Proof.Machine

/-! ## Body and shard descriptor fields (R175, R226, R227) -/

def optShard (d : Desc) : Nat := leAt d.raw 24 8
def optGrad (d : Desc) : Nat := leAt d.raw 32 8
def optOut (d : Desc) : Nat := leAt d.raw 40 8
def optFirst (d : Desc) : Nat := leAt d.raw 48 8
def optCount (d : Desc) : Nat := leAt d.raw 56 4

def shResidency (b : List Byte) : Nat := leAt b 6 1
def shStack (b : List Byte) : Nat := leAt b 7 1
def shElems (b : List Byte) : Nat := leAt b 8 8
def shProg (b : List Byte) : Nat := leAt b 16 8
def shProgLen (b : List Byte) : Nat := leAt b 24 2
def shRowTiles (b : List Byte) : Nat := leAt b 26 2
def shPasses (b : List Byte) : Nat := leAt b 28 1
def shMirror (b : List Byte) : Nat := leAt b 29 1
def shRegionBase (b : List Byte) : Nat := leAt b 32 8
def shMirrorBase (b : List Byte) : Nat := leAt b 40 8
def shStat (b : List Byte) : Nat := leAt b 48 8

/-- Stream entry k: inputs 0 to 7, outputs 8 to 15. -/
def shEntry (b : List Byte) (k : Nat) : List Byte := slice b (64 + 16 * k) 16

def enKind (e : List Byte) : Nat := leAt e 0 1
def enFormat (e : List Byte) : Nat := leAt e 1 1
def enFlag (e : List Byte) (n : Nat) : Bool := (leAt e 2 1).testBit n
def enRole (e : List Byte) : Nat := leAt e 2 1 / 8 % 4
def enAcc (e : List Byte) : Nat := leAt e 3 1
def enSeed (e : List Byte) : Nat := leAt e 4 4
def enBase (e : List Byte) : Nat := leAt e 8 8

abbrev skGRAD : Nat := 1
abbrev skOUT : Nat := 1
abbrev skPLANE : Nat := 2
abbrev skROW : Nat := 3
abbrev skCOL : Nat := 4

/-- Elements in a row of a shard. -/
def rowLen (b : List Byte) : Nat := 64 * shRowTiles b

/-- Element j's address in a stream (R228). -/
def streamAddr (d : Desc) (input : Bool) (e : List Byte) (j : Nat) : Nat :=
  let el := optFirst d + j
  let row := el / max (rowLen d.shard) 1
  let col := el % max (rowLen d.shard) 1
  let s := elemBytes (enFormat e)
  if enKind e == skPLANE then enBase e + s * el
  else if enKind e == skROW then enBase e + s * row
  else if enKind e == skCOL then enBase e + s * col
  else if input then optGrad d + 4 * j else optOut d + s * j

/-! ## Registers (R214) -/

def zeroLanes : List Word := List.replicate 64 0#32

def optOf (s : State) (e : Nat) : OptEng := tget (fun _ => {}) s.opt e
def setOpt (s : State) (e : Nat) (x : OptEng) : State := { s with opt := tset (fun _ => {}) s.opt e x }

def vReg (x : OptEng) (r : Nat) : List Word := tget (fun _ => zeroLanes) x.v r
def setV (x : OptEng) (r : Nat) (l : List Word) : OptEng := { x with v := tset (fun _ => zeroLanes) x.v r l }

/-- S60 to S63 read +0.0 always. -/
def sReg (x : OptEng) (r : Nat) : Word := if 60 ≤ r then 0#32 else tget (fun _ => 0#32) x.s r

/-- A write to a scalar register. R220 lets a program write S0 to S55 only; others are not written. -/
def setS (x : OptEng) (r : Nat) (w : Word) : OptEng :=
  if r ≤ 55 then { x with s := tset (fun _ => 0#32) x.s r w } else x

def laReg (x : OptEng) (k : Nat) : List Word := tget (fun _ => zeroLanes) x.la k
def haReg (x : OptEng) (k : Nat) : Word := tget (fun _ => 0#32) x.ha k
def setHa (x : OptEng) (k : Nat) (w : Word) : OptEng := { x with ha := tset (fun _ => 0#32) x.ha k w }

/-- An operation on FP32 codes as an operation on words. -/
def onW (f : Nat → Nat) (a : Word) : Word := toWord (f a.toNat)
def onW2 (f : Nat → Nat → Nat) (a b : Word) : Word := toWord (f a.toNat b.toNat)
def onW3 (f : Nat → Nat → Nat → Nat) (a b c : Word) : Word := toWord (f a.toNat b.toNat c.toNat)

/-- Magnitude of a with the sign bit of b. -/
def copySign (a b : Nat) : Nat := a % 2 ^ 31 + b / 2 ^ 31 * 2 ^ 31
def clearSign (a : Nat) : Nat := a % 2 ^ 31
def flipSign (a : Nat) : Nat := a % 2 ^ 31 + (1 - a / 2 ^ 31 % 2) * 2 ^ 31

/-- VD from two vectors. -/
def vop2 (f : Nat → Nat → Nat) (vd va vb : Nat) (x : OptEng) : OptEng :=
  setV x vd (List.zipWith (onW2 f) (vReg x va) (vReg x vb))

/-- VD ← VA x VB + VD. -/
def vfmaOp (vd va vb : Nat) (x : OptEng) : OptEng :=
  setV x vd (List.zipWith (fun p c => onW3 fp32Fma p.1 p.2 c) ((vReg x va).zip (vReg x vb)) (vReg x vd))

/-- VD from a vector and a scalar. -/
def vops (f : Nat → Nat → Nat) (vd va sk : Nat) (x : OptEng) : OptEng :=
  setV x vd ((vReg x va).map fun a => onW2 f a (sReg x sk))

/-- VD ← VA x SK + VD. -/
def vfmasOp (vd va sk : Nat) (x : OptEng) : OptEng :=
  setV x vd (List.zipWith (fun a c => onW3 fp32Fma a (sReg x sk) c) (vReg x va) (vReg x vd))

/-- VD ← VA x SK + S(K+1). -/
def vaxpbOp (vd va sk : Nat) (x : OptEng) : OptEng :=
  setV x vd ((vReg x va).map fun a => onW3 fp32Fma a (sReg x sk) (sReg x (sk + 1)))

def vbcastOp (vd sk : Nat) (x : OptEng) : OptEng := setV x vd (List.replicate 64 (sReg x sk))

def vop1 (f : Nat → Nat) (vd va : Nat) (x : OptEng) : OptEng := setV x vd ((vReg x va).map (onW f))

def sop2 (f : Nat → Nat → Nat) (sd sa sb : Nat) (x : OptEng) : OptEng :=
  setS x sd (onW2 f (sReg x sa) (sReg x sb))

def sfmaOp (sd sa sb : Nat) (x : OptEng) : OptEng :=
  setS x sd (onW3 fp32Fma (sReg x sa) (sReg x sb) (sReg x sd))

def sop1 (f : Nat → Nat) (sd sa : Nat) (x : OptEng) : OptEng := setS x sd (onW f (sReg x sa))

def sliOp (sd imm : Nat) (x : OptEng) : OptEng := setS x sd (toWord (imm * 2 ^ 16))

/-- Pairwise sums: neighbours first. -/
def pairSums : List Word → List Word
  | a :: b :: t => onW2 fp32Add a b :: pairSums t
  | l => l

/-- The tree sum of 64 lanes, over six levels (R222). -/
def treeSum (l : List Word) : Word :=
  (pairSums (pairSums (pairSums (pairSums (pairSums (pairSums l)))))).headD 0#32

/-- Active lanes of the present tile: all 64 where no OPTIM runs on the engine. -/
def activeLanes (d : Option Desc) (x : OptEng) : Nat :=
  match d with
  | some d => min 64 (optCount d - 64 * x.tile)
  | none => 64

/-- The lanes with inactive ones at +0.0. -/
def maskLanes (n : Nat) (l : List Word) : List Word := l.take n ++ List.replicate (64 - n) 0#32

def laccOp (d : Option Desc) (k va : Nat) (x : OptEng) : OptEng :=
  let l := List.zipWith (onW2 fp32Add) (laReg x k) (maskLanes (activeLanes d x) (vReg x va))
  { x with la := tset (fun _ => zeroLanes) x.la k l }

def haccOp (d : Option Desc) (k va : Nat) (x : OptEng) : OptEng :=
  setHa x k (onW2 fp32Add (haReg x k) (treeSum (maskLanes (activeLanes d x) (vReg x va))))

/-! ## Programs (R216, R217, R221) -/

/-- Word n of a program. -/
def progWord (d : Desc) (n : Nat) : Word := toWord (leAt d.prog (4 * n) 4)

def opOf (w : Word) : Nat := fld w 26 6

/-- The position of the PASS marker, if the program has one. -/
def passAt (d : Desc) : Option Nat :=
  (List.range (shProgLen d.shard)).find? fun n => opOf (progWord d n) == 0x38

/-- Word n lies in the second pass's part. -/
def inPass2 (d : Desc) (n : Nat) : Bool := match passAt d with | some p => decide (p < n) | none => false

/-- The pass whose body sums into HA k writes the ROW streams of k; both do when none sums into it. -/
def rowsHere (d : Desc) (pass2 : Bool) (k : Nat) : Bool :=
  let hs := (List.range (shProgLen d.shard)).filter fun n =>
    let w := progWord d n
    opOf w == 0x33 && fld w 21 2 == k
  hs.isEmpty || hs.any fun n => inPass2 d n == pass2

/-- Cycles per tile of the running body (R236): the larger of its costs, its stream count and 8. -/
def bodyCycles (d : Desc) (x : OptEng) : Nat :=
  let body := (List.range (shProgLen d.shard - x.body)).map (fun n => opOf (progWord d (x.body + n)))
  let body := body.takeWhile fun o => o < 0x38
  let cost (o : Nat) : Nat :=
    if o == 0x30 || o == 0x31 then 0 else if (0x10 ≤ o && o ≤ 0x14) then 2 else 1
  max (max (body.map cost).sum (body.countP fun o => o == 0x30 || o == 0x31)) 8

/-! ## Streams (R228, R229, R231) -/

/-- The read of a GRAD stream consumes: not with KEEP, and with PASSES = 1 in pass 2 only (R224). -/
def gradConsumes (d : Desc) (x : OptEng) (e : List Byte) : Bool :=
  !enFlag e 2 && (shPasses d.shard != 1 || x.pass2)

/-- Element j of an input stream as FP32. A FRESH gradient granule reads +0.0. -/
def streamElem (s : State) (d : Desc) (e : List Byte) (j : Nat) : Word :=
  let a := streamAddr d true e j
  if enKind e == skGRAD && isFresh s a then 0#32
  else
    match scalarFmt (enFormat e) with
    | some f => toWord (toFp32 (fpDecode f (leNat (readBytes s a (elemBytes (enFormat e)))))).1
    | none => 0#32

/-- VLD: the next tile of an input stream; a failing read stops the tile (R221, R234). -/
def vldOp (s : State) (d : Desc) (vd k : Nat) (x : OptEng) : OptEng :=
  let e := shEntry d.shard k
  let n := activeLanes (some d) x
  let j := 64 * x.tile
  if enKind e == 0 || n == 0 then setV x vd zeroLanes
  else
    let a := streamAddr d true e j
    let len := if enKind e == skROW then elemBytes (enFormat e) else n * elemBytes (enFormat e)
    let st := rangeReadStatus s a len
    if st != stOK then { x with status := st }
    else
      let grad := enKind e == skGRAD
      let gs := if grad then (List.range ((n + 15) / 16)).map fun i => a + 64 * i else []
      let x := { x with
        consumed := if grad && gradConsumes d x e then x.consumed ++ gs else x.consumed
        reads := x.reads ++ [(a, len)]
        tally := { x.tally with fresh := x.tally.fresh + gs.countP fun g => isFresh s g } }
      setV x vd (maskLanes n ((List.range n).map fun i => streamElem s d e (j + i)))

/-- An output value in its format, with its mark (R229): an FP32 output stores the value unchanged. -/
def outCode (e : List Byte) (i : Nat) (w : Word) : Nat × Mark :=
  match enFormat e, scalarFmt (enFormat e) with
  | 0, _ => (w.toNat, if fp32IsNan w.toNat then .nan else .none)
  | _, some f => quantScalar (enFormat e) f (enFlag e 0) (roundingOf (enFlag e 1) (enSeed e) i) (fp32Val w.toNat)
  | _, none => (w.toNat, .none)

/-- Encode values from element i on: bytes and counts. -/
def outBytes (e : List Byte) (idx : Nat → Nat) (t : Tally) (ws : List Word) : List Byte × Tally :=
  (ws.zip (List.range ws.length)).foldl (fun (p : List Byte × Tally) w =>
    let (c, m) := outCode e (idx w.2) w.1
    (p.1 ++ leBytes (elemBytes (enFormat e)) c, tallyMark p.2 m)) ([], t)

/-- An output stream is mirrored: PLANE outputs of ROLE 1, with MIRROR 2 also of ROLE 2 (R238). -/
def entryMirrored (d : Desc) (e : List Byte) : Bool :=
  enKind e == skPLANE && ((enRole e == 1 && 1 ≤ shMirror d.shard) || (enRole e == 2 && shMirror d.shard == 2))

/-- VST: the stored tile waits for the end of the tile (R221). A COL stream adds to the values already
held from the second row of the pass on (R223). -/
def vstOp (s : State) (d : Desc) (v k : Nat) (x : OptEng) : OptEng :=
  let e := shEntry d.shard (8 + k)
  let n := activeLanes (some d) x
  let j := 64 * x.tile
  if enKind e == 0 || n == 0 || (enKind e == skOUT && optOut d == 0) then x
  else
    let a := streamAddr d false e j
    let ws := (vReg x v).take n
    let adds := enKind e == skCOL && shRowTiles d.shard ≤ x.tile
    let st := if adds then rangeReadStatus s a (4 * n) else stOK
    if st != stOK then { x with status := st }
    else
      let ws := if adds then
          List.zipWith (fun w i => onW2 fp32Add (toWord (leNat (readBytes s (a + 4 * i) 4))) w) ws (List.range n)
        else ws
      let (bs, t) := outBytes e (fun i => (optFirst d + j + i) % 2 ^ 32) x.tally ws
      let rs := if adds then x.reads ++ [(a, 4 * n)] else x.reads
      { x with writes := x.writes ++ [(a, bs, entryMirrored d e)], tally := t, reads := rs }

/-! ## The end of a tile -/

/-- The status that a write of bytes would meet, without writing. -/
def writeStatus (s : State) (a n : Nat) : Nat :=
  let g := if n == 0 then 0 else (a + n - 1) / 64 - a / 64 + 1
  (List.range g).foldl (fun st i =>
    if st != stOK then st
    else
      let b := (a / 64 + i) * 64
      if unitStatus s b != stOK then unitStatus s b
      else if chanLost s b then stCHECK
      else if poisoned s b && !(a ≤ b && b + 64 ≤ a + n) then stCHECK else stOK) stOK

/-- The ROW streams that a row's last tile writes: HA of their ACC, in this pass (R223). [DESIGN CHOICE: log 56] -/
def rowWrites (d : Desc) (x : OptEng) : OptEng :=
  let rt := shRowTiles d.shard
  if rt == 0 || (x.tile + 1) % rt != 0 then x
  else
    let j := 64 * x.tile
    let x := (List.range 8).foldl (fun x k =>
      let e := shEntry d.shard (8 + k)
      if enKind e == skROW && rowsHere d x.pass2 (enAcc e) then
        let row := (optFirst d + j) / max (rowLen d.shard) 1
        let (bs, t) := outBytes e (fun _ => Config.rowSrIndex row) x.tally [haReg x (enAcc e)]
        { x with writes := x.writes ++ [(streamAddr d false e j, bs, false)], tally := t }
      else x) x
    { x with ha := [] }

/-- A mirror write has failed: R239. [DEDUCED: log 58] -/
def mirrorFailed (s : State) (q : Nat) (d : Desc) : State :=
  let die := q / 16
  let s := bumpReg s (Reg.at Reg.OPT_CNT_MIRROR_FAIL (16 * die)) 1
  let s := setRegN s (Reg.at Reg.OPT_MIRROR_LAST_LO (16 * die)) (optShard d % 2 ^ 32)
  let s := setRegN s (Reg.at Reg.OPT_MIRROR_LAST_HI (16 * die)) (optShard d / 2 ^ 32 % 4096)
  raiseIrq s 0x12 (16 * die) 3

/-- Mirror the granules of one store: the copy engine reads each and writes it to the image (R238). [DEDUCED: log 58] -/
def mirrorStore (q : Nat) (p : Desc × State) (w : Nat × List Byte × Bool) : Desc × State :=
  let (d, s) := p
  if !w.2.2 || d.mirrorOff then p
  else
    let a := w.1 / 64 * 64
    let n := roundUp 64 (w.1 - a + w.2.1.length)
    let (st, bs, s) := readMem s [] a n
    if st != stOK then ({ d with mirrorOff := true }, mirrorFailed s q d)
    else
      let dst := shMirrorBase d.shard + (a - shRegionBase d.shard)
      let (tag, s) := takeTag s
      let m := ownMsg s 0x01 (dDomain d) tag dst
      let (none?, s) := startTxn s
        { tag := tag, kind := .mirror, pos := posOf dst, queue := q, idx := d.idx, dest := 0, local_ := a,
          bytes := n, msg := { m with hdr := { m.hdr with data := bs } }, link := none }
      if none? then ({ d with mirrorOff := true, remote := true }, mirrorFailed s q d)
      else ({ d with outstanding := d.outstanding + 1, remote := true }, s)

/-- Count a tile's marks in the engine's page (R235) and FRESH reads in RED's. -/
def tallyOpt (s : State) (i : Nat) (t : Tally) : State :=
  let s := bumpReg s (Reg.at Reg.OPT_CNT_NAN i) t.nan
  let s := if 0 < t.nan then raiseIrq s 0x12 i 2 else s
  let s := bumpReg s (Reg.at Reg.OPT_CNT_OVF i) t.ovf
  let s := bumpReg s (Reg.at Reg.OPT_CNT_SAT i) t.sat
  bumpReg s (Reg.at Reg.RED_CNT_FRESH_RD (i / 16 * 32)) t.fresh

/-- The end of a tile (R221, R231, R234): a failed tile writes and consumes nothing; else its stores
take place, its gradient granules become FRESH, and mirrored stores are sent. -/
def commitTile (s : State) (q : Nat) (d : Desc) (e : Nat) : Desc × State :=
  let x := rowWrites d (optOf s e)
  let s := x.reads.foldl (fun s r => countTraffic s r.1 r.2 false) s
  let x := { x with reads := [] }
  let st := x.writes.foldl (fun st w => if st != stOK then st else writeStatus s w.1 w.2.1.length) x.status
  if st != stOK then (d, setOpt s e { x with status := st, writes := [], consumed := [], tally := {} })
  else
    let s := x.writes.foldl (fun s w => (writeMem s w.1 w.2.1).2) s
    let s := x.consumed.foldl (fun s g => setFresh s g true) s
    let s := tallyOpt s e x.tally
    let n := activeLanes (some d) x
    let s := bump64 s (Reg.at Reg.OPT_ELEMS_LO e) (Reg.at Reg.OPT_ELEMS_HI e) n
    let (d, s) := x.writes.foldl (mirrorStore q) (d, s)
    (d, setOpt s e { x with writes := [], consumed := [], tally := {}, written := x.written + n })

/-- Tiles of an OPTIM. -/
def optTiles (d : Desc) : Nat := (optCount d + 63) / 64

/-- The four tree sums of LA0 to LA3. -/
def laSums (x : OptEng) : List Word := (List.range 4).map fun k => treeSum (laReg x k)

/-- The block of partial sums that PASSES = 2 writes at OUT (R224). -/
def writeSums (s : State) (d : Desc) (e : Nat) : State :=
  let x := optOf s e
  let (st, s) := writeMem s (optOut d) ((laSums x).flatMap (fun w => leBytes 4 w.toNat) ++ zeros 48)
  setOpt s e { x with status := st }

/-- TILE: the prologue has ended; a body starts with tile 0 and its registers at +0.0. -/
def tileOp (x : OptEng) : OptEng := { x with body := x.pc, tile := 0, v := [], written := 0 }

/-- The end of a body: the next tile, or what `last` does after the range's last one. -/
def bodyEnd (last : State → Desc → Nat → State) (s : State) (q : Nat) (d : Desc) (e : Nat) : Desc × State :=
  let (d, s) := commitTile s q d e
  let x := optOf s e
  if x.status != stOK then (d, setOpt s e { x with ended := true })
  else if x.tile + 1 < optTiles d then (d, setOpt s e { x with tile := x.tile + 1, pc := x.body, v := [] })
  else (d, last s d e)

/-- After pass 1: its sums go to S56 to S59, or to the block at OUT, where the OPTIM ends (R224). -/
def passLast (s : State) (d : Desc) (e : Nat) : State :=
  let x := optOf s e
  if shPasses d.shard == 2 then
    let s := writeSums s d e
    setOpt s e { optOf s e with ended := true }
  else
    let ss := (laSums x).zip (List.range 4)
    let x := ss.foldl (fun x p => { x with s := tset (fun _ => 0#32) x.s (56 + p.2) p.1 }) x
    setOpt s e { x with pass2 := true, la := [], ha := [], v := [] }

/-- After the last pass the program has ended. -/
def endLast (s : State) (_ : Desc) (e : Nat) : State := setOpt s e { optOf s e with ended := true }

/-! ## One instruction of an engine -/

/-- The OPTIM that runs on an engine, with its queue. -/
def optJob (s : State) (e : Nat) : Option (Nat × Desc) := engineJob s 0x12 (e / 16) (e % 16)

/-- The OPTIM alone. -/
def optDesc (s : State) (e : Nat) : Option Desc := (optJob s e).map Prod.snd

/-- Run a register instruction on engine `e`. [DEDUCED: log 55] -/
def stepReg (s : State) (e : Nat) (f : OptEng → OptEng) : State :=
  let x := optOf s e
  setOpt s e (f { x with pc := x.pc + 1 })

/-- Run an instruction that uses the streams of the engine's OPTIM; without one it does nothing. [DEDUCED: log 55] -/
def stepStream (s : State) (e : Nat) (f : State → Desc → OptEng → OptEng) : State :=
  match optJob s e with
  | some (_, d) => let x := optOf s e; setOpt s e (f s d { x with pc := x.pc + 1 })
  | none => s

/-- Run a marker that ends a body. [DEDUCED: log 55] -/
def stepEnd (s : State) (e : Nat) (last : State → Desc → Nat → State) : State :=
  match optJob s e with
  | some (q, d) =>
    let x := optOf s e
    let (d, s) := bodyEnd last (setOpt s e { x with pc := x.pc + 1 }) q d e
    setDesc s q d
  | none => s

/-- The operation of a program word on engine `e` (R216, R217). -/
def optWord (s : State) (e : Nat) (w : Word) : State :=
  let vd := fld w 21 5
  let va := fld w 16 5
  let vb := fld w 11 5
  let sk := fld w 10 6
  let sd := fld w 20 6
  let sa := fld w 14 6
  let sb := fld w 8 6
  let d := optDesc s e
  match opOf w with
  | 0x01 => stepReg s e (vop2 fp32Add vd va vb)
  | 0x02 => stepReg s e (vop2 fp32Sub vd va vb)
  | 0x03 => stepReg s e (vop2 fp32Mul vd va vb)
  | 0x04 => stepReg s e (vfmaOp vd va vb)
  | 0x05 => stepReg s e (vop2 fp32Min vd va vb)
  | 0x06 => stepReg s e (vop2 fp32Max vd va vb)
  | 0x07 => stepReg s e (vop2 copySign vd va vb)
  | 0x08 => stepReg s e (vops fp32Add vd va sk)
  | 0x09 => stepReg s e (vops fp32Mul vd va sk)
  | 0x0A => stepReg s e (vfmasOp vd va sk)
  | 0x0B => stepReg s e (vaxpbOp vd va sk)
  | 0x0C => stepReg s e (vops fp32Min vd va sk)
  | 0x0D => stepReg s e (vops fp32Max vd va sk)
  | 0x0E => stepReg s e (vbcastOp vd sk)
  | 0x10 => stepReg s e (vop1 fpRcp vd va)
  | 0x11 => stepReg s e (vop1 fpRsqrt vd va)
  | 0x12 => stepReg s e (vop1 fpSqrt vd va)
  | 0x13 => stepReg s e (vop1 fpExp2 vd va)
  | 0x14 => stepReg s e (vop1 fpLog2 vd va)
  | 0x15 => stepReg s e (vop1 clearSign vd va)
  | 0x16 => stepReg s e (vop1 flipSign vd va)
  | 0x17 => stepReg s e (vop1 id vd va)
  | 0x20 => stepReg s e (sop2 fp32Add sd sa sb)
  | 0x21 => stepReg s e (sop2 fp32Sub sd sa sb)
  | 0x22 => stepReg s e (sop2 fp32Mul sd sa sb)
  | 0x23 => stepReg s e (sfmaOp sd sa sb)
  | 0x24 => stepReg s e (sop2 fp32Min sd sa sb)
  | 0x25 => stepReg s e (sop2 fp32Max sd sa sb)
  | 0x26 => stepReg s e (sop1 fpRcp sd sa)
  | 0x27 => stepReg s e (sop1 fpRsqrt sd sa)
  | 0x28 => stepReg s e (sop1 fpSqrt sd sa)
  | 0x29 => stepReg s e (sop1 fpExp2 sd sa)
  | 0x2A => stepReg s e (sop1 fpLog2 sd sa)
  | 0x2B => stepReg s e (sop1 id sd sa)
  | 0x2C => stepReg s e (sliOp sd (fld w 0 16))
  | 0x30 => stepStream s e fun s d => vldOp s d vd (fld w 16 3)
  | 0x31 => stepStream s e fun s d => vstOp s d vd (fld w 16 3)
  | 0x32 => stepReg s e (laccOp d (fld w 21 2) va)
  | 0x33 => stepReg s e (haccOp d (fld w 21 2) va)
  | 0x38 => stepEnd s e passLast
  | 0x39 => stepReg s e tileOp
  | 0x3F => stepEnd s e endLast
  | _ => stepReg s e id

/-! ## The run of an OPTIM -/

/-- An engine at the release of an OPTIM (R214, R224): the scalar block, every other register +0.0;
with PASSES = 3 pass 2 starts with S56 to S59 from STAT. -/
def optStart (s : State) (d : Desc) (e : Nat) : State :=
  let ss := (List.range 48).foldl (fun t k => tset (fun _ => 0#32) t k (toWord (leAt d.shard (320 + 4 * k) 4))) []
  let x : OptEng := { s := ss }
  if shPasses d.shard == 3 then
    let (st, bs, s) := readMem s [] (shStat d.shard) 16
    let ss := (List.range 4).foldl (fun t k => tset (fun _ => 0#32) t (56 + k) (toWord (leAt bs (4 * k) 4))) ss
    setOpt s e { x with s := ss, pc := (passAt d).getD 0 + 1, pass2 := true, status := st, ended := st != stOK }
  else setOpt s e x

/-- Run instructions until the program has ended or a tile has failed. -/
def optLoop : Nat → State → Nat → State
  | 0, s, _ => s
  | n + 1, s, e =>
    let x := optOf s e
    match optJob s e with
    | none => s
    | some (_, d) =>
      if x.ended then s
      else if x.status != stOK then setOpt s e { x with ended := true, writes := [], consumed := [], tally := {} }
      else optLoop n (optWord s e (progWord d x.pc)) e

/-- A bound on the instructions of an OPTIM: two passes of at most 256 words for each tile. -/
def optFuel (d : Desc) : Nat := 512 * (optTiles d + 2)

/-- A released OPTIM runs what is left of its program on its engine, and completes when every mirrored
granule is acknowledged (R233). -/
def optimRun (s : State) (q : Nat) (d : Desc) (ecc : List EccHit) : State :=
  let e := 16 * (q / 16) + d.engine.getD 0
  let s := ecc.foldl (fun s h => applyEcc s [h] h.addr 64) s
  let s := optLoop (optFuel d) s e
  let x := optOf s e
  let s := setOpt s e {}
  match findDesc s q d.idx with
  | some d => settleRemote s q { d with ran := true, done := x.written, status := x.status }
  | none => s

end Sys2Proof.Machine
end

