-- ==== Sys2Proof/Machine/SteerBase.lean ====
section
/-!
DEFINITION. What steering, Accords, calibration and redundancy share: tiles, slots, axes, mirrors and
loop engines (R300, R307), targets (R319), service states (R322, R327), ACCORD_WAIT (R180), steering
messages (R339), and sines for the dither waveforms (R331, R353).
-/

namespace Sys2Proof.Machine

/-! ## Sines -/

/-- π x 2^160, rounded down. -/
abbrev piFix : Nat := 4591442807048218921384805199743311128454155024418

/-- Taylor terms in units of 2^-160, from one term and the number of the next factor. -/
def taylor : Nat → Int → Int → Int → Int → Int
  | 0, _, _, _, acc => acc
  | n + 1, x, k, term, acc =>
    let t := -(term * x / 2 ^ 160 * x / 2 ^ 160) / (k * (k + 1))
    taylor n x (k + 2) t (acc + t)

def sinFix (x : Int) : Int := taylor 60 x 2 x x
def cosFix (x : Int) : Int := taylor 60 x 1 (2 ^ 160) (2 ^ 160)

/-- An integer quotient rounded to nearest. -/
def roundDiv (a b : Int) : Int := (2 * a + b) / (2 * b)

/-- The angle of a fraction of a turn, in units of 2^-160 radian. -/
def turnAngle (num den : Nat) : Int := Int.ofNat (2 * piFix * (num % max den 1) / max den 1)

/-- round(2^15 x sin) and round(2^15 x cos) of a fraction of a turn. -/
def sin15 (num den : Nat) : Int := roundDiv (sinFix (turnAngle num den) * 2 ^ 15) (2 ^ 160)
def cos15 (num den : Nat) : Int := roundDiv (cosFix (turnAngle num den) * 2 ^ 15) (2 ^ 160)

/-! ## Accessors -/

def tileOf (s : State) (t : Nat) : Tile := tget (fun _ => {}) s.ste.tiles t
def setTile (s : State) (t : Nat) (x : Tile) : State :=
  { s with ste := { s.ste with tiles := tset (fun _ => {}) s.ste.tiles t x } }

def slotOf (s : State) (k : Nat) : Slot := tget (fun _ => {}) s.ste.slots k
def setSlot (s : State) (k : Nat) (x : Slot) : State :=
  { s with ste := { s.ste with slots := tset (fun _ => {}) s.ste.slots k x } }

def axisOf (s : State) (a : Nat) : Axis := tget (fun _ => {}) s.ste.axes a
def setAxis (s : State) (a : Nat) (x : Axis) : State :=
  { s with ste := { s.ste with axes := tset (fun _ => {}) s.ste.axes a x } }

/-- The loop engine that carries an axis. -/
def axisEngine (s : State) (a : Nat) : Nat := (axisOf s a).engine.getD (a % 48)

/-- The axes that an engine carries. -/
def engineAxes (s : State) (e : Nat) : List Nat :=
  ((List.range 96).map (fun i => e + 48 * i)).filter (fun a => axisEngine s a == e) ++
    (s.ste.axes.filter fun x => x.1 % 48 != e && x.2.engine == some e).map Prod.fst

/-- Mirror states of `ACD.MIR_STAT` (R388): 0 parked to 6 UNLOCKED. -/
def mirOf (s : State) (m : Nat) : Nat := tget (fun _ => 0) s.ste.mirrors m
def setMir (s : State) (m st : Nat) : State :=
  { s with ste := { s.ste with mirrors := tset (fun _ => 0) s.ste.mirrors m st } }

/-- The last TAP of a mirror. -/
def tapOf (s : State) (m : Nat) : Nat := tget (fun _ => 0) s.ste.taps m

/-! ## Slot fields (LPE page) -/

def slotEn (x : Slot) : Bool := bitOf x.cfg 0
def slotHold (x : Slot) : Bool := bitOf x.cfg 1
def slotSrc (x : Slot) : Nat := fld x.cfg 4 3
def slotMeas (x : Slot) : Nat := fld x.cfg 8 2
def slotIdx (x : Slot) : Nat := fld x.cfg 12 3
def slotAsh (x : Slot) : Nat := fld x.cfg 16 5

/-- The signed value of a word. -/
def sw (w : Word) : Int := signed 32 w.toNat

/-- A word from an integer in range. -/
def ofI (i : Int) : Word := toWord (unsignedOf 32 i)

/-- sat of R309. [DEDUCED: log 64] -/
def sat32 (i : Int) : Int := clampI (-0x80000000) 0x7FFFFFFF i

/-- sh of R309: floor of the exact product over 2^n, saturated. -/
def sh (x : Int) (n : Nat) : Int := sat32 (x / Int.ofNat (2 ^ n))

/-! ## The present Accord (R258, R319) -/

def peerOf (t : AccTable) (i : Nat) : Nat := tget (fun _ => 0xFFFF) t.peers i
/-- [DEDUCED: log 68] -/
def kindOf (t : AccTable) (i : Nat) : Nat := tget (fun _ => 0) t.kinds i
def holdFlag (t : AccTable) (i : Nat) : Bool := tget (fun _ => false) t.holds i

/-- The port that feeds port `j`, 0xFFFF for none. -/
def feederOf (t : AccTable) (j : Nat) : Nat :=
  match t.peers.find? fun e => e.2 == j with
  | some e => e.1
  | none => 0xFFFF

/-- The target port of a mirror, 0xFFFF for none (R319). -/
def targetOf (t : AccTable) (m : Nat) : Nat := if m < 1152 then peerOf t m else feederOf t (m - 1152)

/-! ## Loop engines (R340) -/

/-- `LPE.PAGE_STAT` of a loop engine. -/
def lpeState (s : State) (e : Nat) : Nat :=
  let x := engOf s 0x40 e
  if x.testing then 0x13
  else if x.faulty then 0x14
  else if holdOf s 0x40 e then
    (if tget (fun _ => false) s.ste.draining e then 0x11 else 0x12)
  else 0x10

/-- Slots of one tile on an engine. -/
def tileSlotsOn (s : State) (e t : Nat) : Nat := 4 * ((engineAxes s e).filter fun a => a / 128 == t).length

/-- The target of a move (R308): the least-loaded RUNNING engine, lower number first, that stays within
the limits of R307. -/
def moveTarget (s : State) (a : Nat) : Option Nat :=
  let ok := (List.range 48).filter fun e =>
    lpeState s e == 0x10 && enOf s 0x40 e && 4 * (engineAxes s e).length + 4 ≤ 576 &&
      tileSlotsOn s e (a / 128) + 4 ≤ 16
  ok.foldl (fun (b : Option Nat) e =>
    match b with
    | none => some e
    | some f => if (engineAxes s e).length < (engineAxes s f).length then some e else some f) none

/-- Move an axis's four slots to the target engine (R308). -/
def moveAxis (s : State) (a : Nat) : State :=
  match moveTarget s a with
  | some e =>
    let x := axisOf s a
    setAxis s a { x with engine := if e == a % 48 then none else some e }
  | none => s

/-! ## In service (R322, R327, R365) -/

/-- The plane link is UP or DEGRADED. -/
def planeUp (s : State) : Bool := s.ste.lanes != 0#4 && !s.ste.training

/-- The mirror calibration of the module is valid (R365). [DEDUCED: log 137] -/
def calValid (s : State) : Bool := s.ste.storeCal || s.sel.fix.planeOk

/-- A mirror's calibration is valid. -/
def mirValid (s : State) (m : Nat) : Bool :=
  s.ste.storeCal || tget (fun _ => false) s.ste.mirCal m

/-- The slot is under auto-tune. -/
def underTune (s : State) (k : Nat) : Bool := s.ste.tune.running && s.ste.tune.slot == k

/-- An axis is in service (R322). -/
def axisInService (s : State) (a : Nat) : Bool :=
  let ks := (List.range 4).map fun k => 4 * a + k
  let en := ks.filter fun k => slotEn (slotOf s k)
  let t := tileOf s (a / 128)
  let e := lpeState s (axisEngine s a)
  en.any (fun k => slotSrc (slotOf s k) == 0) &&
    en.all (fun k => slotSrc (slotOf s k) == 0 || slotSrc (slotOf s k) == 1) &&
    ks.all (fun k => !underTune s k) && (e == 0x10 || e == 0x11) && !t.lost && !t.hv && mirValid s (a / 2)

/-- A mirror is in service when both of its axes are. -/
def mirInService (s : State) (m : Nat) : Bool := axisInService s (2 * m) && axisInService s (2 * m + 1)

/-- A circuit is out of service from commit until both mirrors end LOCKED or DARK (R329, R332). -/
def circuitUp (s : State) (i : Nat) : Bool :=
  let p := peerOf s.ste.present i
  let good (m : Nat) : Bool := mirOf s m == 4 || mirOf s m == 5
  p != 0xFFFF && good i && good (1152 + p)

/-- The redundancy state's code (R372). -/
def rcode : RState → Nat
  | .disabled => 0x10 | .waiting => 0x11 | .syncing => 0x12 | .standby => 0x13 | .contending => 0x14
  | .active => 0x15 | .yielded => 0x16

/-- The power-up calibration runs: from the first FIRMWARE after a module reset to its end (R361). -/
def powerCal (s : State) : Bool := s.boot.phase == .firmware && !s.boot.calibrated

/-- `ACD.SERVICE.STATE` (R327): 0 OUT_OF_SERVICE, 1 CALIBRATING, 2 STANDBY, 3 ACTIVE. [DEDUCED: log 67] -/
def service (s : State) : Nat :=
  if powerCal s then 1
  else if !planeUp s || !calValid s then 0
  else if s.rdn.st == .active then 3 else 2

/-- The module holds the claim (R306, R375). -/
def holdsClaim (s : State) : Bool := s.rdn.st == .active

/-! ## ACCORD_WAIT (R180) -/

def accWaitNum (d : Desc) : Word := toWord (leAt d.raw 24 4)
def accWaitPhase (d : Desc) : Nat := leAt d.raw 28 1

/-- An Accord number is reached by another one, across the wrap (R180). -/
def accReached (n want : Word) : Bool := (n - want).toNat ≤ 0x7FFFFFFF

/-- One released ACCORD_WAIT: STATE out of service, OK when its phase is reached. [DEDUCED: log 103] -/
def accordWaitRun (s : State) (q : Nat) (d : Desc) : State :=
  if service s ≤ 1 then finish s q d stSTATE 0
  else if accReached (if accWaitPhase d == 0 then s.ste.present.number else s.ste.doneNum) (accWaitNum d) then
    finish s q d stOK 0
  else s

/-- The released ACCORD_WAITs of the module. -/
def accordWaits (s : State) : List (Nat × Word) :=
  s.flow.queues.flatMap fun x =>
    (x.2.descs.filter fun d => d.stage == .released && dType d == tyACCORD && !d.ran).map fun d => (x.1, d.idx)

/-- Look at every waiting ACCORD_WAIT again. -/
def accWaitSettle (s : State) : State :=
  (accordWaits s).foldl (fun s w =>
    match running s w.1 w.2 tyACCORD with
    | some d => accordWaitRun s w.1 d
    | none => s) s

/-- The Accord of a number ended refused or aborted: its ACCORD_WAITs complete ABORTED. [DEDUCED: log 103] -/
def accWaitAbort (s : State) (n : Word) : State :=
  (accordWaits s).foldl (fun s w =>
    match running s w.1 w.2 tyACCORD with
    | some d => if accWaitNum d == n then finish s w.1 d stABORTED 0 else s
    | none => s) s

/-! ## Steering messages (R339, R391) -/

/-- The links to the partner that are UP. -/
def partnerLinks (s : State) : List Nat := upLinks s (partnerPos s)

def partnerUp (s : State) : Bool := !(partnerLinks s).isEmpty

/-- The partner link with the most steering credits and the fewest waiting messages (R283: CLASS 1 is
spread over the partner links that are UP). [DEDUCED: log 80] -/
def steerLink (s : State) : Option Nat :=
  let room (n : Nat) : Int := creditsOf (linkOf s n) 0 - Int.ofNat (64 * (linkOf s n).txq.length)
  (partnerLinks s).foldl (fun b n => match b with
    | some k => if room k < room n then some n else b
    | none => some n) none

/-- A steering message of the pair goes to the partner: a STEER message of CLASS 1 on a partner link. [DEDUCED: log 80] -/
def sendSteer (s : State) (sub : Nat) (m : SteerMsg) : State :=
  match steerLink s with
  | none => s
  | some n =>
    let pad := m.data ++ zeros (roundUp 64 m.data.length - m.data.length)
    let body := [BitVec.ofNat 8 sub, 0#8, 0#8, 0#8] ++ beBytes 4 m.b28.toNat ++ beBytes 2 m.b32.toNat ++
      beBytes 2 m.b34.toNat ++ beBytes 4 m.b36.toNat
    let o := ownMsg s 0x0A 0 0#16 (partnerPos s * 2 ^ 44)
    let s := send s (.steer sub { m with link := n })
    sendMsg s n { o with hdr := { o.hdr with cls := 1#8, body := body, data := pad } }

/-- The SEQ of the last tile-0 sample. -/
def seq0 (s : State) : Word := (tileOf s 0).seq

/-- The contents of a STATUS message (R391): byte 32 and 33, and the data. -/
def statusBytes (s : State) (eligible : Bool) : List Byte :=
  let lost := (List.range 36).foldl (fun m t => if (tileOf s t).lost then m + 2 ^ t else m) 0
  [BitVec.ofNat 8 (rcode s.rdn.st),
    BitVec.ofNat 8 (b2n eligible + 2 * b2n s.rdn.checking + 4 * b2n s.rdn.stale)] ++
    leBytes 5 lost ++ beBytes 4 s.ste.present.number.toNat

/-- Send STATUS. -/
def sendStatus (s : State) (eligible : Bool) : State :=
  let b := statusBytes s eligible
  let s := { s with rdn := { s.rdn with lastStatus := b } }
  sendSteer s 0x11 { b28 := seq0 s, b32 := BitVec.ofNat 16 (beAt b 0 2), b34 := 0#16, b36 := 0#32, data := b.drop 2 }

end Sys2Proof.Machine
end

