-- ==== Sys2Proof/Machine/AccordTable.lean ====
section
/-!
DEFINITION. Accord tables: their layout (R258), the mirrors that a table moves (R330), and validation
against a base table (R259).
-/

namespace Sys2Proof.Machine

/-- A list cut into pieces of `k`; `fuel` bounds their number. -/
def pieces {α : Type} (k : Nat) : Nat → List α → List (List α)
  | 0, _ => []
  | n + 1, l => if l.isEmpty then [] else l.take k :: pieces k n (l.drop k)

/-- The entries of a table's bytes: PEER, KIND, FLAGS, in port order. -/
def rawEntries (raw : List Byte) : List (Nat × Nat × Nat) :=
  (pieces 4 1152 (raw.drop 64)).map fun e => (leAt e 0 2, leAt e 2 1, leAt e 3 1)

/-- A sparse table from a list of values that are not the default. -/
def sparse {α : Type} [DecidableEq α] (d : α) (l : List α) : Tbl α :=
  (l.zip (List.range l.length)).filterMap fun x => if x.1 = d then none else some (x.2, x.1)

/-- The table that bytes spell. -/
def parseTable (raw : List Byte) : AccTable :=
  let es := rawEntries raw
  { number := toWord (leAt raw 12 4)
    base := toWord (leAt raw 16 4)
    peers := sparse 0xFFFF (es.map Prod.fst)
    kinds := sparse 0 (es.map fun e => e.2.1)
    holds := sparse false (es.map fun e => e.2.2 % 2 == 1) }

/-- The bytes of a table of a plane, based on the Accord named (R258). -/
def tableBytes (plane : Nat) (base : Word) (t : AccTable) : List Byte :=
  let es := (List.range 1152).flatMap fun i =>
    leBytes 2 (peerOf t i) ++ leBytes 1 (kindOf t i) ++ leBytes 1 (b2n (holdFlag t i))
  let head := [0x4B#8, 0x41#8, 0x54#8, 0x31#8] ++ leBytes 2 1 ++ leBytes 2 1152 ++ leBytes 2 plane ++ zeros 2 ++
    leBytes 4 t.number.toNat ++ leBytes 4 base.toNat ++ zeros 40
  head ++ leBytes 4 (crc32c (head ++ zeros 4 ++ es)).toNat ++ es

/-- Changed entries of a table against its base. -/
def changedEntries (b t : AccTable) : List Nat := (List.range 1152).filter fun i => peerOf b i != peerOf t i

/-- The moved mirrors in the sequencer's order (R330): each changed entry with a circuit gives its
transmit and its receive mirror; then the remaining ones in ascending order. -/
def movedMirrors (b t : AccTable) : List Nat :=
  let ch := changedEntries b t
  let first := (ch.filter fun i => peerOf t i != 0xFFFF).flatMap fun i => [i, 1152 + peerOf t i]
  let rxMoved := (List.range 1152).filter fun j => feederOf b j != feederOf t j
  let rest := (ch ++ rxMoved.map (1152 + ·)).filter fun m => !first.contains m
  first ++ rest

/-- Validation of a table's bytes against base B (R259): status and detail, OK with 0. -/
def validateTable (s : State) (raw : List Byte) (b : AccTable) : Nat × Nat :=
  let t := parseTable raw
  let es := rawEntries raw
  let magic := slice raw 0 4 == [0x4B#8, 0x41#8, 0x54#8, 0x31#8] && leAt raw 4 2 == 1 && leAt raw 6 2 == 1152 &&
    leAt raw 10 2 == 0 && slice raw 20 40 == zeros 40 && es.all fun e => e.2.1 ≤ 2 && e.2.2 ≤ 1
  let d := (t.number - b.number).toNat
  let peers := t.peers.map Prod.snd
  let dark (i : Nat) : Bool :=
    match s.ste.portMap with
    | some m => (tget (fun _ => ({} : MapEntry)) m.entries i).kind == 2
    | none => false
  if !magic then (stRANGE, 0x20)
  else if crc32c (raw.take 60 ++ zeros 4 ++ raw.drop 64) != toWord (leAt raw 60 4) then (stCHECK, 0x21)
  else if leAt raw 8 2 != planeNo s then (stRANGE, 0x22)
  else
    match s.ste.portMap with
    | none => (stNOTREADY, 0x23)
    | some m =>
      if d == 0 || 0x7FFFFFFF < d then (stORDER, 0x24)
      else if toWord (leAt raw 16 4) != b.number then (stORDER, 0x25)
      else if t.peers.any fun e => 1151 < e.2 || e.2 == e.1 then (stRANGE, 0x26)
      else if !(decide peers.Nodup) then (stRANGE, 0x27)
      else if (List.range 1152).any fun i =>
        kindOf t i != (tget (fun _ => ({} : MapEntry)) m.entries i).kind then (stRANGE, 0x28)
      else if t.peers.any fun e => dark e.1 || dark e.2 then (stRANGE, 0x29)
      else if t.holds.any fun e => peerOf t e.1 != peerOf b e.1 then (stRANGE, 0x2A)
      else if (movedMirrors b t).any fun x => !mirInService s x then (stNOTREADY, 0x2B)
      else (stOK, 0)

end Sys2Proof.Machine
end

