-- ==== Sys2Proof/Machine/PlanOps.lean ====
section
/-!
DEFINITION. The planning array (R242 to R262): demand matrices, Sinkhorn scaling, auctions,
decomposition into Accord tables, GEMM, VALIDATE and SNAPSHOT, with the cycle costs that the budget
rule counts and the result header.
-/

namespace Sys2Proof.Machine

/-! ## The parameter block (R243, R250, R261) -/

def planParam (d : Desc) : Nat := leAt d.raw 24 8
def planOut (d : Desc) : Nat := leAt d.raw 32 8

def pMode (d : Desc) : Nat := leAt d.param 0 1
def pDfmt (d : Desc) : Nat := leAt d.param 1 1
def pK (d : Desc) : Nat := leAt d.param 2 2
def pStride (d : Desc) : Nat := leAt d.param 4 2
def pPmax (d : Desc) : Nat := leAt d.param 6 1
def pDemand (d : Desc) : Nat := leAt d.param 8 8
def pPorts (d : Desc) : Nat := leAt d.param 16 8
def pWork (d : Desc) : Nat := leAt d.param 24 8
def pPins (d : Desc) : Nat := leAt d.param 32 8
def pNpins (d : Desc) : Nat := leAt d.param 40 2
def pIter (d : Desc) : Nat := leAt d.param 44 4
def pTol (d : Desc) : Nat := leAt d.param 48 4
def pFloor (d : Desc) : Nat := leAt d.param 52 4
def pEps (d : Desc) : Nat := leAt d.param 56 4
def pBids (d : Desc) : Nat := leAt d.param 60 4
def pMinW (d : Desc) : Nat := leAt d.param 64 4
def pStop (d : Desc) : Nat := leAt d.param 68 4
def pBudget (d : Desc) : Nat := leAt d.param 72 4
def pFirst (d : Desc) : Nat := leAt d.param 76 4

abbrev mSCHEDULE : Nat := 1
abbrev mASSIGN : Nat := 2
abbrev mSINKHORN : Nat := 3
abbrev mGEMM : Nat := 4
abbrev mVALIDATE : Nat := 5
abbrev mSNAPSHOT : Nat := 6

/-- Bytes of WORK (R250). -/
def workBytes (k : Nat) : Nat := roundUp 64 (4 * k * k + 16 * k)

/-- The OUT size that a mode needs (R257). -/
def outBytesNeeded (d : Desc) : Nat :=
  if pMode d == mSCHEDULE || pMode d == mASSIGN then 320 + 4672 * pPmax d
  else if pMode d == mSINKHORN then 64 + pK d * roundUp 64 (4 * pK d)
  else 64

/-! ## Costs (R256) -/

def tConv (k : Nat) : Nat := (k * k + 255) / 256
def tPass (k : Nat) : Nat := (k * k + 511) / 512 + 32
def tBid (k : Nat) : Nat := (k + 127) / 128 + 8

/-- The auction reserve, the step and the output reserve of a mode. -/
def wAuc (d : Desc) : Nat := if pMode d == mSINKHORN then 0 else (pBids d + pK d) * tBid (pK d) + 512
def tStep (d : Desc) : Nat := if pMode d == mSINKHORN then 0 else 256
def tOut (d : Desc) : Nat := 2000 + 500 * (if pMode d == mSINKHORN then 0 else pPmax d)

/-- The mandatory path. -/
def planPath (d : Desc) : Nat :=
  tConv (pK d) + tPass (pK d) + tConv (pK d) + wAuc d + tStep d + tOut d

/-- Cost factor: a halved issue rate doubles every cost (R244). -/
def planFactor (s : State) (die : Nat) : Nat := if issueHalf s die then 2 else 1

/-! ## The problem (R248, R251) -/

/-- What a PLAN counts and reports. -/
structure PlanRes where
  flags : Nat := 0
  iter : Nat := 0
  dev : Nat := 0
  covered : Nat := 0
  bids : Nat := 0
  cycles : Nat := 0
  bad : Nat := 0
  unplaced : Nat := 0
  kept : Nat := 0
  deriving DecidableEq, Repr

/-- Port numbers in memory, 2 bytes each. -/
def portList (s : State) (a n : Nat) : List Nat :=
  (List.range n).map fun i => leNat (readBytes s (a + 2 * i) 2)

/-- The port lists are faulty (R251). -/
def portsFaulty (s : State) (ports pins : List Nat) : Bool :=
  let dark (p : Nat) : Bool :=
    match s.ste.portMap with
    | some m => (tget (fun _ => ({} : MapEntry)) m.entries p).kind == 2
    | none => false
  let bad (p : Nat) : Bool := 1151 < p || dark p
  ports.any bad || pins.any bad || !(decide ports.Nodup) || !(decide pins.Nodup) ||
    pins.any fun x =>
      let y := peerOf s.ste.present x
      y == 0xFFFF || !ports.contains x || !ports.contains y

/-- One demand element as FP32, and whether it was bad (R248). -/
def demandElem (s : State) (d : Desc) (i j : Nat) : Nat × Bool :=
  let row := pDemand d + i * pStride d * 64
  let v :=
    if pDfmt d == 0x10 then
      let x := signed 32 (leNat (readBytes s (row + 4 * j) 4))
      (fp32Round (.fin (decide (x < 0)) x.natAbs 0)).1
    else if pDfmt d == 1 then (toFp32 (fpDecode fmtBF16 (leNat (readBytes s (row + 2 * j) 2)))).1
    else leNat (readBytes s (row + 4 * j) 4)
  if fp32IsNan v || fp32IsInf v || (v.testBit 31 && v % 2 ^ 31 != 0) then (0, true) else (v, false)

/-- The rows and columns of the problem, as indexes into PORTS. -/
def probRows (ports pins : List Nat) : List Nat :=
  (List.range ports.length).filter fun i => !pins.contains (ports.getD i 0)

def probCols (s : State) (ports pins : List Nat) : List Nat :=
  let gone := pins.map fun x => peerOf s.ste.present x
  (List.range ports.length).filter fun j => !gone.contains (ports.getD j 0)

/-- A matrix over rows and columns: values row by row, the forbidden cells 0. -/
abbrev Mat : Type := List (List Nat)

/-- A (R252) and the count of bad elements. -/
def planA (s : State) (d : Desc) (rows cols : List Nat) : Mat × Nat :=
  rows.foldl (fun (p : Mat × Nat) i =>
    let (r, b) := cols.foldl (fun (q : List Nat × Nat) j =>
      if i == j then (q.1 ++ [0], q.2)
      else
        let (v, bad) := demandElem s d i j
        (q.1 ++ [fp32Add v (pFloor d)], q.2 + b2n bad)) ([], p.2)
    (p.1 ++ [r], b)) ([], 0)

/-- FP32 sum in ascending order. -/
def sumFp (l : List Nat) : Nat := l.foldl fp32Add 0

/-- 1 / u correctly rounded. -/
def rcpRound (u : Nat) : Nat :=
  match fp32Val u with
  | .nan => nan32
  | .inf n => fpSign fmtFP32 n 0
  | .fin n m e =>
    if m == 0 then fpInfCode fmtFP32 n
    else (fp32Round (.fin n (2 * (2 ^ 200 / m) + b2n (2 ^ 200 % m != 0)) (-201 - e))).1

/-- a ≤ b of FP32 numbers that are not NaN. -/
def fp32Le (a b : Nat) : Bool :=
  !fp32IsNan a && !fp32IsNan b && (fp32Key a ≤ fp32Key b || (a % 2 ^ 31 == 0 && b % 2 ^ 31 == 0))

def fp32Lt (a b : Nat) : Bool := !fp32IsNan a && !fp32IsNan b && !fp32Le b a

/-- The columns of a matrix. -/
def matCols (n : Nat) (a : Mat) : Mat := (List.range n).map fun j => a.map fun r => r.getD j 0

/-- A row pass: u, and DEV. -/
def rowPass (a : Mat) (r c : List Nat) : List Nat × Nat :=
  let u := a.map fun row => sumFp (List.zipWith fp32Mul row c)
  let dev := (List.zipWith fp32Mul r u).foldl (fun m x => fp32Max m (clearSign (fp32Sub x 0x3F800000))) 0
  (u, dev)

/-- A column pass: v. -/
def colPass (a : Mat) (r : List Nat) (n : Nat) : List Nat :=
  (matCols n a).map fun col => sumFp (List.zipWith fp32Mul r col)

/-- The Sinkhorn loop (R252): r, c and what is reported. `f` is the cost factor. -/
def sinkLoop (d : Desc) (f : Nat) (a : Mat) (n : Nat) :
    Nat → List Nat → List Nat → PlanRes → List Nat × List Nat × PlanRes
  | 0, r, c, p => (r, c, p)
  | fuel + 1, r, c, p =>
    let (u, dev) := rowPass a r c
    let p := { p with dev := dev, cycles := p.cycles + f * tPass (pK d) }
    let need := f * (tPass (pK d) + tPass (pK d) + tConv (pK d) + wAuc d + tStep d + tOut d)
    if fp32Le dev (pTol d) || p.iter == pIter d || pBudget d * 1600 < p.cycles + need then (r, c, p)
    else
      let r := u.map rcpRound
      let c := (colPass a r n).map rcpRound
      sinkLoop d f a n fuel r c { p with iter := p.iter + 1, cycles := p.cycles + f * tPass (pK d) }

/-- S (R252), with the NOCONV flag. -/
def sinkhorn (d : Desc) (f : Nat) (a : Mat) (n : Nat) (p : PlanRes) : Mat × PlanRes :=
  let one := 0x3F800000
  let (r, c, p) := sinkLoop d f a n (pIter d + 2) (a.map fun _ => one) (List.replicate n one) p
  let s := List.zipWith (fun row ri => List.zipWith (fun x cj => fp32Mul (fp32Mul ri x) cj) row c) a r
  let no := 1 ≤ pIter d && !fp32Le p.dev (pTol d)
  (s, { p with cycles := p.cycles + f * tConv (pK d), flags := p.flags ||| b2n no })

/-! ## Auctions (R253) -/

/-- An auction: prices, the row that holds each column, bids made. -/
structure Auc where
  price : List Nat
  owner : List (Option Nat)
  bids : Nat := 0
  deriving DecidableEq, Repr

/-- A row's allowed columns with value minus price: (column position, value). -/
def bidValues (rows cols : List Nat) (w : Mat) (price : List Nat) (i : Nat) : List (Nat × Nat) :=
  ((List.range cols.length).filter fun j => cols[j]? != rows[i]?).map fun j =>
    (j, fp32Sub ((w.getD i []).getD j 0) (price.getD j 0))

/-- The best value, at the lowest column on ties. -/
def bestOf (l : List (Nat × Nat)) : Option (Nat × Nat) :=
  l.foldl (fun (b : Option (Nat × Nat)) x =>
    match b with
    | none => some x
    | some y => if fp32Lt y.2 x.2 then some x else some y) none

/-- The lowest unassigned row. -/
def lowestFree (n : Nat) (owner : List (Option Nat)) : Option Nat :=
  (List.range n).find? fun i => !owner.contains (some i)

/-- One bid. -/
def bidStep (rows cols : List Nat) (w : Mat) (eps : Nat) (x : Auc) (i : Nat) : Auc :=
  let l := bidValues rows cols w x.price i
  match bestOf l with
  | none => { x with bids := x.bids + 1 }
  | some (j1, b1) =>
    let b2 := match bestOf (l.filter fun y => y.1 != j1) with | some y => y.2 | none => b1
    { price := x.price.set j1 (fp32Add (fp32Add (x.price.getD j1 0) (fp32Sub b1 b2)) eps)
      owner := x.owner.set j1 (some i)
      bids := x.bids + 1 }

/-- The bids of a phase. [DEDUCED: log 60] -/
def bidLoop (rows cols : List Nat) (w : Mat) (eps maxBids : Nat) : Nat → Auc → Auc
  | 0, x => x
  | fuel + 1, x =>
    if maxBids ≤ x.bids then x
    else
      match lowestFree rows.length x.owner with
      | none => x
      | some i => bidLoop rows cols w eps maxBids fuel (bidStep rows cols w eps x i)

/-- x / 8, exactly as FP32 multiplication by 2^-3. -/
def eighth (x : Nat) : Nat := fp32Mul x 0x3E000000

/-- The phases: the auction, and how many ran. -/
def aucPhases (rows cols : List Nat) (w : Mat) (maxBids epsRel maxw : Nat) : Nat → Nat → Nat → Auc → Auc × Nat
  | 0, _, n, x => (x, n)
  | fuel + 1, eps, n, x =>
    let x := bidLoop rows cols w eps maxBids maxBids { x with owner := cols.map fun _ => none }
    let low := fp32Mul epsRel maxw
    if fp32Le eps low || maxBids ≤ x.bids then (x, n + 1)
    else aucPhases rows cols w maxBids epsRel maxw fuel (fp32Max (eighth eps) low) (n + 1) x

/-- The completion step for one row. [DEDUCED: log 60] -/
def completeRow (rows cols : List Nat) (w : Mat) (owner : List (Option Nat)) (i : Nat) : List (Option Nat) :=
  let free := (List.range cols.length).filter fun j => owner.getD j none == none
  let ok := (free.filter fun j => cols[j]? != rows[i]?).map fun j => (j, (w.getD i []).getD j 0)
  match bestOf ok with
  | some (j, _) => owner.set j (some i)
  | none =>
    match free.head?, (List.range rows.length).find? fun r => owner.contains (some r) with
    | some own, some r =>
      let j := owner.findIdx (fun o => o == some r)
      (owner.set j (some i)).set own (some r)
    | _, _ => owner

/-- An auction with its completion: π as the column position of each row, bids, completion steps,
phases, and whether it ended on MAX_BIDS. [DEDUCED: log 60] -/
def auction (d : Desc) (rows cols : List Nat) (w : Mat) : List Nat × Nat × Nat × Nat × Bool :=
  let maxw := w.foldl (fun m r => r.foldl fp32Max m) 0
  let start : Auc := { price := cols.map fun _ => 0, owner := cols.map fun _ => none }
  let (x, phases) :=
    if maxw % 2 ^ 31 == 0 then (start, 0)
    else aucPhases rows cols w (pBids d) (pEps d) maxw 16 (eighth maxw) 0 start
  let left := (List.range rows.length).filter fun i => !x.owner.contains (some i)
  let owner := left.foldl (completeRow rows cols w) x.owner
  ((List.range rows.length).map fun i => owner.findIdx (fun o => o == some i), x.bids, left.length, phases,
    pBids d ≤ x.bids)

/-- The cycles of an auction. -/
def aucCycles (d : Desc) (f bids done phases : Nat) : Nat := f * ((bids + done) * tBid (pK d) + 64 * phases)

/-- The values of a permutation. -/
def permValues (w : Mat) (pi : List Nat) : List Nat := List.zipWith (fun r j => r.getD j 0) w pi

/-- Account an auction. -/
def aucCount (d : Desc) (f : Nat) (p : PlanRes) (bids done phases : Nat) (greedy : Bool) : PlanRes :=
  { p with
    bids := p.bids + bids
    cycles := p.cycles + aucCycles d f bids done phases
    flags := if greedy then p.flags ||| 32 else p.flags }

/-! ## Decomposition (R254) -/

/-- Kept permutations with their weights, and why the loop ended. The number of auctions that ended
greedy is the last component. -/
def decompose (d : Desc) (f : Nat) (rows cols : List Nat) :
    Nat → Mat → List (List Nat × Nat) → Nat → PlanRes → List (List Nat × Nat) × Nat × PlanRes
  | 0, _, ks, g, p => (ks, g, p)
  | fuel + 1, r, ks, g, p =>
    let n := ks.length
    if n == pPmax d then (ks, g, { p with flags := p.flags ||| 16 })
    else if 1 ≤ n && fp32Le (fp32Sub 0x3F800000 p.covered) (pStop d) then
      (ks, g, { p with flags := p.flags ||| 8 })
    else if 1 ≤ n && pBudget d * 1600 < p.cycles + f * (wAuc d + tStep d + tOut d) then
      (ks, g, { p with flags := p.flags ||| 2 })
    else
      let (pi, bids, done, phases, greedy) := auction d rows cols r
      let p := aucCount d f p bids done phases greedy
      let g := g + b2n greedy
      let vs := permValues r pi
      let lam := vs.foldl fp32Min (vs.headD 0)
      let p := { p with cycles := p.cycles + f * 256 }
      if fp32Lt lam (pMinW d) && 1 ≤ n then (ks, g, { p with flags := p.flags ||| 4 })
      else
        let p := if fp32Lt lam (pMinW d) then { p with flags := p.flags ||| 4 } else p
        let r := List.zipWith (fun row j => row.set j (fp32Sub (row.getD j 0) lam)) r pi
        decompose d f rows cols fuel r (ks ++ [(pi, lam)]) g
          { p with covered := fp32Add p.covered lam, kept := n + 1 }

/-! ## Tables (R255) -/

/-- The table of a permutation. -/
def permTable (s : State) (ports pins rows cols pi : List Nat) : AccTable :=
  let b := s.ste.present
  let peer (i : Nat) : Nat :=
    if pins.contains i then peerOf b i
    else if ports.contains i then
      let k := ports.findIdx (· == i)
      let r := rows.findIdx (· == k)
      ports.getD (cols.getD (pi.getD r 0) 0) 0xFFFF
    else
      let p := peerOf b i
      if p != 0xFFFF && !ports.contains p then p else 0xFFFF
  let kind (i : Nat) : Nat :=
    match s.ste.portMap with
    | some m => (tget (fun _ => ({} : MapEntry)) m.entries i).kind
    | none => 0
  { number := 0#32
    peers := sparse 0xFFFF ((List.range 1152).map peer)
    kinds := sparse 0 ((List.range 1152).map kind)
    holds := sparse false ((List.range 1152).map fun i => pins.contains i) }

/-- Greedy order: from the present table, the table that differs in the fewest entries comes next. -/
def orderTables : Nat → AccTable → List (AccTable × Nat) → List (AccTable × Nat)
  | 0, _, _ => []
  | n + 1, b, l =>
    match l with
    | [] => []
    | x :: _ =>
      let best := l.foldl (fun m y =>
        if (changedEntries b y.1).length < (changedEntries b m.1).length then y else m) x
      best :: orderTables n best.1 (l.erase best)

/-- Validate tables in order: bytes of each, first failure (index, status, detail). -/
def numberTables (s : State) (first : Nat) (l : List (AccTable × Nat)) :
    List (List Byte) × Option (Nat × Nat × Nat) :=
  (l.zip (List.range l.length)).foldl (fun (p : (List (List Byte) × Option (Nat × Nat × Nat)) × AccTable) x =>
    let t := { x.1.1 with number := toWord (first + x.2) }
    let raw := tableBytes (planeNo s) p.2.number t
    let (st, det) := validateTable s raw p.2
    ((p.1.1 ++ [raw], match p.1.2 with
      | some e => some e
      | none => if st == stOK then none else some (x.2, st, det)), t)) ((([], none), s.ste.present)) |>.1

/-! ## Results (R257) -/

def planHeader (d : Desc) (p : PlanRes) (st det : Nat) (bad : Nat) : List Byte :=
  [0x4B#8, 0x50#8, 0x52#8, 0x31#8] ++ leBytes 1 (pMode d) ++ leBytes 1 p.kept ++ leBytes 2 p.flags ++
    leBytes 2 st ++ leBytes 1 det ++ leBytes 1 bad ++ leBytes 4 p.iter ++ leBytes 4 p.dev ++
    leBytes 4 p.covered ++ leBytes 4 p.bids ++ leBytes 4 p.cycles ++ leBytes 4 p.bad ++
    leBytes 4 (min p.unplaced 0xFFFFFFFF) ++ zeros 24

/-- The end of a PLAN: its header and data at OUT, the page's records, and the completion (R257, R260). [DESIGN CHOICE: log 59] -/
def planEnd (s : State) (q : Nat) (d : Desc) (p : PlanRes) (st det bad greedy : Nat) (data : List Byte) : State :=
  let die := q / 16
  let (w, s) := writeMem s (planOut d) (planHeader d p st det bad ++ data)
  let st := if st == stOK then w else st
  let at' (r : Nat) : Nat := Reg.at r die
  let s := setRegN s (at' Reg.PLN_LAST_STATUS) (st + det * 2 ^ 16 + pMode d * 2 ^ 24)
  let s := setRegN s (at' Reg.PLN_LAST_CYCLES) p.cycles
  let s := setRegN s (at' Reg.PLN_LAST_DEV) p.dev
  let s := setRegN s (at' Reg.PLN_LAST_COVERED) p.covered
  let s := setRegN s (at' Reg.PLN_LAST_BIDS) p.bids
  let s := bumpReg s (at' Reg.PLN_CNT_BADELEM) p.bad
  let s := if p.flags.testBit 1 then raiseIrq (bumpReg s (at' Reg.PLN_CNT_BUDGET) 1) 0x47 die 2 else s
  let s := if p.flags.testBit 0 then raiseIrq (bumpReg s (at' Reg.PLN_CNT_NOCONV) 1) 0x47 die 3 else s
  let s := if 0 < greedy then raiseIrq (bumpReg s (at' Reg.PLN_CNT_GREEDY) greedy) 0x47 die 4 else s
  finish s q d st det

/-- The working space holds no stated values after a PLAN: free bytes. [DEDUCED: log 32; DESIGN CHOICE: log 59] -/
def scramble (s : State) (a n : Nat) : State :=
  let k := s.fresh
  let bs := (List.range n).map fun i => (Config.freeBits (k + i)).setWidth 8
  { (writeMem s a bs).2 with fresh := k + n }

/-- The byte ranges that SCHEDULE, ASSIGN, SINKHORN and SNAPSHOT read. -/
def planReadList (d : Desc) : List (Nat × Nat) :=
  let es := if pDfmt d == 1 then 2 else 4
  [(pPorts d, 2 * pK d), (pPins d, 2 * pNpins d)] ++
    (List.range (pK d)).map fun i => (pDemand d + i * pStride d * 64, pK d * es)

/-- The first failing status of those reads. [DESIGN CHOICE: log 59] -/
def planReads (s : State) (d : Desc) : Nat :=
  (planReadList d).foldl (fun st r => if st == stOK && r.2 != 0 then rangeReadStatus s r.1 r.2 else st) stOK

/-- SCHEDULE, ASSIGN and SINKHORN up to S: either an end with a status, or the problem. -/
def planProblem (s : State) (q : Nat) (d : Desc) :
    State ⊕ (List Nat × List Nat × List Nat × List Nat × Mat × PlanRes) :=
  let st := planReads s d
  if st != stOK then .inl (planEnd s q d {} st 0 0xFF 0 [])
  else
    let ports := portList s (pPorts d) (pK d)
    let pins := portList s (pPins d) (pNpins d)
    if portsFaulty s ports pins then .inl (planEnd s q d {} stRANGE 0x13 0xFF 0 [])
    else
      let f := planFactor s (q / 16)
      let rows := probRows ports pins
      let cols := probCols s ports pins
      let (a, bad) := planA s d rows cols
      let p : PlanRes := { bad := bad, cycles := f * tConv (pK d) }
      let (m, p) := sinkhorn d f a cols.length p
      .inr (ports, pins, rows, cols, m, p)

/-- SINKHORN: S over all K rows and columns. -/
def sinkhornRun (s : State) (q : Nat) (d : Desc) : State :=
  match planProblem s q d with
  | .inl s => s
  | .inr (_, _, rows, cols, m, p) =>
    let f := planFactor s (q / 16)
    let row (i : Nat) : List Byte :=
      let r := rows.findIdx (· == i)
      let vs := (List.range (pK d)).map fun j =>
        let c := cols.findIdx (· == j)
        if r < rows.length && c < cols.length then (m.getD r []).getD c 0 else 0
      let bs := vs.flatMap fun v => leBytes 4 v
      bs ++ zeros (roundUp 64 bs.length - bs.length)
    planEnd (scramble s (pWork d) (workBytes (pK d))) q d { p with cycles := p.cycles + f * 2000 } stOK 0 0xFF 0
      ((List.range (pK d)).flatMap row)

/-- The end of SCHEDULE and ASSIGN: order, number, validate and write the tables. -/
def tablesEnd (s : State) (q : Nat) (d : Desc) (ports pins rows cols : List Nat)
    (ks : List (List Nat × Nat)) (g : Nat) (p : PlanRes) : State :=
  let f := planFactor s (q / 16)
  let ts := orderTables ks.length s.ste.present
    (ks.map fun k => (permTable s ports pins rows cols k.1, k.2))
  let (raws, fail) := numberTables s (pFirst d) ts
  let weights := (ts.map fun t => t.2).flatMap fun w => leBytes 4 w
  let p := { p with cycles := p.cycles + f * (2000 + 500 * ks.length), kept := ks.length }
  let (bad, st, det) := match fail with | some x => x | none => (0xFF, stOK, 0)
  planEnd (scramble s (pWork d) (workBytes (pK d))) q d p st det bad g
    (weights ++ zeros (256 - weights.length) ++ raws.flatten)

/-- SCHEDULE (R254). -/
def scheduleRun (s : State) (q : Nat) (d : Desc) : State :=
  match planProblem s q d with
  | .inl s => s
  | .inr (ports, pins, rows, cols, m, p) =>
    let (ks, g, p) := decompose d (planFactor s (q / 16)) rows cols (pPmax d + 1) m [] 0 p
    tablesEnd s q d ports pins rows cols ks g p

/-- ASSIGN (R253): one auction on S, weight 1.0, COVERED the permutation's sum. -/
def assignRun (s : State) (q : Nat) (d : Desc) : State :=
  match planProblem s q d with
  | .inl s => s
  | .inr (ports, pins, rows, cols, m, p) =>
    let f := planFactor s (q / 16)
    let (pi, bids, done, phases, greedy) := auction d rows cols m
    let p := aucCount d f p bids done phases greedy
    let p := { p with cycles := p.cycles + f * 256, covered := sumFp (permValues m pi) }
    tablesEnd s q d ports pins rows cols [(pi, 0x3F800000)] (b2n greedy) p

/-! ## GEMM (R261, R262) -/

def gM (d : Desc) : Nat := leAt d.param 8 4
def gN (d : Desc) : Nat := leAt d.param 12 4
def gK (d : Desc) : Nat := leAt d.param 16 4
def gLda (d : Desc) : Nat := leAt d.param 20 2
def gLdb (d : Desc) : Nat := leAt d.param 22 2
def gLdc (d : Desc) : Nat := leAt d.param 24 2
def gA (d : Desc) : Nat := leAt d.param 32 8
def gB (d : Desc) : Nat := leAt d.param 40 8
def gC (d : Desc) : Nat := leAt d.param 48 8
def gBias (d : Desc) : Nat := leAt d.param 56 8
def gAlpha (d : Desc) : Nat := leAt d.param 64 4
def gBeta (d : Desc) : Nat := leAt d.param 68 4
def gAf (d : Desc) : Nat := leAt d.param 1 1
def gBf (d : Desc) : Nat := leAt d.param 2 1
def gCf (d : Desc) : Nat := leAt d.param 3 1
def gEpi (d : Desc) : Nat := leAt d.param 4 1

/-- An element of a stored matrix as an FP32 code. -/
def gElem (s : State) (base ld fmt i j : Nat) : Nat :=
  let sz := elemBytes fmt
  match scalarFmt fmt with
  | some f => (toFp32 (fpDecode f (leNat (readBytes s (base + i * ld * 64 + j * sz) sz)))).1
  | none => 0

/-- BETA is not 0 (a zero of either sign is 0). -/
def gBetaOn (d : Desc) : Bool := gBeta d % 2 ^ 31 != 0

/-- One element of C. -/
def gemmElem (s : State) (d : Desc) (i j : Nat) : List Byte :=
  let sum := (List.range (gK d)).foldl (fun acc k =>
    fp32Fma (gElem s (gA d) (gLda d) (gAf d) i k) (gElem s (gB d) (gLdb d) (gBf d) k j) acc) 0
  let t := fp32Mul (gAlpha d) sum
  let t := if gBetaOn d then fp32Fma (gBeta d) (gElem s (gC d) (gLdc d) (gCf d) i j) t else t
  let t := if gBias d != 0 then fp32Add t (leNat (readBytes s (gBias d + 4 * j) 4)) else t
  let t := if gEpi d == 1 then fp32Max t 0 else t
  if gCf d == 1 then leBytes 2 (quantScalar 1 fmtBF16 false .rne (fp32Val t)).1 else leBytes 4 t

/-- The byte ranges that GEMM reads. -/
def gemmReads (d : Desc) : List (Nat × Nat) :=
  (List.range (gM d)).map (fun i => (gA d + i * gLda d * 64, gK d * elemBytes (gAf d))) ++
    (List.range (gK d)).map (fun i => (gB d + i * gLdb d * 64, gN d * elemBytes (gBf d))) ++
    (if gBetaOn d then (List.range (gM d)).map (fun i => (gC d + i * gLdc d * 64, gN d * elemBytes (gCf d))) else []) ++
    (if gBias d != 0 then [(gBias d, 4 * gN d)] else [])

/-- GEMM's cycles. -/
def gemmCycles (d : Desc) : Nat :=
  let ke := if gAf d == 1 then gK d else (gK d + 1) / 2
  256 + (gM d + 127) / 128 * ((gN d + 127) / 128) * (ke + 128)

def gemmRun (s : State) (q : Nat) (d : Desc) : State :=
  let st := (gemmReads d).foldl (fun st r => if st == stOK then rangeReadStatus s r.1 r.2 else st) stOK
  let p : PlanRes := { cycles := planFactor s (q / 16) * gemmCycles d }
  if st != stOK then planEnd s q d {} st 0 0xFF 0 []
  else
    let rows := (List.range (gM d)).map fun i =>
      (gC d + i * gLdc d * 64, (List.range (gN d)).flatMap fun j => gemmElem s d i j)
    let (st, s) := rows.foldl (fun (x : Nat × State) r =>
      let (st, s) := writeMem x.2 r.1 r.2
      (if x.1 == stOK then st else x.1, s)) (stOK, s)
    planEnd s q d p st 0 0xFF 0 []

/-- The reads of a PLAN meet their ECC findings and count as traffic of the stacks. [DESIGN CHOICE: log 59; DEDUCED: log 130] -/
def planTouch (s : State) (d : Desc) (ecc : List EccHit) : State :=
  if pMode d == mVALIDATE then applyEcc s ecc (leAt d.param 8 8) 4672
  else (if pMode d == mGEMM then gemmReads d else planReadList d).foldl (fun s r =>
    countTraffic (applyEcc s ecc r.1 r.2) r.1 r.2 false) s

/-- A released PLAN of a mode runs. -/
def onPlan (s : State) (q : Fin 64) (idx : Word) (mode : Nat) (ecc : List EccHit) (f : State → Desc → State) : State :=
  onRun s q idx tyPLAN fun s d => if pMode d == mode then f (planTouch s d ecc) d else s

/-! ## VALIDATE (R260) and SNAPSHOT (R249) -/

def validateRun (s : State) (q : Nat) (d : Desc) : State :=
  let (st, raw, s) := readMem s [] (leAt d.param 8 8) 4672
  let p : PlanRes := { cycles := planFactor s (q / 16) * 2000 }
  if st != stOK then planEnd s q d p st 0 0xFF 0 []
  else
    let (st, det) := validateTable s raw s.ste.present
    planEnd s q d p st det (if st == stOK then 0xFF else 0) 0 []

/-- The service port of a face-plate port and branch of this module. -/
def servicePort (s : State) (p b : Nat) : Option Nat :=
  match s.ste.portMap with
  | none => none
  | some m => (m.entries.find? fun e =>
      e.2.kind == 1 && e.2.boardNo == strapBoard s && e.2.pos == ownPos s && e.2.port == p && e.2.branch == b).map Prod.fst

def portOf (s : State) (p : Nat) : Port := tget (fun _ => {}) s.kft.ports p
def setPort (s : State) (p : Nat) (x : Port) : State :=
  { s with kft := { s.kft with ports := tset (fun _ => {}) s.kft.ports p x } }

/-- Add a byte count into cell (i, j) of the demand matrix. -/
def addCell (d : Desc) (s : State) (i j n : Nat) : State :=
  let a := pDemand d + i * pStride d * 64 + 4 * j
  let old := leNat (readBytes s a 4)
  let v :=
    if pDfmt d == 0x10 then unsignedOf 32 (clampI (-0x80000000) 0x7FFFFFFF (signed 32 old + Int.ofNat n))
    else fp32Add old (fp32Round (.fin false n 0)).1
  (writeMem s a (leBytes 4 v)).2

/-- Place a count into the cell from plane port x to y, or count it as not placed. -/
def placeBytes (d : Desc) (ports : List Nat) (p : State × Nat) (x y : Option Nat) (n : Nat) : State × Nat :=
  match x, y with
  | some x, some y =>
    if ports.contains x && ports.contains y then
      (addCell d p.1 (ports.findIdx (· == x)) (ports.findIdx (· == y)) n, p.2)
    else (p.1, p.2 + n)
  | _, _ => (p.1, p.2 + n)

/-- A port, or none for 0xFFFF. -/
def realPort (p : Nat) : Option Nat := if p == 0xFFFF then none else some p

def snapshotRun (s : State) (q : Nat) (d : Desc) : State :=
  let st := planReads s d
  if st != stOK then planEnd s q d {} st 0 0xFF 0 []
  else
    let ports := portList s (pPorts d) (pK d)
    if portsFaulty s ports [] then planEnd s q d {} stRANGE 0x13 0xFF 0 []
    else
      let (s, un) := (List.range 128).foldl (fun (x : State × Nat) pb =>
        let (p, b) := (pb / 4, pb % 4)
        let s := x.1
        let tx := tget (fun _ => 0) (portOf s p).brTx b
        let rx := tget (fun _ => 0) (portOf s p).brRx b
        let base := s.ste.snapBase
        let nt := tx - tget (fun _ => 0) base pb
        let nr := rx - tget (fun _ => 0) base (128 + pb)
        let sv := servicePort s p b
        let out := sv.bind fun v => realPort (peerOf s.ste.present v)
        let inn := sv.bind fun v => realPort (feederOf s.ste.present v)
        let s := { s with ste := { s.ste with
          snapBase := tset (fun _ => 0) (tset (fun _ => 0) base pb tx) (128 + pb) rx } }
        let y := placeBytes d ports (s, x.2) sv out nt
        placeBytes d ports y inn sv nr) (s, 0)
      planEnd s q d { unplaced := un, cycles := planFactor s (q / 16) * 512 } stOK 0 0xFF 0 []

end Sys2Proof.Machine
end

