-- ==== Sys2Proof/Machine/SteerLaw.lean ====
section
/-!
DEFINITION. The steering law (R309 to R320): a sample's measurements, set-points, the law of a slot,
selection, integrators and preload, the relay of an auto-tune (R324, R325), and codes (R313).
-/

namespace Sys2Proof.Machine

/-! ## Measurements and targets -/

/-- The five values of a mirror in a SAMPLE frame (R302). -/
structure MirSample where
  angX : Nat
  angY : Nat
  drvX : Nat
  drvY : Nat
  tap : Nat
  deriving DecidableEq, Repr

/-- The reading of mirror j of the tile. -/
def mirSample (bytes : List Byte) (j : Nat) : MirSample :=
  let at' (k : Nat) : Nat := beAt bytes (16 + 10 * j + 2 * k) 2
  { angX := at' 0, angY := at' 1, drvX := at' 2, drvY := at' 3, tap := at' 4 }

/-- DRIVE of an axis. -/
def driveOf (m : MirSample) (a : Nat) : Nat := if a % 2 == 0 then m.drvX else m.drvY

/-- y = sample << 15 (R309). -/
def measY (x : Slot) (m : MirSample) (a : Nat) : Int :=
  (match slotMeas x with
    | 0 => signed 16 (if a % 2 == 0 then m.angX else m.angY)
    | 1 => Int.ofNat (driveOf m a)
    | _ => Int.ofNat m.tap) * 2 ^ 15

/-- Pointing coefficients C0 to C5 and PARK of an axis. -/
def coefOf (s : State) (a : Nat) : Option (List Word) := tget (fun _ => none) s.ste.coefs a

/-- The pointing value of an axis under a table (R319). [DESIGN CHOICE: log 63] -/
def pointing (s : State) (t : AccTable) (a : Nat) : Int :=
  let q := targetOf t (a / 2)
  match coefOf s a with
  | none => if q == 0xFFFF then sw (Config.parkDefault a) else sw (Config.pointDefault a q)
  | some l =>
    let c (k : Nat) : Int := sw (l.getD k 0#32)
    if q == 0xFFFF then c 6
    else
      let row : Int := Int.ofNat (q / 36)
      let col : Int := Int.ofNat (q % 36)
      sat32 (c 0 + sh (c 1 * col + c 2 * row + c 3 * col * col + c 4 * row * row + c 5 * col * row) 8)

/-- The group of a moving mirror, unless it has ended. -/
def groupOf (s : State) (m : Nat) : Option Group :=
  match s.ste.move with
  | some mv => mv.groups.find? fun g => g.mirrors.contains m && g.phase != 4
  | none => none

/-- The pair in PEAK that holds a mirror, of an Accord or a retry. -/
def pairOf (s : State) (m : Nat) : Option Pair :=
  let gs := match s.ste.move with | some mv => mv.groups.flatMap (·.pairs) | none => []
  (gs ++ s.ste.retries).find? fun p => !p.ended && (p.tx == m || p.rx == m)

/-- The waveform of an axis of a pair at sample n, in units of 2^-160 (R331). -/
def ditherWave (per : Nat) (rx : Bool) (axisY : Bool) (n : Nat) : Int :=
  let a := turnAngle (if rx then 2 * n else n) per
  if axisY then cosFix a else sinFix a

/-- The dither added to an axis's TABLE target: A times the waveform, between two integers. [DESIGN CHOICE: log 61] -/
def ditherOf (s : State) (a : Nat) : Int :=
  match pairOf s (a / 2) with
  | none => 0
  | some p =>
    let amp : Int := Int.ofNat (getRegN s Reg.ACD_DITH_AMP)
    let x := amp * ditherWave (fld (getReg s Reg.ACD_DITH) 0 6) (a / 2 == p.rx) (a % 2 == 1) p.n
    x / 2 ^ 160 + (if x % 2 ^ 160 != 0 && Config.roundUpPick (a + 8192) p.n then 1 else 0)

/-- The conversion of a REFIN input (R343). -/
def refinCode (s : State) (i : Nat) : Nat :=
  (tget (fun _ => ({} : Channel)) s.sel.chans (64 * (i / 2) + 56 + i % 2)).code

def jogCount (s : State) (k : Nat) : Word := tget (fun _ => 0#32) s.ste.jogs k

/-- A TABLE slot's target under a table: pointing, trim, dither (R318). -/
def tableTarget (s : State) (t : AccTable) (a : Nat) : Int :=
  sat32 (pointing s t a + sw (axisOf s a).trim + ditherOf s a)

/-- A slot's set-point at this sample (R318, R320, R330). -/
def setPoint (s : State) (a : Nat) (x : Slot) : Int :=
  let limited (target : Int) : Int :=
    let rate : Int := Int.ofNat (x.rate.toNat % 2 ^ 31)
    if rate == 0 || !x.rSet then target else sw x.r + clampI (-rate) rate (target - sw x.r)
  match slotSrc x with
  | 0 =>
    match groupOf s (a / 2), s.ste.move with
    | some g, some mv =>
      if g.phase == 0 then tableTarget s mv.old a
      else if g.phase == 1 then
        let k := (seq0 s - g.start).toNat
        let o := tableTarget s mv.old a
        let d := (tableTarget s s.ste.present a - o) * Int.ofNat k
        let n : Int := Int.ofNat (max g.steps 1)
        if g.steps ≤ k then tableTarget s s.ste.present a
        else o + d / n + (if d % n != 0 && Config.roundUpPick a (seq0 s).toNat then 1 else 0)
      else tableTarget s s.ste.present a
    | _, _ => limited (tableTarget s s.ste.present a)
  | 1 => limited (sw x.sp)
  | 2 => limited (sat32 (sw x.sp + sh (sw x.again * Int.ofNat (refinCode s (slotIdx x))) (slotAsh x)))
  | _ => limited (sat32 (sw x.sp + sw x.again * sw (jogCount s (slotIdx x))))

/-! ## The law (R309) -/

/-- The terms of a slot's law at a sample. -/
structure Terms where
  r : Int
  y : Int
  e : Int
  f : Int
  p : Int
  d : Int
  di : Int
  c : Int
  u : Int
  sat : Bool
  deriving DecidableEq, Repr

/-- u from the terms with a given integrator. -/
def lawU (x : Slot) (f p i d : Int) : Int := min (max (sat32 (f + p + i + d)) (sw x.outMin)) (sw x.outMax)

/-- The law of an enabled slot. -/
def lawTerms (s : State) (a : Nat) (x : Slot) (m : MirSample) : Terms :=
  let y := measY x m a
  let r := setPoint s a x
  let e := sat32 (r - y)
  let yp := if x.ySet then sw x.yPrev else y
  let f := sh (sw x.kf * r) (fld x.shifts 24 5)
  let p := sh (sw x.kp * e) (fld x.shifts 0 5)
  let d := sh (sw x.kd * (yp - y)) (fld x.shifts 16 5)
  let di := sh (sw x.ki * e) (fld x.shifts 8 5)
  let c := sat32 (f + p + sw x.integ + di + d)
  { r := r, y := y, e := e, f := f, p := p, d := d, di := di, c := c
    u := min (max c (sw x.outMin)) (sw x.outMax)
    sat := decide (c < sw x.outMin) || decide (sw x.outMax < c) }

/-! ## The relay of an auto-tune (R324) -/

/-- The relay's value after an error e. -/
def relayNext (s : State) (e : Int) : Int :=
  let h : Int := Int.ofNat (getRegN s Reg.LPE_AT_H % 2 ^ 31)
  let eps : Int := Int.ofNat (getRegN s Reg.LPE_AT_EPS % 2 ^ 31)
  let b := sw s.ste.tune.bias
  if eps < e then sat32 (b + h) else if e < -eps then sat32 (b - h) else sw s.ste.tune.relay

/-- A value in a 32-bit field; one that does not fit is free. [DESIGN CHOICE: log 62] -/
def fitWord (i : Int) (s : State) : Word × State :=
  if 0 ≤ i && i < 2 ^ 32 then (toWord i.toNat, s)
  else
    let (n, s) := freeNat 32 s
    (toWord n, s)

/-- The suggestions of R325, from the sums of four cycles' periods and peak-to-peak swings. [DESIGN CHOICE: log 62] -/
def tuneReport (s : State) : State :=
  let t := s.ste.tune
  let h : Int := Int.ofNat (getRegN s Reg.LPE_AT_H % 2 ^ 31)
  let eps : Int := Int.ofNat (getRegN s Reg.LPE_AT_EPS % 2 ^ 31)
  let x := t.swings * t.swings - 64 * eps * eps
  let s := setRegN s Reg.LPE_AT_TU (t.periods * 64)
  let s := setReg s Reg.LPE_AT_AMP (ofI (roundDiv t.swings 8))
  if x ≤ 0 || t.periods == 0 then
    [Reg.LPE_AT_KU, Reg.LPE_AT_KP, Reg.LPE_AT_KI, Reg.LPE_AT_KD].foldl (fun s k =>
      let (n, s) := freeNat 32 s
      setRegN s k n) s
  else
    -- Ku x 2^16 = num / den
    let num : Int := 2 ^ 16 * 32 * h * 2 ^ 260
    let den : Int := Int.ofNat (piFix * isqrt (x.toNat * 2 ^ 200))
    let per : Int := Int.ofNat t.periods
    let put (k : Nat) (v : Int) (s : State) : State :=
      let (w, s) := fitWord v s
      setReg s k w
    let s := put Reg.LPE_AT_KU (roundDiv num den) s
    let s := put Reg.LPE_AT_KP (roundDiv (3 * num) (5 * den)) s
    let s := put Reg.LPE_AT_KI (roundDiv (24 * num) (5 * den * per)) s
    put Reg.LPE_AT_KD (roundDiv (3 * num * per) (160 * den)) s

/-- Generators in use: by groups in PEAK, retries and the auto-tune (R338). -/
def gensBusy (s : State) : List Nat :=
  (match s.ste.move with | some mv => mv.groups.filterMap (·.gen) | none => []) ++
    s.ste.retries.map (·.gen) ++ (if s.ste.tune.running then [s.ste.tune.gen] else [])

def freeGen (s : State) : Option Nat := (List.range 18).find? fun g => !(gensBusy s).contains g

/-- An auto-tune ends (R324): status, suggestions on OK, the interrupt, and the slot resumes with a
preload from B after one sample at B. -/
def tuneEnd (s : State) (st det : Nat) : State :=
  let t := s.ste.tune
  if !t.running then s
  else
    let s := if st == stOK then tuneReport s else s
    let s := setRegN s Reg.LPE_AT_RESULT (st + det * 2 ^ 16 + 2 * 2 ^ 24)
    let s := { s with ste := { s.ste with tune := { t with running := false, ending := true, relay := t.bias } } }
    raiseIrqArgs s 0x40 0 3 st [t.slot, det]

/-- Follow the relay's cycles at a sample of the tuned slot: y, the new relay value, and whether the
relay won (R324). -/
def tuneTrack (s : State) (y relay : Int) (won : Bool) : State :=
  let t := s.ste.tune
  let rising := relay != sw t.relay && sw t.bias < relay
  let lo := min t.lo y
  let hi := max t.hi y
  let full := rising && t.started
  let measured := full && 2 ≤ t.cycles
  let t' : Tune := { t with
    relay := ofI relay
    n := if rising then 1 else t.n + 1
    started := t.started || rising
    cycles := t.cycles + b2n full
    lo := if rising then y else lo
    hi := if rising then y else hi
    periods := t.periods + (if measured then t.n else 0)
    swings := t.swings + (if measured then hi - lo else 0) }
  let s := { s with ste := { s.ste with tune := t' } }
  if !won then tuneEnd s stABORTED 0x11
  else if 2 * Int.ofNat (getRegN s Reg.LPE_AT_AMAX % 2 ^ 31) < hi - lo then tuneEnd s stABORTED 0x12
  else if 6 ≤ t'.cycles then tuneEnd s stOK 0
  else s

/-! ## One axis at a sample (R310 to R313, R316) -/

/-- The value with which a slot takes part in selection, after HOLD and the relay. [DEDUCED: log 72] -/
def slotValue (s : State) (k : Nat) (x : Slot) (t : Terms) : Int :=
  let tn := s.ste.tune
  if tn.running && tn.slot == k then relayNext s t.e
  else if tn.ending && tn.slot == k then sw tn.bias
  else if x.held && slotHold x then sw x.u
  else t.u

/-- Selection (R310): the winner among (k, u) of enabled slots. [DEDUCED: log 72] -/
def selectWinner (hyst : Int) (w : Option Nat) (us : List (Nat × Int)) : Option Nat :=
  let cand := us.foldl (fun (b : Option (Nat × Int)) x =>
    match b with
    | none => some x
    | some y => if x.2 < y.2 then some x else some y) none
  match cand with
  | none => none
  | some c =>
    match w.bind fun k => us.find? fun x => x.1 == k with
    | some old => if c.2 < old.2 - hyst then some c.1 else some old.1
    | none => some c.1

/-- One axis at an accepted sample: laws, selection, preload or integration, and its code. [DEDUCED: log 72] -/
def axisStep (m : MirSample) (s : State) (a : Nat) : State :=
  let ax := axisOf s a
  let ks := (List.range 4).map fun k => 4 * a + k
  let en := ks.filter fun k => slotEn (slotOf s k)
  if en.isEmpty then setAxis s a { ax with winner := none, late := false }
  else
    let ts := en.map fun k => (k, slotOf s k, lawTerms s a (slotOf s k) m)
    let us := ts.map fun x => (x.1 % 4, slotValue s x.1 x.2.1 x.2.2)
    let win := selectWinner (Int.ofNat (ax.hyst.toNat % 2 ^ 31)) ax.winner us
    let wk := win.getD 0
    let tuned (k : Nat) : Bool := s.ste.tune.slot == k && (s.ste.tune.running || s.ste.tune.ending)
    let changed := ax.winner != win
    let prev : Int :=
      if ax.winner.isNone && !ax.driven then Int.ofNat (driveOf m a) * 2 ^ 15 else sw ax.uOut
    let pre : Option Int :=
      match ax.preload with
      | some w => some (sw w)
      | none => if changed then some prev else none
    -- the winner's integrator and u
    let uWin := ((us.find? fun x => x.1 == wk).map Prod.snd).getD 0
    let step (x : Nat × Slot × Terms) : Nat × Slot × Int :=
      let (k, sl, t) := x
      let hold := slotHold sl
      let isWin := k % 4 == wk
      let freed := sl.held && !hold
      let load : Option Int :=
        if !isWin || hold || tuned k then none
        else if freed && !changed then some (sw sl.u) else pre
      let integ : Int :=
        match load with
        | some u0 => min (max (sat32 (u0 - t.f - t.p - t.d)) (sw sl.outMin)) (sw sl.outMax)
        | none => if isWin && !changed && !t.sat && !hold && !tuned k then sat32 (sw sl.integ + t.di) else sw sl.integ
      let u : Int :=
        match load with
        | some _ => lawU sl t.f t.p integ t.d
        | none => slotValue s k sl t
      (k, { sl with
        integ := ofI integ
        r := ofI t.r
        rSet := true
        yPrev := ofI t.y
        ySet := true
        u := ofI u
        e := ofI t.e
        sat := t.sat && !(sl.held && hold)
        integd := isWin && !changed && !t.sat && !hold && load.isNone && !tuned k
        held := hold }, u)
    let outs := ts.map step
    let uOut := ((outs.find? fun o => o.1 % 4 == wk).map fun o => o.2.2).getD uWin
    let code := (clampI 0 65535 (uOut / 2 ^ 15)).toNat
    let s := outs.foldl (fun s o => setSlot s o.1 o.2.1) s
    let s := setAxis s a { ax with
      winner := win
      uOut := ofI uOut
      code := code
      driven := true
      preload := none
      late := false }
    match ts.find? fun x => s.ste.tune.slot == x.1 with
    | some x =>
      if s.ste.tune.running then tuneTrack s x.2.2.y (relayNext s x.2.2.e) (x.1 % 4 == wk)
      else if s.ste.tune.ending then
        setAxis { s with ste := { s.ste with tune := { s.ste.tune with ending := false } } } a
          { axisOf s a with preload := some s.ste.tune.bias }
      else s
    | none => s

/-- Apply a slot or AX_HYST write (R315): the word of a register of the slot window. [DEDUCED: log 72] -/
def slotPut (s : State) (k ofs : Nat) (v : Word) : State :=
  let x := slotOf s k
  let a := k / 4
  match ofs with
  | 0x104 =>
    let on := slotEn x
    let x' := { x with cfg := v }
    let x' := if !on && slotEn x' then { x' with rSet := false, ySet := false } else x'
    if on && !slotEn x' then
      let ax := axisOf s a
      let s := setSlot s k { x' with held := false }
      setAxis s a { ax with winner := if ax.winner == some (k % 4) then none else ax.winner }
    else setSlot s k x'
  | 0x108 => setSlot s k { x with kp := v }
  | 0x10C => setSlot s k { x with ki := v }
  | 0x110 => setSlot s k { x with kd := v }
  | 0x114 => setSlot s k { x with kf := v }
  | 0x118 => setSlot s k { x with shifts := v &&& 0x1F1F1F1F#32 }
  | 0x11C => setSlot s k { x with outMin := v }
  | 0x120 => setSlot s k { x with outMax := v }
  | 0x124 => setSlot s k { x with sp := v }
  | 0x128 => setSlot s k { x with rate := v &&& 0x7FFFFFFF#32 }
  | 0x12C => setSlot s k { x with again := v }
  | 0x148 => setAxis s a { axisOf s a with hyst := v &&& 0x7FFFFFFF#32 }
  | 0x0B8 => setAxis s (2 * k) { axisOf s (2 * k) with trim := v }
  | 0x0BC => setAxis s (2 * k + 1) { axisOf s (2 * k + 1) with trim := v }
  | _ => s

/-- The axes that a waiting write touches: a trim write names its mirror, another one its slot. -/
def writeAxis (w : Nat × Nat × Word) : Nat :=
  if w.2.1 == 0x0B8 then 2 * w.1 else if w.2.1 == 0x0BC then 2 * w.1 + 1 else w.1 / 4

/-- The configuration word that a slot's register reads: the last value written. -/
def slotReg (s : State) (k ofs : Nat) : Word :=
  match (s.ste.writes.filter fun w => w.1 == k && w.2.1 == ofs).getLast? with
  | some w => w.2.2
  | none =>
    let x := slotOf s k
    match ofs with
    | 0x104 => x.cfg | 0x108 => x.kp | 0x10C => x.ki | 0x110 => x.kd | 0x114 => x.kf | 0x118 => x.shifts
    | 0x11C => x.outMin | 0x120 => x.outMax | 0x124 => x.sp | 0x128 => x.rate | 0x12C => x.again
    | 0x148 => (axisOf s (k / 4)).hyst | _ => 0#32

end Sys2Proof.Machine
end

