-- ==== Sys2Proof/Machine/AcdOps.lean ====
section
/-!
DEFINITION. The Accord sequencer (R326 to R338): the queue, load and validation, commit, the moves of
the groups with ramp, SETTLE and PEAK, done, retries, refusal and abort.
-/

namespace Sys2Proof.Machine

/-- Change the steering state. -/
def modSte (s : State) (f : Steer → Steer) : State := { s with ste := f s.ste }

def entryOf (s : State) (i : Nat) : AcdEntry := tget (fun _ => {}) s.ste.entries i
def setEntry (s : State) (i : Nat) (x : AcdEntry) : State :=
  { s with ste := { s.ste with entries := tset (fun _ => {}) s.ste.entries i x } }

/-- Free an entry and take it out of the queue order. -/
def freeEntry (s : State) (i : Nat) : State :=
  modSte (setEntry s i {}) fun x => { x with order := x.order.filter (· != i) }

/-- Act on a queue entry's token, when it is enabled, bound and its die has not failed (R185, R187). -/
def accToken (s : State) (sig : Word) (f : State → Nat → State) : State :=
  let t := fld sig 0 12
  if !bitOf sig 15 || (tokOf s t).bound.isNone || unitSt s (tokDie t) == .failed then s else f s t

/-- Record an entry's end in `LAST_ACCORD` and `LAST_RESULT`. -/
def accRecord (s : State) (i : Nat) (n : Word) (st det : Nat) : State :=
  setRegN (setReg s Reg.ACD_LAST_ACCORD n) Reg.ACD_LAST_RESULT (st + det * 2 ^ 16 + i * 2 ^ 24)

/-! ## Refusal and abort (R336) -/

/-- One entry ends refused or aborted. [DEDUCED: log 131] -/
def entryEnds (s : State) (i st det : Nat) : State :=
  let e := entryOf s i
  let s := freeEntry (accRecord s i e.accord st det) i
  let s := bumpReg s Reg.ACD_CNT_REFUSED 1
  let s := raiseIrqArgs s 0x42 0 2 st [i, e.accord.toNat, det]
  accWaitAbort (accToken s e.sig tokPoison) e.accord

/-- The queue's entries from `i` on that have not committed. -/
def entriesFrom (s : State) (i : Nat) : List Nat :=
  (s.ste.order.dropWhile (· != i)).filter fun k => (entryOf s k).st != 5

/-- An entry is refused or aborted: it ends with the status, every later one ABORTED. -/
def refuseEntry (s : State) (i st det : Nat) : State :=
  (entriesFrom s i).foldl (fun s k => if k == i then entryEnds s k st det else entryEnds s k stABORTED 0) s

/-- Every entry that has not committed ends ABORTED (R337). [DEDUCED: log 131] -/
def abortQueue (s : State) : State :=
  (s.ste.order.filter fun k => (entryOf s k).st != 5).foldl (fun s k => entryEnds s k stABORTED 0) s

/-- `Q_CMD.ABORT`: STATE for a free or a committed entry. -/
def accordAbortCmd (s : State) (i : Nat) : Nat × State :=
  if (entryOf s i).st == 0 || (entryOf s i).st == 5 then (stSTATE, s) else (stOK, refuseEntry s i stABORTED 0)

/-! ## LOAD (R326) -/

/-- The staged table address and domain. -/
def qAddr (s : State) : Nat := getRegN s Reg.ACD_Q_ADDR_LO + fld (getReg s Reg.ACD_Q_ADDR_HI) 0 12 * 2 ^ 32
def qDomain (s : State) : Nat := fld (getReg s Reg.ACD_Q_ADDR_HI) 16 12

/-- An address of the staging SRAM or a stack. -/
def inSramOrStack (a : Nat) : Bool := match tierOf a with | .stack _ => true | .staging _ => true | _ => false

/-- The lowest free entry. -/
def freeIndex (s : State) : Option Nat := (List.range 16).find? fun i => (entryOf s i).st == 0

/-- `Q_CMD.LOAD`. -/
def accordLoadCmd (s : State) : Nat × State :=
  let w := getReg s Reg.ACD_Q_WAIT
  let g := getReg s Reg.ACD_Q_SIG
  let bound (x : Word) : Bool := !bitOf x 15 || (tokOf s (fld x 0 12)).bound.isSome
  if qAddr s % 64 != 0 || !inSramOrStack (qAddr s) || 0xFFFFF < getRegN s Reg.ACD_Q_SIG_INC then (stRANGE, s)
  else if !inRegion s (qDomain s) (qAddr s) 4672 then (stAUTH, s)
  else if !bound w || !bound g then (stAUTH, s)
  else if service s != 3 then (stSTATE, s)
  else
    match freeIndex s with
    | none => (stRESOURCE, s)
    | some i =>
      let e : AcdEntry := {
        st := 1
        addr := qAddr s
        domain := BitVec.ofNat 12 (qDomain s)
        accord := getReg s Reg.ACD_Q_ACCORD
        wait := w
        thr := getReg s Reg.ACD_Q_WAIT_THR
        sig := g
        inc := getReg s Reg.ACD_Q_SIG_INC }
      let s := modSte (setEntry s i e) fun x => { x with order := x.order ++ [i] }
      (stOK, setRegN s Reg.ACD_LAST_RESULT (stOK + i * 2 ^ 24))

/-! ## Load and validation (R328) -/

/-- The first entry that has not committed. -/
def frontEntry (s : State) : Option Nat := s.ste.order.find? fun k => (entryOf s k).st != 5

/-- An ARMED entry starts loading, or ends ABORTED on a poisoned wait token. -/
def entryLoadStart (s : State) : State :=
  match frontEntry s with
  | none => s
  | some i =>
    let e := entryOf s i
    let t := fld e.wait 0 12
    if e.st != 1 then s
    else if bitOf e.wait 15 && (tokOf s t).poison then refuseEntry s i stABORTED 0
    else if holdOf s 0x42 0 then s
    else if bitOf e.wait 15 && !waitMet s t e.thr.toNat then s
    else setEntry s i { e with st := 2 }

/-- The table is read; AUTH, CHECK and NOTREADY end the entry (R336). -/
def entryLoadDone (s : State) (ecc : List EccHit) : State :=
  match frontEntry s with
  | none => s
  | some i =>
    let e := entryOf s i
    if e.st != 2 then s
    else if !inRegion s e.domain.toNat e.addr 4672 then refuseEntry s i stAUTH 0
    else
      let (st, raw, s) := readMem s ecc e.addr 4672
      if st != stOK then refuseEntry s i st 0 else setEntry s i { e with st := 3, raw := raw }

/-- The tile-0 SEQ of the first sample that arrives at least 40 µs after the time given. [DEDUCED: log 65] -/
def commitSeqAt (s : State) (t : Nat) : Word :=
  let x := tileOf s 0
  x.seq + toWord ((t + 40000 - x.at_.toNat + 19999) / 20000)

/-- A VALIDATED entry with nothing moving and HOLD 0 gets its commit SEQ, and the ACCORD message goes to
the partner (R329, R339). -/
def announce (s : State) : State :=
  match frontEntry s with
  | none => s
  | some i =>
    let e := entryOf s i
    if e.st != 4 || e.commitSeq.isSome || s.ste.move.isSome || holdOf s 0x42 0 then s
    else
      let c := commitSeqAt s s.ns.toNat
      let s := setEntry s i { e with commitSeq := some c }
      sendSteer s 0x03 { b28 := c, b32 := BitVec.ofNat 16 i, b34 := 0#16, b36 := e.table.number, data := e.raw }

/-- Validation ends: VALIDATED with its ACCORD message, or refused. -/
def entryValidateDone (s : State) : State :=
  match frontEntry s with
  | none => s
  | some i =>
    let e := entryOf s i
    if e.st != 3 then s
    else
      let (st, det) := validateTable s e.raw s.ste.present
      let t := parseTable e.raw
      if st != stOK then refuseEntry s i st det
      else if t.number != e.accord then refuseEntry s i stORDER 0x30
      else announce (setEntry s i { e with st := 4, table := t, passed := s.ns })

/-! ## Moves (R330, R331) -/

/-- The groups of 128 mirrors of an order of moved mirrors. -/
def groupsOf (moved : List Nat) : List Group := (pieces 128 18 moved).map fun ms => { mirrors := ms }

/-- The present table becomes `t` at a commit SEQ, and its moved mirrors start to move: the number in
PRESENT, the mirrors moving, retries stopped, and the waiters for the committed phase. -/
def startMove (s : State) (t : AccTable) (entry : Option Nat) (sig inc c : Word) : State :=
  let moved := movedMirrors s.ste.present t
  let mv : Move := {
    number := t.number
    entry := entry
    sig := sig
    inc := inc
    commitSeq := c
    since := s.ns
    moved := moved
    old := s.ste.present
    groups := groupsOf moved }
  let s := modSte s fun x => { x with present := t, move := some mv, retries := [], settled := [] }
  let s := moved.foldl (fun s m => setMir s m 1) s
  let s := raiseIrqArgs (setReg s Reg.ACD_COMMIT_SEQ c) 0x42 0 0 0 [t.number.toNat]
  accWaitSettle s

/-- |Δ| of a mirror's axis between the tables. -/
def axisDelta (s : State) (old : AccTable) (a : Nat) : Nat :=
  (tableTarget s s.ste.present a - tableTarget s old a).natAbs

/-- N_s of a group: the largest ceil(|Δ| / RATE) over the enabled TABLE slots of its axes, RATE 0 counting
1, at most `MOVE_MAX` / 20 µs. -/
def rampSteps (s : State) (old : AccTable) (g : Group) : Nat :=
  let one (k : Nat) : Nat :=
    let x := slotOf s k
    let rate := x.rate.toNat % 2 ^ 31
    if !slotEn x || slotSrc x != 0 then 0
    else if rate == 0 then 1 else (axisDelta s old (k / 4) + rate - 1) / rate
  let n := g.mirrors.foldl (fun n m => (List.range 8).foldl (fun n k => max n (one (8 * m + k))) n) 1
  min n (fld (getReg s Reg.ACD_MOVE_MAX) 0 12 / 20)

/-- SEQ `a` is at or past `b`, across the wrap. [DEDUCED: log 65] -/
def seqReached (a b : Word) : Bool := (a - b).toNat < 2 ^ 31

/-- Change a group of the move. -/
def setGroup (s : State) (i : Nat) (g : Group) : State :=
  match s.ste.move with
  | some mv => modSte s fun x => { x with move := some { mv with groups := mv.groups.set i g } }
  | none => s

/-- One group at a tile-0 sample: its ramp starts at COMMIT_SEQ + 5g and ends after its steps. [DESIGN CHOICE: log 61] -/
def groupTick (s : State) (i : Nat) : State :=
  match s.ste.move with
  | none => s
  | some mv =>
    match mv.groups[i]? with
    | none => s
    | some g =>
      let at' := mv.commitSeq + toWord (5 * i)
      let g := if g.phase == 0 && seqReached (seq0 s) at' then
        { g with phase := 1, steps := rampSteps s mv.old g, start := at' } else g
      if g.phase == 1 && g.steps ≤ (seq0 s - g.start).toNat then
        g.mirrors.foldl (fun s m => if mirOf s m == 1 then setMir s m 2 else s) (setGroup s i { g with phase := 2 })
      else setGroup s i g

/-- A generator for an entering group: a free one, else the auto-tune's, else a retry's (R338). -/
def takeGen (s : State) : Nat × State :=
  match freeGen s with
  | some g => (g, s)
  | none =>
    if s.ste.tune.running then (s.ste.tune.gen, tuneEnd s stABORTED 0x13)
    else
      match s.ste.retries with
      | p :: rest => (p.gen, modSte s fun x => { x with retries := rest })
      | [] => (0, s)

/-- The receive TAP is below `DARK_THR`. [DEDUCED: log 78] -/
def isDark (s : State) (rx : Nat) : Bool := tapOf s rx < fld (getReg s Reg.ACD_LOCK) 16 16

/-- The receive TAP reaches `LOCK_MIN`. -/
def isLit (s : State) (rx : Nat) : Bool := fld (getReg s Reg.ACD_LOCK) 0 16 ≤ tapOf s rx

/-- Both mirrors of a pair end in a state. -/
def endPair (s : State) (p : Pair) (st : Nat) : State := setMir (setMir s p.tx st) p.rx st

/-- The circuits of a group whose two mirrors have settled. -/
def groupPairs (s : State) (g : Group) : List Pair :=
  (g.mirrors.filter fun m => m < 1152 && mirOf s m == 2 && peerOf s.ste.present m != 0xFFFF).map fun m =>
    { tx := m, rx := 1152 + peerOf s.ste.present m }

/-- Every mirror of group `i` has settled or ended: PARK mirrors end LOCKED, dark pairs DARK, and the
others enter PEAK with a generator. -/
def enterPeak (s : State) (i : Nat) (g : Group) : State :=
  let parked := g.mirrors.filter fun m => mirOf s m == 2 && targetOf s.ste.present m == 0xFFFF
  let pairs := groupPairs s g
  let dark := pairs.filter fun p => isDark s p.rx
  let lit := pairs.filter fun p => !isDark s p.rx
  let s := parked.foldl (fun s m => setMir s m 4) s
  let s := dark.foldl (fun s p => endPair s p 5) s
  if lit.isEmpty then setGroup s i { g with phase := 4 }
  else
    let (gen, s) := takeGen s
    let s := lit.foldl (fun s p => endPair s p 3) s
    setGroup s i { g with phase := 3, gen := some gen, pairs := lit }

/-- The group's mirrors have all settled for 10 samples or ended. -/
def groupSettled (s : State) (g : Group) : Bool :=
  g.mirrors.all fun m => mirOf s m != 2 || 10 ≤ tget (fun _ => 0) s.ste.settled m

/-- Every TABLE slot of both axes of a mirror had |e| within `SETTLE_WIN`. -/
def inWindow (s : State) (m : Nat) : Bool :=
  (List.range 8).all fun k =>
    let x := slotOf s (8 * m + k)
    !slotEn x || slotSrc x != 0 || (sw x.e).natAbs ≤ getRegN s Reg.ACD_SETTLE_WIN % 2 ^ 31

/-- Groups of the move, with their numbers. -/
def moveGroups (s : State) : List (Nat × Group) :=
  match s.ste.move with
  | some mv => (List.range mv.groups.length).zip mv.groups
  | none => []

/-- SETTLE at a sample of tile `t`: counters of its mirrors, then groups that enter PEAK. -/
def settleTick (s : State) (t : Nat) : State :=
  let ms := (moveGroups s).flatMap fun g =>
    if g.2.phase == 2 then g.2.mirrors.filter fun m => m / 64 == t && mirOf s m == 2 else []
  let s := ms.foldl (fun s m =>
    let n := if inWindow s m then tget (fun _ => 0) s.ste.settled m + 1 else 0
    modSte s fun x => { x with settled := tset (fun _ => 0) x.settled m n }) s
  (moveGroups s).foldl (fun s g =>
    if g.2.phase == 2 && groupSettled s g.2 then enterPeak s g.1 g.2 else s) s

/-- `SETTLE_MAX` passes for a group: mirrors that have not settled end UNLOCKED with their circuit's
other mirror; the rest enters PEAK (R331). -/
def settleTimeout (s : State) (i : Nat) : State :=
  match (moveGroups s).find? fun g => g.1 == i with
  | some (_, g) =>
    if g.phase != 2 then s
    else
      let late := g.mirrors.filter fun m => mirOf s m == 2 && tget (fun _ => 0) s.ste.settled m < 10
      let other (m : Nat) : List Nat :=
        let q := targetOf s.ste.present m
        if q == 0xFFFF then [] else if m < 1152 then [1152 + q] else [q]
      let s := (late ++ late.flatMap other).foldl (fun s m => setMir s m 6) s
      enterPeak s i g
  | none => s

/-- Round-to-floor gradient of a sum over a period. -/
def gradient (per : Nat) (sum : Int) : Int := sum / Int.ofNat (max per 1)

/-- A trim rises by sh(PK_GAIN x g, SHIFT). [DEDUCED: log 64] -/
def raiseTrim (s : State) (a : Nat) (g : Int) : State :=
  let x := axisOf s a
  let d := sh (sw (getReg s Reg.ACD_PK_GAIN) * g) (fld (getReg s Reg.ACD_PK_CFG) 0 5)
  setAxis s a { x with trim := ofI (sat32 (sw x.trim + d)) }

/-- A pair in PEAK at a sample of its receive tile: demodulation, and at a period's end the trims and
the lock test. The second value is the pair's end state, if it ends. [DEDUCED: log 66] -/
def pairTick (s : State) (p : Pair) : State × Pair × Option Nat :=
  let per := fld (getReg s Reg.ACD_DITH) 0 6
  let tap : Int := Int.ofNat (tapOf s p.rx)
  let ws := [sin15 p.n per, cos15 p.n per, sin15 (2 * p.n) per, cos15 (2 * p.n) per]
  let sums := List.zipWith (fun x w => x + tap * w) p.sums ws
  let p := { p with age := p.age + 1 }
  if p.n + 1 < per then (s, { p with n := p.n + 1, sums := sums }, none)
  else
    let gs := sums.map (gradient per)
    let s := (List.zip [2 * p.tx, 2 * p.tx + 1, 2 * p.rx, 2 * p.rx + 1] gs).foldl (fun s x => raiseTrim s x.1 x.2) s
    let tol := getRegN s Reg.ACD_PK_TOL % 2 ^ 31
    let conv := if gs.all fun g => g.natAbs ≤ tol then p.conv + 1 else 0
    let p := { p with n := 0, sums := [0, 0, 0, 0], conv := conv }
    if fld (getReg s Reg.ACD_PK_CFG) 8 4 ≤ conv then (s, { p with ended := true }, some (if isLit s p.rx then 4 else 6))
    else (s, p, none)

/-- A group whose pairs have all ended releases its generator. -/
def closeGroup (s : State) (i : Nat) (g : Group) : State :=
  if g.phase == 3 && g.pairs.all (·.ended) then setGroup s i { g with phase := 4, gen := none } else setGroup s i g

/-- PEAK at a sample of tile `t`, for the pairs of Accord groups and of retries. -/
def peakTick (s : State) (t : Nat) : State :=
  let s := (moveGroups s).foldl (fun s g =>
    if g.2.phase != 3 then s
    else
      let (s, ps) := g.2.pairs.foldl (fun (acc : State × List Pair) p =>
        if p.ended || p.rx / 64 != t then (acc.1, acc.2 ++ [p])
        else
          match pairTick acc.1 p with
          | (s, p, some st) => (endPair s p st, acc.2 ++ [p])
          | (s, p, none) => (s, acc.2 ++ [p])) (s, [])
      closeGroup s g.1 { g.2 with pairs := ps }) s
  let (s, rs) := s.ste.retries.foldl (fun (acc : State × List Pair) p =>
    if p.rx / 64 != t then (acc.1, acc.2 ++ [p])
    else
      match pairTick acc.1 p with
      | (s, p, some st) => (endPair s p st, acc.2)
      | (s, p, none) =>
        if fld (getReg s Reg.ACD_PEAK_MAX) 0 12 ≤ 20 * p.age then
          (endPair s p (if isLit s p.rx then 4 else 6), acc.2)
        else (s, acc.2 ++ [p])) (s, [])
  modSte s fun x => { x with retries := rs }

/-- `PEAK_MAX` passes for a group: each pair ends by its receive TAP (R332). -/
def peakTimeout' (s : State) (i : Nat) : State :=
  match (moveGroups s).find? fun g => g.1 == i with
  | some (_, g) =>
    if g.phase != 3 then s
    else
      let s := g.pairs.foldl (fun s p => if p.ended then s else endPair s p (if isLit s p.rx then 4 else 6)) s
      closeGroup s i { g with pairs := g.pairs.map fun p => { p with ended := true } }
  | none => s

/-- A retry round (R335): UNLOCKED and DARK pairs in ascending port order; a dark one ends DARK at once,
the others take a generator while one is free. [DEDUCED: log 66, 78] -/
def retryRound (s : State) : State :=
  if s.ste.move.isSome then s
  else
    let down (m : Nat) : Bool := mirOf s m == 5 || mirOf s m == 6
    let busy (i : Nat) : Bool := s.ste.retries.any fun p => p.tx == i
    let ports := (List.range 1152).filter fun i =>
      let p := peerOf s.ste.present i
      p != 0xFFFF && down i && down (1152 + p) && !busy i
    ports.foldl (fun s i =>
      let rx := 1152 + peerOf s.ste.present i
      if isDark s rx then setMir (setMir s i 5) rx 5
      else
        match freeGen s with
        | some g => modSte s fun x => { x with retries := x.retries ++ [{ tx := i, rx := rx, gen := g }] }
        | none => s) s

/-! ## Commit and done (R329, R333) -/

/-- Counts of the plane's UNLOCKED and DARK mirrors. -/
def mirCount (s : State) (st : Nat) : Nat := (s.ste.mirrors.filter fun m => m.2 == st).length

/-- An Accord is done: the number, its time, the token, the records, and the waiters for done. -/
def moveDone (s : State) (mv : Move) : State :=
  let bad := mv.moved.any fun m => mirOf s m == 6
  let s := modSte s fun x => { x with move := none, doneNum := mv.number }
  let s := setRegN s Reg.ACD_LAST_TIME (min 0xFFFF ((s.ns - mv.since).toNat / 1000))
  let s := wrapReg s Reg.ACD_CNT_DONE 1
  let s := match mv.entry with
    | some i => freeEntry (accRecord s i mv.number stOK 0) i
    | none => s
  let s := raiseIrqArgs s 0x42 0 1 0 [mv.number.toNat, mirCount s 6, mirCount s 5]
  let s :=
    if bad && bitOf mv.sig 16 then raiseIrq (accToken s mv.sig tokPoison) 0x42 0 3
    else accToken s mv.sig fun s t => tokAdd s t mv.inc.toNat
  announce (accWaitSettle s)

/-- Done at a tile-0 sample at which every group has ended. -/
def doneTick (s : State) : State :=
  match s.ste.move with
  | some mv => if mv.groups.all fun g => g.phase == 4 then moveDone s mv else s
  | none => s

/-- The standby ends its previous Accord early (R386): every mirror keeps the state it has reached. [DEDUCED: log 78] -/
def endEarly (s : State) : State :=
  match s.ste.move with
  | none => s
  | some mv =>
    let s := mv.moved.foldl (fun s m =>
      [2 * m, 2 * m + 1].foldl (fun s a => setAxis s a { axisOf s a with early := true }) s) s
    moveDone s mv

/-- A module's own entry commits at its SEQ. [DEDUCED: log 65] -/
def commitTick (s : State) : State :=
  match frontEntry s with
  | none => s
  | some i =>
    let e := entryOf s i
    match e.commitSeq with
    | some c =>
      if e.st == 4 && seqReached (seq0 s) c && s.ste.move.isNone then
        startMove (setEntry s i { e with st := 5, raw := [] }) e.table (some i) e.sig e.inc c
      else s
    | none => s

/-- Accords that came from the partner commit at their SEQ or later (R386); the flag tells that an
earlier one was ended early. -/
def followTick (s : State) : Bool × State :=
  s.ste.follow.foldl (fun (acc : Bool × State) f =>
    let (early, s) := acc
    if seqReached (seq0 s) f.1 then
      let cut := s.ste.move.isSome
      let s := if cut then endEarly s else s
      let s := modSte s fun x => { x with follow := x.follow.filter fun g => g.1 != f.1 }
      (early || cut, startMove s f.2 none 0#32 0#32 f.1)
    else (early, s)) (false, s)

/-- The groups of the move at a tile-0 sample. -/
def groupsTick (s : State) : State := (List.range 18).foldl groupTick s

/-! ## Views of the ACD page -/

/-- `ACD.PAGE_STAT[7:0]`. -/
def acdState (s : State) : Nat :=
  if s.ste.move.isSome then 0x13
  else if s.rdn.st == .standby || s.rdn.st == .syncing then 0x14
  else
    match frontEntry s with
    | some i =>
      let st := (entryOf s i).st
      if st == 4 then 0x12 else if st == 2 || st == 3 then 0x11 else 0x10
    | none => 0x10

/-- `CUR_STAT`. -/
def curStat (s : State) : Nat :=
  match s.ste.move with
  | some mv => mv.groups.length + 32 * (mv.groups.filter fun g => g.phase == 4).length + 65536 * mv.moved.length
  | none => 0

/-- `Q_STAT`: 2 bits for each entry. -/
def qStat (s : State) : Nat :=
  (List.range 16).foldl (fun n i =>
    let st := (entryOf s i).st
    n + (if st == 0 then 0 else if st == 1 then 1 else if st == 5 then 3 else 2) * 4 ^ i) 0

/-- `GEN_BUSY`. -/
def genBusy (s : State) : Nat := (List.range 18).foldl (fun n g => if (gensBusy s).contains g then n + 2 ^ g else n) 0

/-- `COUNTS`. -/
def accCounts (s : State) : Nat := mirCount s 6 + 65536 * mirCount s 5

end Sys2Proof.Machine
end

