-- ==== Sys2Proof/Machine/FixOps.lean ====
section
/-!
DEFINITION. The Fixative store (R366 to R371): the sections of a slot and the values that they hold, the
choice and load of a slot at power-up, and saves.
-/

namespace Sys2Proof.Machine

/-! ## The configuration flash (R91) -/

/-- [DESIGN CHOICE: log 8] -/
def flashRead (s : State) (a n : Nat) : List Byte := treadBytes (fun _ => 0xFF#8) s.mem.flash a n

/-- [DEDUCED: log 108] -/
def flashWrite (s : State) (a : Nat) (bs : List Byte) : State :=
  { s with mem := { s.mem with flash := twriteBytes (fun _ => 0xFF#8) s.mem.flash a bs } }

def flashErase (s : State) (lo n : Nat) : State :=
  { s with mem := { s.mem with flash := tclear s.mem.flash lo (lo + n) } }

/-- The base of a Fixative slot: A, or B when the flag is set. -/
def fixBase (b : Bool) : Nat := if b then 0x3200000 else 0x3100000

/-- SHA-384 of the identity public key in uncompressed form (R106). -/
def identHash : BitVec 384 := Config.sha384 (0x04#8 :: beBytes 96 Config.identityXY.toNat)

def modFix (s : State) (f : Fixative → Fixative) : State :=
  { s with sel := { s.sel with fix := f s.sel.fix } }

def loopOf (s : State) (l : Nat) : Loop := tget (fun _ => {}) s.sel.loops l
def setLoop (s : State) (l : Nat) (x : Loop) : State :=
  { s with sel := { s.sel with loops := tset (fun _ => {}) s.sel.loops l x } }

def channelOf (s : State) (c : Nat) : Channel := tget (fun _ => {}) s.sel.chans c
def setChannel (s : State) (c : Nat) (x : Channel) : State :=
  { s with sel := { s.sel with chans := tset (fun _ => {}) s.sel.chans c x } }

/-! ## Sections (R367) -/

/-- Section offsets and lengths by TYPE - 1. -/
def fixSections : List (Nat × Nat) :=
  [(4096, 1152), (8192, 3840), (12288, 811008), (823296, 18432), (843776, 129024), (974848, 140)]

def secAfe (s : State) : List Byte :=
  ((List.range 256).flatMap fun c => leBytes 2 (channelOf s c).offset.toNat ++ leBytes 2 (channelOf s c).gain.toNat) ++
    (List.range 64).flatMap fun k => leBytes 2 (tget (fun _ => 0) s.sel.trimOuts k)

/-- The heater code of a loop without its dither. -/
def biasCode (x : Loop) : Nat := (clampI 0 65535 (x.v + x.ff)).toNat

/-- [DEDUCED: log 85] -/
def secSelector (s : State) : List Byte :=
  (List.range 192).flatMap fun l =>
    let x := loopOf s l
    leBytes 2 x.c2pi ++ leBytes 2 (biasCode x) ++ leBytes 2 x.t0 ++ leBytes 1 (b2n x.scanned) ++
      leBytes 1 x.tauSh ++ leBytes 4 x.ka.toNat ++ leBytes 4 x.kt.toNat ++ zeros 4

/-- The configuration words of a slot in the section's order, as last written. -/
def slotWords (s : State) (k : Nat) : List Word :=
  [0x104, 0x108, 0x10C, 0x110, 0x114, 0x118, 0x11C, 0x120, 0x124, 0x128, 0x12C].map fun o => slotReg s k o

def secSlots (s : State) : List Byte :=
  (List.range 18432).flatMap fun k => (slotWords s k).flatMap fun w => leBytes 4 w.toNat

def secAxes (s : State) : List Byte :=
  (List.range 4608).flatMap fun a => leBytes 4 (slotReg s (4 * a) 0x148).toNat

/-- C0 to C5 and PARK of an axis; coefficients of 0 and the P1152's PARK value while it has none. -/
def coefWords (s : State) (a : Nat) : List Word :=
  match coefOf s a with
  | some l => l
  | none => List.replicate 6 0#32 ++ [Config.parkDefault a]

def secMirrors (s : State) : List Byte :=
  (List.range 4608).flatMap fun a => (coefWords s a).flatMap fun w => leBytes 4 w.toNat

/-- The sections to save: contents and VALID. The MIRRORS section is VALID when every axis has
coefficients, the link table when there is one (DESIGN CHOICE). [DEDUCED: log 85] -/
def saveSections (s : State) : List (List Byte × Bool) :=
  [(secAfe s, true), (secSelector s, true), (secSlots s, true), (secAxes s, true),
    (secMirrors s, (List.range 4608).all fun a => (coefOf s a).isSome),
    ((s.sel.fix.linkNew <|> s.sel.fix.linkTbl).getD (zeros 140), (s.sel.fix.linkNew <|> s.sel.fix.linkTbl).isSome)]

/-- The section entries of a header. -/
def sectionEntries (l : List (List Byte × Bool)) : List Byte :=
  (List.range 6).flatMap fun k =>
    let x := l.getD k ([], false)
    let o := fixSections.getD k (0, 0)
    leBytes 2 (k + 1) ++ leBytes 2 (b2n x.2) ++ leBytes 4 o.1 ++ leBytes 4 o.2 ++ leBytes 4 (crc32c x.1).toNat

/-- A header (R366). -/
def fixHeader (s : State) (seq : Word) (l : List (List Byte × Bool)) : List Byte :=
  let h := [0x4B#8, 0x46#8, 0x58#8, 0x31#8] ++ leBytes 2 1 ++ leBytes 2 6 ++ leBytes 4 seq.toNat ++
    beBytes 48 identHash.toNat ++ leBytes 2 (planeNo s) ++ zeros 2 ++ leBytes 5 s.pwr.optime.toNat ++
    leBytes 3 s.pwr.pcycle.toNat ++ zeros 56 ++ sectionEntries l ++ zeros 3868
  h ++ leBytes 4 (crc32c h).toNat

/-- The whole image of a slot: header and sections at their offsets, the gaps erased. [DEDUCED: log 85] -/
def fixImage (s : State) (seq : Word) : List Byte :=
  let l := saveSections s
  (List.range 6).foldl (fun bs k =>
    let o := (fixSections.getD k (0, 0)).1
    bs ++ List.replicate (o - bs.length) 0xFF#8 ++ (l.getD k ([], false)).1) (fixHeader s seq l)

/-! ## Validity and choice (R368, R369) -/

/-- Entry of a section TYPE in a header: VALID, offset, length, CRC. -/
def sectionOf (h : List Byte) (ty : Nat) : Option (Nat × Nat × Nat) :=
  ((List.range 6).find? fun k => leAt h (128 + 16 * k) 2 == ty && (leAt h (130 + 16 * k) 2).testBit 0).map fun k =>
    (leAt h (132 + 16 * k) 4, leAt h (136 + 16 * k) 4, leAt h (140 + 16 * k) 4)

/-- The bytes of a section that is marked VALID. -/
def sectionBytes (s : State) (b : Bool) (ty : Nat) : Option (List Byte) :=
  (sectionOf (flashRead s (fixBase b) 4096) ty).map fun x => flashRead s (fixBase b + x.1) x.2.1

/-- A slot is valid: MAGIC, VERSION, header CRC, and the CRC of every section marked VALID. -/
def fixSlotValid (s : State) (b : Bool) : Bool :=
  let h := flashRead s (fixBase b) 4096
  slice h 0 4 == [0x4B#8, 0x46#8, 0x58#8, 0x31#8] && leAt h 4 2 == 1 &&
    leAt h 4092 4 == (crc32c (h.take 4092)).toNat &&
    (List.range 6).all fun k =>
      match sectionOf h (k + 1) with
      | some (o, n, c) => (crc32c (flashRead s (fixBase b + o) n)).toNat == c
      | none => true

def fixSeqOf (s : State) (b : Bool) : Nat := leAt (flashRead s (fixBase b) 4096) 8 4

/-- SHA-384 of a slot. [DEDUCED: log 85] -/
def fixHash (s : State) (b : Bool) : BitVec 384 := Config.sha384 (flashRead s (fixBase b) 0x100000)

/-- The sections marked VALID in a slot, as a mask. -/
def fixMask (s : State) (b : Bool) : Nat :=
  (List.range 6).foldl (fun m k =>
    if (sectionOf (flashRead s (fixBase b) 4096) (k + 1)).isSome then m + 2 ^ k else m) 0

/-! ## Loading values -/

/-- A word of a section, least significant byte first. -/
def secWord (bs : List Byte) (a : Nat) : Word := toWord (leAt bs a 4)

def loadAfe (s : State) (bs : List Byte) : State :=
  let s := (List.range 256).foldl (fun s c => setChannel s c { channelOf s c with
    offset := BitVec.ofNat 16 (leAt bs (4 * c) 2)
    gain := BitVec.ofNat 16 (leAt bs (4 * c + 2) 2) }) s
  let outs := (List.range 64).foldl (fun t k => tset (fun _ => 0) t k (leAt bs (1024 + 2 * k) 2)) s.sel.trimOuts
  { s with sel := { s.sel with trimOuts := outs } }

def loadSelector (s : State) (bs : List Byte) : State :=
  (List.range 192).foldl (fun s l =>
    let o := 20 * l
    setLoop s l { loopOf s l with
      c2pi := leAt bs o 2
      v := Int.ofNat (leAt bs (o + 2) 2)
      t0 := leAt bs (o + 4) 2
      scanned := leAt bs (o + 6) 1 % 2 == 1
      tauSh := leAt bs (o + 7) 1
      ka := secWord bs (o + 8)
      kt := secWord bs (o + 12) }) s

/-- A slot with its eleven configuration words. -/
def slotFrom (x : Slot) (ws : List Word) : Slot :=
  let w (k : Nat) : Word := ws.getD k 0#32
  { x with
    cfg := w 0
    kp := w 1
    ki := w 2
    kd := w 3
    kf := w 4
    shifts := w 5
    outMin := w 6
    outMax := w 7
    sp := w 8
    rate := w 9
    again := w 10 }

/-- The slot table with the words that a SLOTS section gives each slot. -/
def loadSlots (s : State) (bs : List Byte) : State :=
  let l := (pieces 44 18432 bs).zip (List.range 18432)
  l.foldl (fun s x =>
    let ws := (List.range 11).map fun k => secWord x.1 (4 * k)
    setSlot s x.2 (slotFrom (slotOf s x.2) ws)) s

def loadAxes (s : State) (bs : List Byte) : State :=
  ((pieces 4 4608 bs).zip (List.range 4608)).foldl (fun s x =>
    setAxis s x.2 { axisOf s x.2 with hyst := secWord x.1 0 }) s

def loadMirrors (s : State) (bs : List Byte) : State :=
  ((pieces 28 4608 bs).zip (List.range 4608)).foldl (fun s x =>
    modSte s fun t => { t with
      coefs := tset (fun _ => none) t.coefs x.2 (some ((List.range 7).map fun k => secWord x.1 (4 * k))) }) s

/-- Slots take their defaults: disabled. -/
def defaultSlots (s : State) : State :=
  s.ste.slots.foldl (fun s x => setSlot s x.1 (slotFrom (slotOf s x.1)
    [0#32, 0#32, 0#32, 0#32, 0#32, 0#32, 0#32, 0x7FFFFFFF#32, 0#32, 0#32, 0#32])) s

/-- Step 1 of R361: the slot in use and its flags, and the records when none is valid or it is FOREIGN. [DEDUCED: log 137] -/
def fixChoose (s : State) : State :=
  let a := fixSlotValid s false
  let b := fixSlotValid s true
  if !a && !b then
    let s := modFix s fun x => { x with none_ := true, aValid := false, bValid := false, valid := 0#6, used := 0#6 }
    raiseIrqArgs (setRegN s (pageKey 0x46 0 + 0x01C) (stSTORE * 2 ^ 16 + 0x11 * 2 ^ 8)) 0x46 0 2 stSTORE []
  else
    let useB := b && (!a || fixSeqOf s false < fixSeqOf s true)
    let h := flashRead s (fixBase useB) 4096
    let own := slice h 12 48 == beBytes 48 identHash.toNat
    let m := fixMask s useB
    let s := modFix s fun x => { x with
      none_ := false
      slotB := useB
      aValid := a
      bValid := b
      foreign := !own
      seq := toWord (leAt h 8 4)
      valid := BitVec.ofNat 6 m
      used := BitVec.ofNat 6 (if own then m else m &&& 0x22)
      writer := slice h 12 48
      hash := fixHash s useB
      optime := BitVec.ofNat 40 (leAt h 64 5) }
    if own then s
    else raiseIrqArgs (setRegN s (pageKey 0x46 0 + 0x01C) (stFOREIGN * 2 ^ 16 + 0x12 * 2 ^ 8)) 0x46 0 3 stFOREIGN []

/-- A section of the slot in use that was taken into use. -/
def usedSection (s : State) (ty : Nat) : Option (List Byte) :=
  if !s.sel.fix.none_ && s.sel.fix.used.getLsbD (ty - 1) then sectionBytes s s.sel.fix.slotB ty else none

/-- Step 4 of R361: slot configuration, `AX_HYST`, coefficients and PARK values. -/
def fixLoadSteering (s : State) : State :=
  let s := match usedSection s 3 with | some bs => loadSlots s bs | none => defaultSlots s
  let s := match usedSection s 4 with
    | some bs => loadAxes s bs
    | none => s.ste.axes.foldl (fun s x => setAxis s x.1 { axisOf s x.1 with hyst := 0#32 }) s
  let s := match usedSection s 5 with
    | some bs => loadMirrors s bs
    | none => modSte s fun t => { t with coefs := [] }
  let both := (usedSection s 3).isSome && (usedSection s 5).isSome && !s.sel.fix.foreign
  let s := modSte s fun t => { t with storeCal := both }
  { s with sel := { s.sel with slotsFromStore := (usedSection s 3).isSome } }

/-! ## Saves (R370) -/

/-- A save may not run: the page reads FOREIGN and no PLANE calibration has ended OK since reset. -/
def saveBarred (s : State) : Bool := s.sel.fix.foreign && !s.sel.fix.planeOk

/-- A save starts: its values are taken, and the slot not in use is erased. -/
def fixStart (s : State) : State :=
  let x := s.sel.fix
  let target := !x.none_ && !x.slotB
  let seq := if x.none_ then 1#32 else x.seq + 1#32
  let img := fixImage s seq
  let s := flashErase s (fixBase target) 0x100000
  let s := { s with boot := { s.boot with flashBusy := true } }
  modFix s fun x => { x with
    saving := true
    pending := false
    image := img
    aValid := x.aValid && target
    bValid := x.bValid && !target }

/-- Ask for a save: it starts, or waits for the running one or for the management domain. -/
def fixRequest (s : State) : State :=
  if s.sel.fix.saving || s.boot.phase != .firmware || s.boot.flashBusy then modFix s fun x => { x with pending := true }
  else fixStart s

/-- An automatic save (R365). -/
def autoSave (s : State) : State := if saveBarred s then s else fixRequest s

/-- `FIX.CMD.SAVE`. -/
def fixSaveCmd (s : State) : Nat × State :=
  if saveBarred s then (stSTATE, s) else (stOK, fixRequest s)

/-- A pending save starts when nothing stops it. -/
def fixNext (s : State) : State :=
  if s.sel.fix.pending && !s.sel.fix.saving && s.boot.phase == .firmware && !s.boot.flashBusy then fixStart s else s

/-- A save's read-back ends: the written slot is in use, or STORE. [DEDUCED: log 85] -/
def fixSaveEnd (s : State) (ok : Bool) : State :=
  let x := s.sel.fix
  if !x.saving then s
  else
    let target := !x.none_ && !x.slotB
    let s := { s with boot := { s.boot with flashBusy := false } }
    if ok then
      let s := flashWrite s (fixBase target) x.image
      let h := x.image.take 4096
      let m := fixMask s target
      let s := modFix s fun y => { y with
        saving := false
        image := []
        none_ := false
        slotB := target
        aValid := y.aValid || !target
        bValid := y.bValid || target
        foreign := false
        seq := toWord (leAt h 8 4)
        valid := BitVec.ofNat 6 m
        used := BitVec.ofNat 6 m
        writer := slice h 12 48
        hash := fixHash s target
        optime := BitVec.ofNat 40 (leAt h 64 5) }
      fixNext (raiseIrq (wrapReg s Reg.FIX_CNT_SAVES 1) 0x46 0 0)
    else
      let s := modFix s fun y => { y with saving := false, image := [] }
      fixNext (raiseIrqArgs s 0x46 0 1 stSTORE [])

/-- `FIX.PAGE_STAT[7:0]`. -/
def fixState (s : State) : Nat :=
  let x := s.sel.fix
  if x.saving then 0x13 else if x.foreign then 0x12 else if x.none_ then 0x11 else 0x10

end Sys2Proof.Machine
end

