-- ==== Sys2Proof/Machine/RdnOps.lean ====
section
/-!
DEFINITION. Pair redundancy (R372 to R396): eligibility, the claim, comparison of outputs, the
self-check, and SYNC.
-/

namespace Sys2Proof.Machine

def modRdn (s : State) (f : Rdn → Rdn) : State := { s with rdn := f s.rdn }

/-- `RDN.ERR_CODE` records a status and a detail. -/
def rdnErr (s : State) (st det : Nat) : State :=
  setRegN s (pageKey 0x0A 0 + 0x01C) (det + rcode s.rdn.st * 2 ^ 8 + st * 2 ^ 16)

/-- `CFG.AUTO_RESYNC`. -/
def autoResync (s : State) : Bool := bitOf (getReg s Reg.RDN_CFG) 0

/-- A module is eligible to claim (R374). [DEDUCED: log 81] -/
def eligible (s : State) : Bool :=
  s.boot.sealOn && s.boot.phase != .recovery && s.boot.calibrated && enOf s 0x0A 0 &&
    s.rdn.st != .yielded && s.rdn.st != .disabled && planeUp s && !s.pwr.inReset &&
    !s.pwr.tripped

/-! ## What follows from any change (R327, R391) -/

/-- The service state or the contents of STATUS may have changed: the interrupt, the waiters, and a
STATUS message at once. `before` is the service state before. -/
def statusSettle (before : Nat) (s : State) : State :=
  let s := if service s != before then accWaitSettle (raiseIrqArgs s 0x42 0 4 0 [service s]) else s
  if partnerUp s && statusBytes s (eligible s) != s.rdn.lastStatus then sendStatus s (eligible s) else s

/-- A change after which STATUS and the service state are looked at. -/
def withStatus (s : State) (f : State → State) : State := statusSettle (service s) (f s)

/-! ## SYNC requests (R376, R388) -/

/-- Send SYNC_REQ, when a partner link is up, none is outstanding, and the module has sealed and calibrated. -/
def requestSync (s : State) : State :=
  if s.rdn.syncReq || !partnerUp s || !s.boot.sealOn || !s.boot.calibrated then s
  else
    let s := modRdn s fun r => { r with syncReq := true, syncMsgs := 0, syncImage := [], syncAfter := [] }
    sendSteer (setRegN s Reg.RDN_SYNC_STAT 0) 0x14 { b28 := 0#32, b32 := 0#16, b34 := 0#16, b36 := 0#32, data := [] }

/-- A WAITING or SYNCING module that senses the partner's claim requests a SYNC. -/
def maybeSync (s : State) : State :=
  if (s.rdn.st == .waiting || s.rdn.st == .syncing) && s.rdn.in_ then requestSync s else s

/-- Drop a SYNC in progress. -/
def endSync (s : State) : State :=
  modRdn s fun r => { r with syncReq := false, syncMsgs := 0, syncImage := [], syncAfter := [] }

/-! ## The claim (R375 to R378) -/

/-- Assert `CLAIM_OUT` and start the hold-off. [DEDUCED: log 82] -/
def attemptClaim (s : State) : State :=
  if s.rdn.in_ || !eligible s then s
  else modRdn (endSync s) fun r => { r with
    from_ := r.st
    st := .contending
    out := true
    outSense := true
    race := false
    raced := false
    backedOff := false }

/-- The hold-off ended with `CLAIM_IN` deasserted: the module holds the claim. [DEDUCED: log 81] -/
def takeClaim (s : State) : State :=
  let sb := s.rdn.from_ == .standby
  let s := modRdn s fun r => { r with
    st := .active
    race := false
    raced := false
    afterYield := false
    stale := false
    takeover := sb
    tilesLeft := if sb then (List.range 36).map fun t => (t, true) else [] }
  raiseIrq (if sb then bumpReg s Reg.RDN_CNT_SWITCH 1 else s) 0x0A 0 0

/-- The claim is released for a cause (R377); the Accord queue ends (R337). [DESIGN CHOICE: log 84] -/
def releaseClaim (s : State) (cause : Nat) (after : RState) : State :=
  if s.rdn.st == .active then
    let s := modRdn s fun r => { r with st := after, out := false, takeover := false, tilesLeft := [] }
    abortQueue (raiseIrqArgs s 0x0A 0 1 0 [cause])
  else if s.rdn.st == .contending then modRdn s fun r => { r with st := after, out := false }
  else s

/-- Causes of R377 as `RELEASED` records them in its arguments (DESIGN CHOICE: the table's rows). -/
abbrev relPlane : Nat := 2
abbrev relCheck : Nat := 4
abbrev relTile : Nat := 5
abbrev relYield : Nat := 6
abbrev relFault : Nat := 7

/-- The holder or a contender loses eligibility: the plane link is DOWN. [DEDUCED: log 81] -/
def claimPlaneDown (s : State) : State := if planeUp s then s else releaseClaim s relPlane .waiting

/-- A tile lost here that a STANDBY partner reports not lost (R377). -/
def tileCheck (s : State) : State :=
  if s.rdn.st == .active && s.rdn.heard && s.rdn.pState == 0x13 &&
      (List.range 36).any fun t => (tileOf s t).lost && !(s.rdn.pLost.getLsbD t) then
    releaseClaim s relTile .standby
  else s

/-- A race is on (R375 step 4): ROLE 0 deasserts and goes back, ROLE 1 goes on. -/
def claimRace (s : State) : State :=
  if s.rdn.st != .contending || s.rdn.race then s
  else
    let s := raiseIrq (bumpReg s Reg.RDN_CNT_RACE 1) 0x0A 0 6
    if strapRole s then modRdn s fun r => { r with race := true }
    else modRdn s fun r => { r with st := r.from_, out := false, backedOff := true }

/-- A hold-off ends. -/
def holdoffEnd (s : State) : State :=
  if s.rdn.st != .contending then s
  else if !s.rdn.in_ then takeClaim s
  else if s.rdn.raced then s
  else
    let s := rdnErr s stRANGE 0x10
    if ownPos s % 2 == 1 then maybeSync (modRdn s fun r => { r with st := r.from_, out := false, race := false })
    else modRdn s fun r => { r with raced := true }

/-- 3 µs after a back-off: the partner backed off too, so both straps are 0. [DEDUCED: log 82] -/
def backoffCheck (s : State) : State :=
  if !s.rdn.backedOff then s
  else
    let s := modRdn s fun r => { r with backedOff := false }
    if s.rdn.in_ then maybeSync s
    else
      let s := rdnErr s stRANGE 0x10
      if ownPos s % 2 == 0 then attemptClaim s else s

/-- A module leaves YIELDED (R383). -/
def leaveYielded (s : State) : State :=
  maybeSync (modRdn s fun r => { r with st := .waiting, yieldCause := 0, afterYield := true })

/-! ## Comparing outputs (R379, R380) -/

/-- Mirrors moving in Accords that this module has not committed although their SEQ has come. -/
def movingUncommitted (s : State) : List Nat :=
  s.ste.follow.flatMap fun f => if seqReached (seq0 s) f.1 then movedMirrors s.ste.present f.2 else []

/-- An axis takes no part in the comparison by this module's own mark. [DEDUCED: log 75] -/
def axisExcluded (s : State) (moving : List Nat) (a : Nat) : Bool :=
  let x := axisOf s a
  let t := s.ste.tune
  x.late || x.coefAge != 0 || x.replaced || x.early || (tileOf s (a / 128)).lost ||
    ((t.running || t.ending) && t.slot / 4 == a) || moving.contains (a / 2)

/-- The OUTPUT message of a tile. -/
def outputMsg (s : State) (t : Nat) : SteerMsg :=
  let moving := movingUncommitted s
  let codes := (List.range 128).flatMap fun i => beBytes 2 (axisOf s (128 * t + i)).code
  let ex := (List.range 16).map fun b =>
    BitVec.ofNat 8 ((List.range 8).foldl (fun n i =>
      if axisExcluded s moving (128 * t + 8 * b + i) then n + 2 ^ i else n) 0)
  { b28 := (tileOf s t).seq
    b32 := BitVec.ofNat 16 (t * 256 + b2n (holdsClaim s))
    b34 := 0#16
    b36 := 0#32
    data := codes ++ ex ++ zeros 48 }

/-- The first axis of two OUTPUTs of a tile that differs, neither marking it excluded. [DEDUCED: log 127] -/
def firstDiff (s : State) (a b : List Byte) : Option Nat :=
  let tol := fld (getReg s Reg.RDN_CMP_TOL) 0 16
  (List.range 128).find? fun i =>
    let ca := beAt a (2 * i) 2
    let cb := beAt b (2 * i) 2
    tol < (if ca < cb then cb - ca else ca - cb) && !(leAt a (256 + i / 8) 1).testBit (i % 8) &&
      !(leAt b (256 + i / 8) 1).testBit (i % 8)

/-- A mismatch is declared (R380): counted and recorded, and the self-check starts unless one runs. [DEDUCED: log 127] -/
def declareMismatch (s : State) (t axis : Nat) : State :=
  let s := bumpReg s Reg.RDN_CNT_MISMATCH 1
  let s := setRegN s Reg.RDN_LAST_MISMATCH (t + axis * 256)
  let s := raiseIrqArgs s 0x0A 0 2 0 [t, axis]
  if s.rdn.checking then s
  else modRdn s fun r => { r with checking := true, ownCheck := none, partnerCheck := none, declSeq := seq0 s }

/-- Compare this module's OUTPUT and the partner's for a tile, when both name one SEQ. [DEDUCED: log 127] -/
def compareTile (s : State) (t : Nat) : State :=
  let x := tileOf s t
  match x.own, x.partner with
  | some a, some b =>
    if a.b28 != b.b28 then s
    else
      let s := setTile s t { x with partner := none }
      match firstDiff s a.data b.data with
      | none => setTile s t { tileOf s t with mismatches := 0 }
      | some i =>
        let first := if x.mismatches == 0 then i else x.firstAxis
        if x.mismatches + 1 < 3 then setTile s t { tileOf s t with mismatches := x.mismatches + 1, firstAxis := first }
        else declareMismatch (setTile s t { tileOf s t with mismatches := 0 }) t (128 * t + first)
  | _, _ => s

/-- Mark the partner silent, unless it is marked (R380). [DEDUCED: log 128] -/
def markSilent (s : State) : State :=
  if s.rdn.silent then s
  else raiseIrqArgs (bumpReg (modRdn s fun r => { r with partnerOk := false, silent := true }) Reg.RDN_CNT_SILENT 1) 0x0A 0 4 0 [0]

/-- An OUTPUT message arrives. -/
def outputRecv (s : State) (m : SteerMsg) : State :=
  let t := m.b32.toNat / 256
  if 35 < t then s
  else
    let s := modRdn s fun r => { r with partnerOk := true, silent := false }
    compareTile (setTile s t { tileOf s t with partner := some m, silent := 0 }) t

/-! ## The self-check (R381, R382) -/

/-- The sample history as CHECK carries it: 36 tiles of 16 entries, oldest first. [DEDUCED: log 83] -/
def historyBytes (s : State) : List Byte :=
  (List.range 36).flatMap fun t =>
    let h := (tileOf s t).history
    let bs := h.flatMap fun e => beBytes 4 e.1.toNat ++ beBytes 4 e.2.toNat
    bs ++ zeros (128 - bs.length)

/-- The entries of one tile in a history; an entry of zeros stands for none. [DEDUCED: log 83] -/
def historyOf (bs : List Byte) (t : Nat) : List (Word × Word) :=
  ((List.range 16).map fun i => (toWord (beAt bs (128 * t + 8 * i) 4), toWord (beAt bs (128 * t + 8 * i + 4) 4))).filter
    fun e => !(e.1 == 0#32 && e.2 == 0#32)

/-- A SEQ within the span of a history. -/
def inSpan (h : List (Word × Word)) (q : Word) : Bool :=
  match h.head?, h.getLast? with
  | some a, some b => seqReached q a.1 && seqReached b.1 q
  | _, _ => false

/-- History `theirs` holds a SEQ within the span of `mine` that `mine` lacks. -/
def historyLacks (mine theirs : List Byte) : Bool :=
  (List.range 36).any fun t =>
    let a := historyOf mine t
    (historyOf theirs t).any fun e => inSpan a e.1 && a.all fun x => x.1 != e.1

/-- Both hold one SEQ with different CRC fields. -/
def historyDiffers (a b : List Byte) : Bool :=
  (List.range 36).any fun t => (historyOf a t).any fun x => (historyOf b t).any fun y => x.1 == y.1 && x.2 != y.2

/-- The cause of a side's own result: 0 is a pass (R381). -/
def checkCause (engine : Nat) (mine theirs : List Byte) (standby : Bool) : Nat :=
  if engine == 2 then 1
  else if historyLacks mine theirs then 2
  else if standby && historyDiffers mine theirs then 3
  else 0

/-- `LAST_CHECK` and its records. [DEDUCED: log 83] -/
def recordCheck (s : State) (own partner cause outcome : Nat) : State :=
  let w := own + partner * 4 + cause * 16 + s.rdn.failEngine % 64 * 256 + outcome * 2 ^ 16
  let s := modRdn (setRegN s Reg.RDN_LAST_CHECK w) fun r => { r with
    checking := false
    ownCheck := none
    partnerCheck := none }
  if own == 2 then raiseIrqArgs s 0x0A 0 3 0 [w] else event s 0x0A20 0x0A 0 0 [w]

/-- A module enters YIELDED with a cause. -/
def enterYielded (s : State) (cause : Nat) : State :=
  modRdn (endSync s) fun r => { r with st := .yielded, out := false, yieldCause := cause }

/-- Both CHECKs are there: the results and their outcome (R382). -/
def decideCheck (s : State) : State :=
  match s.rdn.ownCheck, s.rdn.partnerCheck with
  | some (e, _, h), some (pe, _, ph) =>
    let holder := s.rdn.st == .active
    let cause := checkCause e h ph (!holder)
    let pcause := checkCause pe ph h holder
    let own := if cause == 0 then 1 else 2
    let partner := if pcause == 0 then 1 else 2
    let hFail := if holder then own == 2 else partner == 2
    let sFail := if holder then partner == 2 else own == 2
    let outcome := if hFail && sFail then 2 else if hFail then 0 else if sFail then 1 else 3
    let s := recordCheck s own partner cause outcome
    if holder then
      (if outcome == 0 then modRdn (releaseClaim s relCheck .yielded) fun r => { r with yieldCause := cause } else s)
    else if own == 2 then enterYielded s cause
    else if outcome == 3 && autoResync s then requestSync s
    else s
  | _, _ => s

/-- The partner's CHECK did not come within 100 µs. -/
def checkMissingRun (s : State) : State :=
  match s.rdn.ownCheck, s.rdn.partnerCheck with
  | some (e, _, _), none =>
    let holder := s.rdn.st == .active
    let cause := if e == 2 then 1 else 0
    let s := recordCheck s (if e == 2 then 2 else 1) 3 cause 4
    if holder then markSilent s
    else if e == 2 then enterYielded s cause
    else
      let s := markSilent s
      if autoResync s then requestSync s else s
  | _, _ => s

/-- The engine test ends: failed engines go FAULTY, and CHECK goes to the partner. -/
def engineTestEnd (s : State) (failed : List Nat) : State :=
  if !s.rdn.checking || s.rdn.ownCheck.isSome then s
  else
    let bad := failed.filter fun e => lpeState s e == 0x10
    let s := bad.foldl (fun s e => setEng s 0x40 e { engOf s 0x40 e with faulty := true }) s
    let r := if bad.isEmpty then 1 else 2
    let c := if bad.isEmpty then 0 else 1
    let h := historyBytes s
    let s := modRdn s fun x => { x with ownCheck := some (r, c, h), failEngine := bad.headD 0 }
    let s := sendSteer s 0x13
      { b28 := s.rdn.declSeq, b32 := BitVec.ofNat 16 (r * 256 + c), b34 := 0#16, b36 := 0#32, data := h }
    decideCheck s

/-- The partner's CHECK arrives. [DEDUCED: log 81] -/
def checkRecv (s : State) (m : SteerMsg) : State :=
  if !s.rdn.checking then s
  else decideCheck (modRdn s fun r => { r with
    partnerCheck := some (m.b32.toNat / 256, m.b32.toNat % 256, m.data) })

/-! ## STATUS -/

/-- A STATUS message arrives. -/
def statusRecv (s : State) (m : SteerMsg) : State :=
  let s := modRdn s fun r => { r with
    heard := true
    pState := m.b32.toNat / 256
    pElig := m.b32.getLsbD 0
    pStale := m.b32.getLsbD 2
    pLost := BitVec.ofNat 40 (leAt m.data 0 5) }
  tileCheck s

/-- Every partner link is lost (R387). [DEDUCED: log 128] -/
def partnerLinksLost (s : State) : State :=
  if partnerUp s then s
  else
    let s := modRdn s fun r => { r with heard := false, partnerOk := false, silent := false, lastStatus := [] }
    if s.rdn.st == .standby && !s.rdn.stale then
      raiseIrqArgs (modRdn s fun r => { r with stale := true }) 0x0A 0 4 0 [1]
    else s

/-- A partner link came UP. -/
def partnerLinkBack (s : State) : State := if s.rdn.stale then requestSync s else maybeSync s

/-! ## Integrators, slot writes and trims from the holder (R385) -/

/-- The integrators of all slots that are not 0. [DEDUCED: log 76] -/
def integTable (s : State) : Tbl Word := s.ste.slots.filterMap fun x => if x.2.integ = 0#32 then none else some (x.1, x.2.integ)

/-- Correct or replace the integrators of slots `first` on by the values given for SEQ `q`. -/
def integFix (s : State) (q : Word) (first : Nat) (vals : List Word) : State :=
  let own := (s.ste.snaps.find? fun x => x.1 == q).map Prod.snd
  ((List.range vals.length).zip vals).foldl (fun s x =>
    let k := first + x.1
    let sl := slotOf s k
    match own with
    | some t =>
      let o := tget (fun _ => 0#32) t k
      if x.2 == o then s
      else bumpReg (setSlot s k { sl with integ := sl.integ + (x.2 - o) }) Reg.RDN_CNT_INTEG_FIX 1
    | none =>
      let s := bumpReg (setSlot s k { sl with integ := x.2 }) Reg.RDN_CNT_INTEG_FIX 1
      setAxis s (k / 4) { axisOf s (k / 4) with replaced := true }) s

/-- Words of a message's data, most significant byte first. [DEDUCED: log 86] -/
def msgWords (n : Nat) (bs : List Byte) : List Word := (List.range n).map fun i => toWord (beAt bs (4 * i) 4)

/-- A write waits for the first sample of its tile. [DEDUCED: log 79] -/
def queueWrite (s : State) (k ofs : Nat) (v : Word) : State := modSte s fun x => { x with writes := x.writes ++ [(k, ofs, v)] }

/-- Apply an INTEG, COEF, TRIM or ACCORD message of the holder. [DEDUCED: log 80] -/
def followMsg (s : State) (sub : Nat) (m : SteerMsg) : State :=
  match sub with
  | 0x01 => integFix s m.b28 m.b32.toNat (msgWords 2048 m.data)
  | 0x02 => queueWrite s m.b32.toNat m.b34.toNat (toWord (beAt m.data 0 4))
  | 0x12 =>
    queueWrite (queueWrite s m.b32.toNat 0x0B8 (toWord (beAt m.data 0 4))) m.b32.toNat 0x0BC (toWord (beAt m.data 4 4))
  | 0x03 => modSte s fun x => { x with follow := x.follow ++ [(m.b28, parseTable (m.data.take 4672))] }
  | _ => s

/-- Such a message arrives: a STANDBY module applies it, a SYNCING one holds it until its image is
applied, and a WAITING one takes the integrators only. [DEDUCED: log 79] -/
def followRecv (s : State) (sub : Nat) (m : SteerMsg) : State :=
  match s.rdn.st with
  | .standby => followMsg s sub m
  | .syncing => modRdn s fun r => { r with syncAfter := r.syncAfter ++ [(sub, m)] }
  | .waiting => if sub == 0x01 then followMsg s sub m else s
  | _ => s

/-! ## SYNC images (R388) -/

/-- The image: slots, axes, mirrors, the present table, trims, integrators and mirror states. [DEDUCED: log 86] -/
def syncImageBytes (s : State) : List Byte :=
  secSlots s ++ secAxes s ++ secMirrors s ++ tableBytes (planeNo s) s.ste.present.base s.ste.present ++
    ((List.range 4608).flatMap fun a => beBytes 4 (axisOf s a).trim.toNat) ++
    ((List.range 18432).flatMap fun k => beBytes 4 (slotOf s k).integ.toNat) ++
    (List.range 2304).map fun m => BitVec.ofNat 8 (mirOf s m)

/-- The holder sends an image that was asked for, once no Accord moves. -/
def imageTake (s : State) : State :=
  if !s.rdn.imageAsked || s.rdn.st != .active || s.ste.move.isSome then s
  else
    let q := seq0 s
    let s := modRdn s fun r => { r with imageAsked := false }
    ((List.range 130).zip (pieces 8192 130 (syncImageBytes s))).foldl (fun s x =>
      let o := 8192 * x.1
      sendSteer s 0x15 { b28 := q, b32 := BitVec.ofNat 16 (o / 65536), b34 := BitVec.ofNat 16 (o % 65536), b36 := 0#32, data := x.2 }) s

/-- `CAL.VALID.MIRRORS`: every mirror's calibration is valid (R365). -/
def mirrorsValid (s : State) : Bool := s.ste.storeCal || (List.range 2304).all fun m => mirValid s m

/-- SYNC_REQ arrives: refused with PARTNER, or an image is asked for. [DEDUCED: log 131] -/
def syncReqRecv (s : State) : State :=
  if s.rdn.st != .active || !mirrorsValid s then
    sendSteer s 0x16 { b28 := 0#32, b32 := BitVec.ofNat 16 stPARTNER, b34 := 0#16, b36 := 0#32, data := [] }
  else modRdn s fun r => { r with imageAsked := true }

/-- SYNC_DATA arrives. [DEDUCED: log 79] -/
def syncDataRecv (s : State) (m : SteerMsg) : State :=
  if !s.rdn.syncReq then s
  else
    let o := m.b32.toNat * 65536 + m.b34.toNat
    let s := modRdn s fun r => { r with
      st := if r.st == .waiting || r.st == .standby || r.st == .yielded then .syncing else r.st
      syncMsgs := min 130 (r.syncMsgs + 1)
      syncSeq := m.b28
      syncImage := twriteBytes (fun _ => 0#8) r.syncImage o m.data }
    setRegN s Reg.RDN_SYNC_STAT s.rdn.syncMsgs

/-- SYNC_REFUSE arrives. -/
def syncRefuseRecv (s : State) : State := if s.rdn.syncReq then rdnErr (endSync s) stPARTNER 0 else s

/-- A SYNC did not complete within 10 ms. -/
def syncTimeoutRun (s : State) : State :=
  if !s.rdn.syncReq then s
  else
    let s := endSync s
    let s := if s.rdn.st == .syncing || s.rdn.st == .standby || s.rdn.st == .yielded then
      modRdn s fun r => { r with st := .waiting } else s
    rdnErr s stLINK 0

/-- The complete image is applied at a tile-0 sample, then what was held, and the module is STANDBY; a
completed SYNC counts as a PLANE calibration of every mirror. [DEDUCED: log 79] -/
def syncApply (s : State) : State :=
  if !s.rdn.syncReq || s.rdn.syncMsgs < 130 then s
  else
    let r := s.rdn
    let img (a n : Nat) : List Byte := treadBytes (fun _ => 0#8) r.syncImage a n
    let s := loadMirrors (loadAxes (loadSlots s (img 0 811008)) (img 811008 18432)) (img 829440 129024)
    let t := parseTable (img 958464 4672)
    let s := (List.range 4608).foldl (fun s a =>
      setAxis s a { axisOf s a with trim := toWord (beAt (img (963136 + 4 * a) 4) 0 4), early := false }) s
    let s := integFix s r.syncSeq 0 (msgWords 18432 (img 981568 73728))
    let s := ((img 1055296 2304).zip (List.range 2304)).foldl (fun s x => setMir s x.2 x.1.toNat) s
    let s := modSte s fun x => { x with
      present := t
      doneNum := t.number
      move := none
      retries := []
      follow := x.follow.filter fun f => !seqReached r.syncSeq f.1
      mirCal := (List.range 2304).map fun m => (m, true) }
    let s := modRdn s fun x => { x with st := .standby, stale := false, afterYield := false }
    let s := r.syncAfter.foldl (fun s x => followMsg s x.1 x.2) (endSync s)
    let s := modFix s fun x => { x with planeOk := true }
    accWaitSettle (autoSave (raiseIrq s 0x0A 0 5))

/-! ## Commands (R396) -/

def yieldCmd (s : State) : Nat × State :=
  if s.rdn.st != .active then (stSTATE, s)
  else if !s.rdn.heard || s.rdn.pState != 0x13 || !s.rdn.pElig || s.rdn.pStale then (stPARTNER, s)
  else (stOK, releaseClaim s relYield .standby)

def syncCmd (s : State) : Nat × State :=
  if s.rdn.st != .waiting && s.rdn.st != .standby && s.rdn.st != .yielded then (stSTATE, s)
  else if !s.rdn.heard || s.rdn.pState != 0x15 || !partnerUp s then (stPARTNER, s)
  else (stOK, requestSync s)

def clearCmd (s : State) : Nat × State :=
  if s.rdn.st != .yielded then (stSTATE, s) else (stOK, leaveYielded s)

/-- `RDN.PAGE_CTL.EN` is written. [DEDUCED: log 81] -/
def rdnEnable (s : State) (on : Bool) : Nat × State :=
  if on then
    (stOK, if s.rdn.st == .disabled then maybeSync (modRdn s fun r => { r with st := .waiting }) else s)
  else if s.rdn.st == .active || s.rdn.st == .contending then (stSTATE, s)
  else (stOK, modRdn (endSync s) fun r => { r with st := .disabled, stale := false })

/-- `RDN.STATUS`. -/
def rdnStatus (s : State) : Nat :=
  let r := s.rdn
  b2n r.out + 2 * b2n r.in_ + 4 * b2n (r.out && r.outSense) + 8 * b2n (r.heard && r.partnerOk) + 16 * b2n r.stale +
    32 * b2n r.checking + 64 * b2n (eligible s) + 256 * r.pState

end Sys2Proof.Machine
end

