-- ==== Sys2Proof/Machine/SampleOps.lean ====
section
/-!
DEFINITION. SAMPLE frames (R302, R304, R309 to R316), ACTUATOR frames and deadlines (R303, R313), lost
tiles (R314), the plane link (R301), jog counters (R321), and the writes and commands of the steering
pages.
-/

namespace Sys2Proof.Machine

/-! ## Checks of a SAMPLE frame (R304) -/

/-- The frame's CRC is good, its TYPE and TILE are, and its reserved bytes are 0. [DEDUCED: log 69] -/
def sampleGood (bs : List Byte) : Bool :=
  bs.length == 660 && beAt bs 656 4 == (crc32c (bs.take 656)).toNat && leAt bs 0 1 == 1 && leAt bs 1 1 ≤ 35 &&
    leAt bs 13 3 == 0

/-- A frame is dropped: counted, with the interrupt. [DEDUCED: log 69] -/
def sampleDrop (s : State) (counter : Nat) : State := raiseIrq (bumpReg s counter 1) 0x41 0 3

/-- The tile's own record of an accepted frame; the history keeps the last 16. -/
def tileAccept (s : State) (t : Nat) (bs : List Byte) : State :=
  let x := tileOf s t
  let fl := beAt bs 2 2
  setTile s t { x with
    seen := true
    seq := toWord (beAt bs 4 4)
    at_ := s.ns
    actSeq := toWord (beAt bs 8 4)
    actSrc := BitVec.ofNat 8 (leAt bs 12 1)
    parked := fl.testBit 0
    hv := fl.testBit 1
    lost := false
    history := (x.history ++ [(toWord (beAt bs 4 4), toWord (beAt bs 656 4))]).drop (x.history.length + 1 - 16)
    due := true
    held := holdsClaim s
    silent := if partnerUp s then x.silent + 1 else 0 }

/-- The axes of a tile that was lost restart: y_prev = y and a preload from the last output. -/
def tileRestart (s : State) (t : Nat) : State :=
  (List.range 128).foldl (fun s i =>
    let a := 128 * t + i
    let x := axisOf s a
    let s := if x.driven then setAxis s a { x with preload := some x.uOut } else s
    (List.range 4).foldl (fun s k =>
      let sl := slotOf s (4 * a + k)
      if slotEn sl then setSlot s (4 * a + k) { sl with ySet := false } else s) s) s

/-- The taps of a tile's mirrors. -/
def tileTaps (s : State) (t : Nat) (bs : List Byte) : State :=
  modSte s fun x => { x with
    taps := (List.range 64).foldl (fun m j => tset (fun _ => 0) m (64 * t + j) (mirSample bs j).tap) x.taps }

/-- Apply the writes that wait for a tile's sample; the holder sends each slot write as COEF (R315, R339). [DEDUCED: log 75] -/
def applyWrites (s : State) (t : Nat) : State :=
  let ws := s.ste.writes.filter fun w => writeAxis w / 128 == t
  let s := modSte s fun x => { x with writes := x.writes.filter fun w => writeAxis w / 128 != t }
  ws.foldl (fun s w =>
    let s := slotPut s w.1 w.2.1 w.2.2
    let a := writeAxis w
    let mark (s : State) (a : Nat) : State := setAxis s a { axisOf s a with coefAge := 2 }
    let s := if w.2.1 == 0x0B8 || w.2.1 == 0x0BC then mark (mark s (2 * w.1)) (2 * w.1 + 1) else mark s a
    if s.rdn.st == .active && w.2.1 != 0x0B8 && w.2.1 != 0x0BC then
      sendSteer s 0x02
        { b28 := seq0 s, b32 := BitVec.ofNat 16 w.1, b34 := BitVec.ofNat 16 w.2.1, b36 := 0#32, data := beBytes 4 w.2.2.toNat }
    else s) s

/-- Keep the axes and slots of a tile as they stand before the sample (R313). [DEDUCED: log 76] -/
def keepBefore (s : State) (t : Nat) : State :=
  modSte s fun x => { x with
    before := (List.range 128).foldl (fun m i =>
      let a := 128 * t + i
      tset (fun _ => none) m a (some (axisOf s a, (List.range 4).map fun k => slotOf s (4 * a + k)))) x.before }

/-- The laws of a tile. -/
def tileLaws (s : State) (t : Nat) (bs : List Byte) : State :=
  (List.range 128).foldl (fun s i => axisStep (mirSample bs (i / 2)) s (128 * t + i)) s

/-- What tile 0 does ahead of its laws: a SYNC image, Accords done and committed, ramps. -/
def tile0Before (s : State) : State :=
  let s := doneTick (syncApply s)
  let (early, s) := followTick s
  let s := if early && autoResync s then requestSync s else s
  groupsTick (commitTick s)

/-- The nine INTEG messages of a snapshot (R339). [DEDUCED: log 76] -/
def sendInteg (s : State) (q : Word) (t : Tbl Word) : State :=
  (List.range 9).foldl (fun s k =>
    let bs := (List.range 2048).flatMap fun i => beBytes 4 (tget (fun _ => 0#32) t (2048 * k + i)).toNat
    sendSteer s 0x01 { b28 := q, b32 := BitVec.ofNat 16 (2048 * k), b34 := 2048#16, b36 := 0#32, data := bs }) s

/-- What tile 0 does after its laws: at SEQs that are multiples of 16 the snapshot, its messages at the
holder, and STATUS. While a SYNC is asked for, the integrators are kept at every tile-0 SEQ. [DEDUCED: log 75, 76] -/
def tile0After (s : State) : State :=
  let q := seq0 s
  let due := q.toNat % 16 == 0
  let s :=
    if due || s.rdn.syncReq then
      modSte s fun x =>
        let l := (q, integTable s) :: x.snaps
        { x with snaps := if s.rdn.syncReq then l.take 512 else (l.filter fun e => e.1.toNat % 16 == 0).take 2 }
    else s
  if !due then s
  else
    let s := modSte s fun x => { x with
      axes := tmapAll (fun _ => {}) x.axes fun e => { e with coefAge := e.coefAge - 1, replaced := false } }
    let s := if s.rdn.st == .active then sendInteg s q (integTable s) else s
    if partnerUp s then sendStatus s (eligible s) else s

/-- An accepted SAMPLE frame. [DEDUCED: log 70] -/
def sampleAccept (s : State) (bs : List Byte) : State :=
  let t := leAt bs 1 1
  let q := toWord (beAt bs 4 4)
  let old := tileOf s t
  let gap := (q - old.seq).toNat
  let s := if old.seen && 1 < gap then bumpReg s Reg.PLI_CNT_GAP (gap - 1) else s
  let s := tileAccept s t bs
  let s := if old.lost then tileRestart s t else s
  let s := if (tileOf s t).hv && !old.hv then raiseIrqArgs s 0x41 0 5 0 [t] else s
  let s := tileTaps s t bs
  let s := if t == 0 then tile0Before s else s
  let s := keepBefore (applyWrites s t) t
  let s := tileLaws s t bs
  let s := peakTick (settleTick s t) t
  if t == 0 then tile0After s else s

/-- A SAMPLE frame arrives. -/
def sampleRun (s : State) (bs : List Byte) : State :=
  if !planeUp s then s
  else if !sampleGood bs then sampleDrop s Reg.PLI_CNT_CRC
  else
    let old := tileOf s (leAt bs 1 1)
    let d := (toWord (beAt bs 4 4) - old.seq).toNat
    if old.seen && (d == 0 || 2 ^ 31 ≤ d) then sampleDrop s Reg.PLI_CNT_STALE
    else sampleAccept s bs

/-! ## ACTUATOR frames (R303, R306, R313) -/

/-- An axis whose laws missed the deadline: its values go back, its code repeats, its engine counts. [DEDUCED: log 77] -/
def missDeadline (s : State) (a : Nat) : State :=
  match tget (fun _ => none) s.ste.before a with
  | none => s
  | some (x, sl) =>
    let e := axisEngine s a
    let s := ((List.range 4).zip sl).foldl (fun s k => setSlot s (4 * a + k.1) k.2) s
    let s := setAxis s a { x with late := true, engine := (axisOf s a).engine }
    raiseIrqArgs (bumpReg s (Reg.at Reg.LPE_CNT_DL_MISS e) 1) 0x40 e 0 0 [a]

/-- The bytes of a tile's ACTUATOR frame. -/
def actuatorBytes (s : State) (t : Nat) (rep : Bool) : List Byte :=
  let head := [0x02#8, BitVec.ofNat 8 t] ++ beBytes 2 (b2n rep) ++ beBytes 4 (tileOf s t).seq.toNat ++
    [BitVec.ofNat 8 (16 * strapBoard s + ownPos s)] ++ zeros 7
  let b := head ++ (List.range 128).flatMap fun i => beBytes 2 (axisOf s (128 * t + i)).code
  b ++ beBytes 4 (crc32c b).toNat

/-- The first frame of a tile after a takeover, and Drydown at the last tile (R378). -/
def drydown (s : State) (t : Nat) : State :=
  if !s.rdn.takeover || !(tget (fun _ => false) s.rdn.tilesLeft t) then s
  else
    let s := modRdn s fun r => { r with tilesLeft := tset (fun _ => false) r.tilesLeft t false }
    if s.rdn.tilesLeft.isEmpty then
      setRegN (modRdn s fun r => { r with takeover := false }) Reg.RDN_LAST_DRYDOWN ((s.ns - s.rdn.senseNs).toNat % 2 ^ 32)
    else s

/-- The frame of a tile is complete: sent by the holder for a sample that came while it held the claim;
the OUTPUT message goes to the partner and is compared (R379). -/
def actuatorRun (s : State) (t : Nat) (late : List Nat) : State :=
  let x := tileOf s t
  if !x.due then s
  else
    let late := late.filter fun a => a / 128 == t
    let s := late.foldl missDeadline s
    let s :=
      if x.held && holdsClaim s then
        let s := send s (.actuator t (actuatorBytes s t (!late.isEmpty)))
        let s := wrapReg s Reg.PLI_CNT_ACT 1
        let ns := min 0xFFFF (s.ns - x.at_).toNat
        let s := if getRegN s Reg.PLI_LAT_MAX < ns then setRegN s Reg.PLI_LAT_MAX ns else s
        drydown s t
      else s
    let s := setTile s t { tileOf s t with due := false }
    if s.rdn.st == .active || s.rdn.st == .standby then
      let m := outputMsg s t
      let s := setTile s t { tileOf s t with own := some m }
      compareTile (sendSteer s 0x10 m) t
    else s

/-! ## Lost tiles and the plane link -/

/-- No SAMPLE came from a tile for `LOST_LIMIT` samples. -/
def tileLostRun (s : State) (t : Nat) : State :=
  if (tileOf s t).lost || !planeUp s then s
  else
    let s := setTile s t { tileOf s t with lost := true }
    tileCheck (raiseIrqArgs s 0x41 0 4 0 [t])

/-- Training of the plane link completes on the lanes given. -/
def planeUpRun (s : State) (lanes : BitVec 4) : State :=
  if !s.ste.training || lanes == 0#4 || !isOn s (dieIOD + 7) || !s.pwr.ref156 then s
  else withStatus s fun s =>
    maybeSync (raiseIrq (modSte s fun x => { x with lanes := lanes, training := false }) 0x41 0 0)

/-- Every lane of the plane link is gone: DOWN, and the claim is released (R36, R301, R377). -/
def planeDown (s : State) : State :=
  withStatus s fun s => claimPlaneDown (raiseIrq (modSte s fun x => { x with lanes := 0#4 }) 0x41 0 1)

/-- A lane of the plane link loses lock. -/
def planeLaneLossRun (s : State) (lane : Nat) : State :=
  if !(s.ste.lanes.getLsbD lane) then s
  else
    let rest := s.ste.lanes &&& ~~~ (BitVec.ofNat 4 (2 ^ lane))
    let s := raiseIrqArgs s 0x41 0 2 0 [lane]
    if rest == 0#4 then planeDown s else modSte s fun x => { x with lanes := rest }

/-- A retrain: the lanes drop until training completes. -/
def planeRetrain (s : State) : State :=
  let was := planeUp s
  withStatus s fun s =>
    let s := modSte s fun x => { x with lanes := 0#4, training := true }
    if was then claimPlaneDown (raiseIrq s 0x41 0 1) else s

/-- `PLI.PAGE_STAT[7:0]`. -/
def pliState (s : State) : Nat :=
  if s.ste.training then 0x11
  else if s.ste.lanes == 0#4 then 0x10
  else if s.ste.lanes == 0xF#4 then 0x12
  else 0x13

/-- Locked lanes. -/
def laneCount (l : BitVec 4) : Nat := b2n (l.getLsbD 0) + b2n (l.getLsbD 1) + b2n (l.getLsbD 2) + b2n (l.getLsbD 3)

/-- A mask over tiles. -/
def tileMask (s : State) (f : Tile → Bool) : Nat :=
  (List.range 36).foldl (fun n t => if f (tileOf s t) then n + 2 ^ t else n) 0

/-! ## Loop engines (R308, R340) -/

/-- An axis of a draining or FAULTY engine moves at a sample boundary. -/
def migrate (s : State) (a : Nat) : State :=
  let e := axisEngine s a
  if lpeState s e == 0x11 || lpeState s e == 0x14 then moveAxis s a else s

/-- RUNNING loop engines. -/
def runningEngines (s : State) : Nat := ((List.range 48).filter fun e => lpeState s e == 0x10).length

/-- HOLD is written 1 to a loop engine: DRAINING, or CAPACITY. -/
def lpeHoldCmd (s : State) (e : Nat) : Nat × State :=
  if lpeState s e != 0x10 then (if lpeState s e == 0x11 || lpeState s e == 0x12 then (stOK, s) else (stSTATE, s))
  else if runningEngines s ≤ 32 then (stCAPACITY, s)
  else
    let s := modSte s fun x => { x with draining := tset (fun _ => false) x.draining e true }
    (stOK, setRegFld s (pageKey 0x40 e + 0x008) 2 1 1)

/-- The last axis of a draining engine has moved. -/
def lpeDrained (s : State) (e : Nat) : State :=
  if lpeState s e != 0x11 || !(engineAxes s e).isEmpty then s
  else raiseIrq (modSte s fun x => { x with draining := tset (fun _ => false) x.draining e false }) 0x40 e 2

/-- HOLD is written 0 in HELD: RUNNING again; STATE elsewhere. -/
def lpeReleaseCmd (s : State) (e : Nat) : Nat × State :=
  if lpeState s e == 0x12 then (stOK, setRegFld s (pageKey 0x40 e + 0x008) 2 1 0)
  else if lpeState s e == 0x10 then (stOK, s)
  else (stSTATE, s)

/-- A self-test starts, after a soft reset or by GO: accepted in HELD only. -/
def lpeTestCmd (s : State) (e : Nat) (reset : Bool) : Nat × State :=
  if lpeState s e == 0x12 then (stOK, setEng s 0x40 e { engOf s 0x40 e with testing := true, fromReset := reset })
  else (stSTATE, s)

/-- A running loop engine faults. -/
def loopFault (s : State) (e : Nat) : State :=
  if lpeState s e == 0x10 || lpeState s e == 0x11 then setEng s 0x40 e { engOf s 0x40 e with faulty := true } else s

/-! ## The slot window (R315 to R317) -/

/-- The writes of the window are refused while the values come from the holder (R385). -/
def windowLocked (s : State) : Bool := s.rdn.st == .standby || s.rdn.st == .syncing

/-- The value that a window register takes from a written word: reserved bits stay 0. -/
def slotMask (ofs : Nat) (v : Word) : Word :=
  match ofs with
  | 0x104 => v &&& 0x001F7373#32
  | 0x118 => v &&& 0x1F1F1F1F#32
  | 0x128 => v &&& 0x7FFFFFFF#32
  | 0x148 => v &&& 0x7FFFFFFF#32
  | _ => v

/-- A `SLOT_CFG` value is allowed (R317). -/
def slotCfgOk (v : Word) : Bool :=
  fld v 4 3 ≤ 3 && fld v 8 2 != 3 && !(fld v 4 3 == 2 && 7 < fld v 12 3) && !(fld v 4 3 == 3 && 3 < fld v 12 3) &&
    !(fld v 4 3 == 0 && fld v 8 2 != 0)

/-- A write through the slot window: status and detail, and the write waiting for the tile's sample. -/
def slotWriteCmd (s : State) (ofs : Nat) (v : Word) : Nat × Nat × State :=
  let k := fld (getReg s Reg.LPE_SLOT_SEL) 0 15
  let v := slotMask ofs v
  if ofs != 0x148 && underTune s k then (stSTATE, 0, s)
  else if ofs == 0x104 && !slotCfgOk v then (stRANGE, 0x02, s)
  else if ofs == 0x11C && sw (slotReg s k 0x120) < sw v then (stRANGE, 0x02, s)
  else if ofs == 0x120 && sw v < sw (slotReg s k 0x11C) then (stRANGE, 0x02, s)
  else if windowLocked s then (stSTATE, 0, s)
  else (stOK, 0, queueWrite s k ofs v)

/-- The selected slot's `SLOT_CFG` with HOLD as given (R316). [DEDUCED: log 72, 73] -/
def slotHoldValue (s : State) (on : Bool) : Nat :=
  let w := slotReg s (fld (getReg s Reg.LPE_SLOT_SEL) 0 15) 0x104
  (putFld w 1 1 (b2n on)).toNat

/-- `MIR_TRIM_X` and `MIR_TRIM_Y`: the value waits for a sample, and the holder sends TRIM (R384). -/
def trimWriteCmd (s : State) (axisY : Bool) (v : Word) : Nat × State :=
  let m := fld (getReg s Reg.ACD_MIR_SEL) 0 12
  if windowLocked s then (stSTATE, s)
  else
    let s := queueWrite s m (if axisY then 0x0BC else 0x0B8) v
    let last (o : Nat) (a : Nat) : Word :=
      match (s.ste.writes.filter fun w => w.1 == m && w.2.1 == o).getLast? with
      | some w => w.2.2
      | none => (axisOf s a).trim
    if s.rdn.st == .active then
      (stOK, sendSteer s 0x12
        { b28 := seq0 s, b32 := BitVec.ofNat 16 m, b34 := 0#16, b36 := 0#32, data := beBytes 4 (last 0x0B8 (2 * m)).toNat ++ beBytes 4 (last 0x0BC (2 * m + 1)).toNat })
    else (stOK, s)

/-! ## Auto-tune (R323, R324) -/

/-- `AT_CTL.GO`. -/
def tuneGo (s : State) : Nat × State :=
  let k := fld (getReg s Reg.LPE_AT_SLOT_SEL) 0 15
  let m := k / 8
  let i := if m < 1152 then m else feederOf s.ste.present (m - 1152)
  let h := getRegN s Reg.LPE_AT_H % 2 ^ 31
  if 18431 < k || !slotEn (slotOf s k) || h == 0 ||
      getRegN s Reg.LPE_AT_AMAX % 2 ^ 31 ≤ getRegN s Reg.LPE_AT_EPS % 2 ^ 31 then (stRANGE, s)
  else if s.ste.tune.running then (stRESOURCE, s)
  else if !holdsClaim s || (i != 0xFFFF && circuitUp s i) ||
      (match s.ste.move with | some mv => mv.moved.contains m | none => false) then (stSTATE, s)
  else
    match freeGen s with
    | none => (stRESOURCE, s)
    | some g =>
      let b := (axisOf s (k / 4)).uOut
      let s := setRegN s Reg.LPE_AT_RESULT (2 ^ 24)
      (stOK, modSte s fun x => { x with tune := { running := true, slot := k, gen := g, bias := b, relay := b } })

/-! ## Jog inputs (R321) -/

/-- The position of a quadrature pair (A, B): A leads by going 0, 1, 2, 3. -/
def jogPhase (a b : Bool) : Nat := match a, b with | false, false => 0 | true, false => 1 | true, true => 2 | false, true => 3

/-- The filtered inputs of a jog pair change. -/
def jogRun (s : State) (k : Nat) (a b : Bool) : State :=
  let was := tget (fun _ => 0) s.ste.jogIn k
  let now := jogPhase a b
  let s := modSte s fun x => { x with jogIn := tset (fun _ => 0) x.jogIn k now }
  let step (d : Word) : State := modSte s fun x => { x with jogs := tmod (fun _ => 0#32) x.jogs k (· + d) }
  match (now + 4 - was) % 4 with
  | 1 => step 1#32
  | 3 => step 0xFFFFFFFF#32
  | 2 =>
    let n := fld (getReg s Reg.LPE_JOG_ERR) (8 * k) 8
    raiseIrqArgs (setRegFld s Reg.LPE_JOG_ERR (8 * k) 8 (min 255 (n + 1))) 0x40 0 4 0 [k]
  | _ => s

/-- An enabled PULSE slot follows a jog counter. -/
def jogUsed (s : State) (k : Nat) : Bool :=
  s.ste.slots.any fun x => slotEn x.2 && slotSrc x.2 == 3 && slotIdx x.2 == k

/-- `JOG_CTL.CLR`. -/
def jogClearCmd (s : State) (mask : Nat) : Nat × State :=
  if (List.range 4).any fun k => mask.testBit k && jogUsed s k then (stSTATE, s)
  else
    (stOK, modSte s fun x => { x with
      jogs := (List.range 4).foldl (fun t k => if mask.testBit k then tset (fun _ => 0#32) t k 0#32 else t) x.jogs })

/-! ## Views -/

/-- `LSTAT`. -/
def lstat (s : State) (k : Nat) : Nat :=
  let x := slotOf s k
  b2n ((axisOf s (k / 4)).winner == some (k % 4)) + 2 * b2n x.sat + 4 * b2n x.integd + 8 * b2n x.held +
    16 * b2n (underTune s k) + 256 * axisEngine s (k / 4)

/-- `AX_CODE`. -/
def axCode (s : State) (a : Nat) : Nat :=
  let ks := (List.range 4).filter fun k => slotEn (slotOf s (4 * a + k))
  (axisOf s a).code + 65536 * (axisOf s a).winner.getD 0 + 2 ^ 18 * b2n ks.isEmpty +
    2 ^ 19 * b2n (ks.any fun k => slotSrc (slotOf s (4 * a + k)) == 2 || slotSrc (slotOf s (4 * a + k)) == 3) +
    2 ^ 20 * b2n (axisInService s a)

/-- `MIR_STAT`. [DEDUCED: log 78] -/
def mirStat (s : State) (m : Nat) : Nat :=
  let q := targetOf s.ste.present m
  mirOf s m + 65536 * (if q == 0xFFFF then 0x7FF else q)

end Sys2Proof.Machine
end

