-- ==== Sys2Proof/Machine/KftOps.lean ====
section
/-!
DEFINITION. Face-plate ports and the Flow Transport (R286 to R299): frames and their checks, receive
windows, transfers to KFT destinations, the Atomizer, and branch changes.
-/

namespace Sys2Proof.Machine

/-! ## The port and its frames (R286 to R289) -/

/-- The I/O die of a face-plate port is ON. -/
def portDieOn (s : State) (p : Nat) : Bool := isOn s (dieIOD + p / 8)

def cagePresent (s : State) (p : Nat) : Bool := tget (fun _ => false) s.sel.present p

def fselForced (s : State) (p : Nat) : Bool := bitOf (getReg s (Reg.at Reg.FSL_FSEL_FORCE p)) 0

/-- `FSEL_TX` as driven: undriven pairs fail to branch 0 (R347). -/
def fselTx (s : State) (p : Nat) : Nat :=
  if !portDieOn s p then 0
  else if fselForced s p then fld (getReg s (Reg.at Reg.FSL_FSEL_FORCE p)) 1 2
  else if cagePresent s p then (portOf s p).txBr else 0

def fselRx (s : State) (p : Nat) : Nat :=
  if !portDieOn s p then 0
  else if fselForced s p then fld (getReg s (Reg.at Reg.FSL_FSEL_FORCE p)) 3 2
  else if cagePresent s p then (portOf s p).rxBr else 0

/-- The port's MAC: the module MAC plus 1 + p. -/
def portMac (p : Nat) : BitVec 48 := Config.moduleMac + BitVec.ofNat 48 (1 + p)

/-- The peer MAC of a branch, when it is in force. -/
def peerMac (x : Port) (b : Nat) : Option (BitVec 48) :=
  let hi := tget (fun _ => 0#32) x.macHi b
  if bitOf hi 31 then some (BitVec.ofNat 48 (fld hi 0 16 * 2 ^ 32 + (tget (fun _ => 0#32) x.macLo b).toNat)) else none

abbrev ftDATA : Nat := 1
abbrev ftACK : Nat := 3
abbrev ftNAK : Nat := 4
abbrev ftCREDIT : Nat := 5
abbrev ftBEND : Nat := 6
abbrev ftBRANCH : Nat := 7

/-- A frame's size on the line: Ethernet header, KFT header, payload, padding, FCS. -/
def kftSize (len : Nat) : Nat := max 64 (14 + 32 + len + 4)

/-- A frame of this port with every field 0 that its type does not use. -/
def blankFrame (s : State) (p : Nat) (dst : BitVec 48) (br : Nat) : KftFrame :=
  { fcsOk := true, size := 64, dst := dst, src := portMac p, etype := (getReg s (Reg.at Reg.FPP_ETYPE p)).setWidth 16,
    ver := 1#4, reserved0 := true, branch := BitVec.ofNat 2 br, flags := 0#8, domain := 0#16, stream := 0#24,
    format := 0#8, seq := 0#32, offset := 0#48, length := 0#16, segs := 0#8, epoch := 0#8, reason := 0#8,
    arg0 := 0#32, arg1 := 0#32, payload := [] }

/-- Put a frame on the line: recorded and counted on its branch (R298). -/
def kftSend (s : State) (p kind : Nat) (f : KftFrame) : State :=
  let x := portOf s p
  let s := setPort s p { x with brTx := tmod (fun _ => 0) x.brTx f.branch.toNat (· + f.size) }
  send s (.kft p (BitVec.ofNat 8 kind) f)

/-- The port may send on its transmit branch. -/
def canSend (x : Port) : Bool := x.st == .up && !x.paused

/-- Two answers of one transfer: type, domain, stream and transfer number. -/
def sameAnswer (a b : Nat × Byte × KftFrame) : Bool :=
  a.1 == b.1 && a.2.1 == b.2.1 && a.2.2.domain == b.2.2.domain && a.2.2.stream == b.2.2.stream &&
    fld a.2.2.seq 24 8 == fld b.2.2.seq 24 8

/-- An answer joins those owed on another branch: coalesced per transfer, 64 for each branch, the
oldest discarded (R298). -/
def oweAnswer (l : List (Nat × Byte × KftFrame)) (a : Nat × Byte × KftFrame) : List (Nat × Byte × KftFrame) :=
  let l := l.filter fun x => !sameAnswer x a
  let n := (l.filter fun x => x.1 == a.1).length
  (if n < 64 then l else l.eraseIdx (l.findIdx fun x => x.1 == a.1)) ++ [a]

/-- Send ACK, NAK or CREDIT on a branch, or keep it for the return to that branch. -/
def sendAnswer (s : State) (p kind : Nat) (f : KftFrame) : State :=
  let x := portOf s p
  let b := f.branch.toNat
  if b == x.txBr && canSend x then kftSend s p kind f
  else setPort s p { x with owed := oweAnswer x.owed (b, BitVec.ofNat 8 kind, f) }

/-- Send the answers owed on the transmit branch. -/
def flushOwed (s : State) (p : Nat) : State :=
  let x := portOf s p
  if !canSend x then s
  else
    let mine := x.owed.filter fun a => a.1 == x.txBr
    let s := setPort s p { x with owed := x.owed.filter fun a => a.1 != x.txBr }
    mine.foldl (fun s a => kftSend s p a.2.1.toNat a.2.2) s

/-! ## Checks on receipt (R287) -/

/-- Drop a frame: its counter and the DROP bit. -/
def kftDrop (s : State) (p counter : Nat) : State := raiseIrq (bumpReg s (Reg.at counter p) 1) 0x31 p 2

/-- The FLAGS, DOMAIN and LENGTH of a header are in range and the payload fits the frame. -/
def kftHeaderOk (f : KftFrame) : Bool :=
  f.ver == 1#4 && f.reserved0 && f.flags.toNat < 8 && f.domain.toNat < 4096 && f.length.toNat ≤ 8192 &&
    f.payload.length == f.length.toNat && 50 + f.length.toNat ≤ f.size

/-- Steps 1 to 4 of R287, for a frame on the receive branch of an UP port: the state with the frame
counted, and whether it goes on. -/
def kftCheck (s : State) (p : Nat) (f : KftFrame) : Bool × State :=
  let x := portOf s p
  if x.st != .up || f.branch.toNat != x.rxBr then (false, s)
  else
    let s := setPort s p { x with brRx := tmod (fun _ => 0) x.brRx x.rxBr (· + f.size) }
    if !f.fcsOk || 9216 < f.size then (false, kftDrop s p Reg.FPP_CNT_FCS)
    else if f.dst != portMac p then (false, kftDrop s p Reg.FPP_CNT_MAC)
    else if f.etype.toNat != fld (getReg s (Reg.at Reg.FPP_ETYPE p)) 0 16 then (false, kftDrop s p Reg.FPP_CNT_ETYPE)
    else if !kftHeaderOk f then (false, kftDrop s p Reg.FPP_CNT_HDR)
    else (true, s)

/-! ## DATA (R290 to R292) -/

/-- A short last segment of an MX payload: 64 bytes of scales and whole lines (R191). -/
def shortSegOk (code n : Nat) : Bool :=
  (List.range 64).any fun k => n == 64 + roundUp 64 (k * blockBytes code) && 0 < k

/-- The layout of R290. [DEDUCED: log 91] -/
def layoutOk (f : KftFrame) : Bool :=
  let c := f.format.toNat
  let n := f.length.toNat
  let o := f.offset.toNat
  if !fmtKnown c then false
  else if isMx c then
    let g := segBytes c
    let k := f.segs.toNat
    o % g == 0 && 0 < k && k * g ≤ 8192 &&
      (n == k * g || (f.flags.getLsbD 1 && (k - 1) * g < n && n < k * g && shortSegOk c (n - (k - 1) * g)))
  else f.segs == 0#8 && o % elemBytes c == 0 && n % elemBytes c == 0

/-- A NAK for `count` frames from the frame's answer address. -/
def sendNak (s : State) (p : Nat) (f : KftFrame) (seq : Word) (reason count : Nat) : State :=
  sendAnswer s p ftNAK { blankFrame s p f.src f.branch.toNat with
    domain := f.domain
    stream := f.stream
    seq := seq
    reason := BitVec.ofNat 8 reason
    arg0 := toWord count }

/-- Remember a source without a window: 64 entries, the oldest replaced (R291). -/
def recordNoWin (s : State) (p : Nat) (f : KftFrame) : State :=
  let x := portOf s p
  let e := (f.domain, f.stream, f.src, f.branch.toNat)
  let l := x.noWin.filter fun y => !(y.1 == f.domain && y.2.1 == f.stream && y.2.2.1 == f.src)
  setPort s p { x with noWin := (if 64 ≤ l.length then l.drop 1 else l) ++ [e] }

/-- The open windows that a frame's domain, stream and port match (R169). [DEDUCED: log 91] -/
def windowsFor (s : State) (p : Nat) (f : KftFrame) : List Window :=
  s.flow.windows.filter fun w =>
    w.domain.toNat == f.domain.toNat && w.stream == f.stream.toNat && (w.port == 0xFF || w.port == p)

/-- The window that a payload touches: the whole of it or a part. [DEDUCED: log 91] -/
def windowTouched (s : State) (p : Nat) (f : KftFrame) : Option Window :=
  (windowsFor s p f).find? fun w =>
    f.offset.toNat < w.base + w.len && w.base < f.offset.toNat + max f.length.toNat 1

/-- What the receiver tracks of the transfer into a window. -/
def trackOf (s : State) (w : Window) (p : Nat) (f : KftFrame) : Track :=
  let fresh : Track := { queue := w.queue, idx := w.idx, port := p, branch := f.branch.toNat, mac := f.src, domain := f.domain, stream := f.stream, number := fld f.seq 24 8, next := 0, recorded := [], owed := 0, naked := [] }
  match s.kft.tracks.find? fun t => t.queue == w.queue && t.idx == w.idx with
  | some t => if t.number == fld f.seq 24 8 then { t with port := p, branch := f.branch.toNat, mac := f.src } else fresh
  | none => fresh

def setTrack (s : State) (t : Track) : State :=
  let rest := s.kft.tracks.filter fun u => !(u.queue == t.queue && u.idx == t.idx)
  { s with kft := { s.kft with tracks := rest ++ [t] } }

/-- Take the recorded frames that continue the run. -/
def absorb : Nat → Track → Track
  | 0, t => t
  | n + 1, t =>
    if t.recorded.contains t.next then
      absorb n { t with next := t.next + 1, recorded := t.recorded.filter (· != t.next) }
    else t

/-- A track with frame `no` received; the flag tells a duplicate. -/
def trackFrame (t : Track) (no : Nat) : Bool × Track :=
  if no < t.next || t.recorded.contains no then (true, t)
  else if no == t.next then (false, absorb 33 { t with next := t.next + 1 })
  else if no < t.next + 32 then (false, { t with recorded := t.recorded ++ [no] })
  else (false, t)

/-- Runs of consecutive numbers of an ascending list: (first, count). -/
def runsOf : List Nat → List (Nat × Nat)
  | [] => []
  | n :: t =>
    match runsOf t with
    | (a, c) :: r => if n + 1 == a then (n, c + 1) :: r else (n, 1) :: (a, c) :: r
    | [] => [(n, 1)]

/-- Send the ACK of a track: the last frame in order and the 32 after it. [DEDUCED: log 91] -/
def sendAck (s : State) (t : Track) : State :=
  let bits := (List.range 32).foldl (fun m i => if t.recorded.contains (t.next + i) then m + 2 ^ i else m) 0
  let seq := t.number * 2 ^ 24 + (t.next + 2 ^ 24 - 1) % 2 ^ 24
  sendAnswer (setTrack s { t with owed := 0 }) t.port ftACK { blankFrame s t.port t.mac t.branch with
    domain := t.domain
    stream := t.stream
    seq := toWord seq
    arg0 := toWord bits }

/-- Track a placed frame: NAKs for the gap it leaves, and an ACK when one is due (R292). -/
def trackAnswer (s : State) (w : Window) (p : Nat) (f : KftFrame) : State :=
  let no := fld f.seq 0 24
  let (dup, t) := trackFrame (trackOf s w p f) no
  let s := if dup then bumpReg s (Reg.at Reg.FPP_CNT_DUP p) 1 else s
  let gap := (List.range (min 32 (no - t.next))).map (t.next + ·)
  let miss := gap.filter fun n => !t.recorded.contains n && !t.naked.contains n
  let t := { t with owed := t.owed + 1, naked := t.naked.filter (t.next ≤ ·) ++ miss }
  let s := setTrack s t
  let s := (runsOf miss).foldl (fun s r => sendNak s p f (toWord (t.number * 2 ^ 24 + r.1)) 0 r.2) s
  if fld (getReg s (Reg.at Reg.FPP_KFT_CFG p)) 0 4 ≤ t.owed || f.flags.getLsbD 1 || f.flags.getLsbD 2 then sendAck s t
  else s

/-- Replace an open window. -/
def setWindow (s : State) (w : Window) : State :=
  { s with flow := { s.flow with windows := s.flow.windows.map fun v =>
      if v.queue == w.queue && v.idx == w.idx then w else v } }

/-- Forget the tracks of windows that have closed. -/
def dropTracks (s : State) : State :=
  { s with kft := { s.kft with tracks := s.kft.tracks.filter fun t => (windowOf s t.queue t.idx).isSome } }

/-- A window with the bytes of a frame placed at an offset. -/
def placedWindow (w : Window) (o : Nat) (f : KftFrame) : Window :=
  let w := { w with placed := if f.payload.isEmpty then w.placed else addRun w.placed (o, o + f.payload.length) }
  { w with chunks := wholeChunks w }

/-- Its token rises by the chunks that became whole. -/
def placeSignal (s : State) (w : Window) (k : Nat) (d : Desc) : State :=
  match w.tok with
  | some t => if w.chunks < k then (tokLocal s t (dDomain d) fun s t => tokAdd s t (k - w.chunks)).2 else s
  | none => s

/-- Place a payload in a window (R169, R170): the chunk token follows the run of whole chunks, and a
full window completes its RECV. -/
def placeFrame (s : State) (w : Window) (p : Nat) (f : KftFrame) : State :=
  let o := f.offset.toNat - w.base
  let (st, s) := writeMem s (w.dst + o) f.payload
  match findDesc s w.queue w.idx with
  | none => s
  | some d =>
    if st != stOK then dropTracks (failDesc s w.queue d st 0 true false)
    else
      let w' := placedWindow w o f
      let s := trackAnswer (setWindow s w') w' p f
      dropTracks (recvRun (placeSignal s w w'.chunks d) w.queue d)

/-- A DATA frame that passed steps 1 to 4 (R291). [DEDUCED: log 91] -/
def kftDataRun (s : State) (p : Nat) (f : KftFrame) : State :=
  if !layoutOk f then sendNak (kftDrop s p Reg.FPP_CNT_FMT) p f f.seq 4 1
  else
    match windowTouched s p f with
    | none => sendNak (recordNoWin (kftDrop s p Reg.FPP_CNT_NOWIN) p f) p f f.seq 1 1
    | some w =>
      if f.offset.toNat < w.base || w.base + w.len < f.offset.toNat + f.length.toNat then
        sendNak (kftDrop s p Reg.FPP_CNT_BOUNDS) p f f.seq 2 1
      else if w.format != f.format.toNat then sendNak (kftDrop s p Reg.FPP_CNT_FMT) p f f.seq 3 1
      else placeFrame s w p f

/-- A window has opened: CREDIT for its range to every recorded source of its domain and stream. -/
def creditSources (s : State) (w : Window) : State :=
  let e := w.base + w.len
  (List.range 32).foldl (fun s p =>
    if w.port != 0xFF && w.port != p then s
    else
      let x := portOf s p
      let mine := x.noWin.filter fun y => y.1.toNat == w.domain.toNat && y.2.1.toNat == w.stream
      let s := setPort s p { x with
        noWin := x.noWin.filter fun y => !(y.1.toNat == w.domain.toNat && y.2.1.toNat == w.stream) }
      mine.foldl (fun s y => sendAnswer s p ftCREDIT { blankFrame s p y.2.2.1 y.2.2.2 with
        domain := y.1
        stream := y.2.1
        offset := BitVec.ofNat 48 w.base
        arg0 := toWord (e / 2 ^ 32 % 65536)
        arg1 := toWord (e % 2 ^ 32) }) s) s

/-- `ACK_DELAY` has passed: an ACK for every transfer into the port that has frames without one. -/
def ackDelayRun (s : State) (p : Nat) : State :=
  (s.kft.tracks.filter fun t => t.port == p && 0 < t.owed).foldl sendAck s

/-! ## TOKEN (R293) -/

/-- The refusals of R157 and R185 on a token write that carries a domain. [DEDUCED: log 92] -/
def tokWriteFor (s : State) (t dom : Nat) (f : State → Nat → State) : Nat × State :=
  if unitSt s (tokDie t) == .failed then (stNOTREADY, s)
  else if !tokBound s t dom then
    (stAUTH, raiseIrq (bumpReg s (Reg.at Reg.SCH_CNT_TOK_DROP (tokDie t)) 1) 0x10 (tokDie t) 3)
  else (stOK, f s t)

/-- A TOKEN frame that passed steps 1 to 4: applied once, acknowledged at once. [DEDUCED: log 92] -/
def kftTokenRun (s : State) (p : Nat) (f : KftFrame) : State :=
  let x := portOf s p
  let key := (f.domain, f.stream, f.seq)
  let t := fld f.arg0 0 12
  let v := f.arg1.toNat
  let s :=
    if x.tokens.contains key || 0xFFFFF < v then s
    else
      let (st, s) := tokWriteFor s t f.domain.toNat
        fun s t => if bitOf f.arg0 31 then tokSet s t v else tokAdd s t v
      if st != stOK then s
      else
        let x := portOf s p
        setPort s p { x with tokens := (if 256 ≤ x.tokens.length then x.tokens.drop 1 else x.tokens) ++ [key] }
  sendAnswer s p ftACK { blankFrame s p f.src f.branch.toNat with
    domain := f.domain
    stream := f.stream
    seq := f.seq }

/-! ## The sender (R294) -/

/-- The fields of an ATOMIZE (R173). -/
def atmSrc (d : Desc) : Nat := leAt d.raw 24 8
def atmLength (d : Desc) : Nat := leAt d.raw 32 4
def atmDests (d : Desc) : Nat := leAt d.raw 36 2
def atmEntry (d : Desc) (i : Nat) : List Byte := slice d.dlist (16 * i) 16

/-- Payload bytes of a full frame of a format (R290). -/
def frameBytes (code : Nat) : Nat := if isMx code then 8192 / segBytes code * segBytes code else 8192

/-- The frames of a transfer of `len` bytes. -/
def framesOf (code len : Nat) : List TxFrame :=
  let g := frameBytes code
  (List.range ((len + g - 1) / g)).map fun k => { no := k, at_ := g * k, len := min g (len - g * k), sends := 0, again := false }

def sameTransfer (a b : Transfer) : Bool := a.queue == b.queue && a.idx == b.idx && a.dest == b.dest

def setTransfer (s : State) (t : Transfer) : State :=
  { s with kft := { s.kft with transfers := s.kft.transfers.map fun u => if sameTransfer u t then t else u } }

def dropTransfer (s : State) (t : Transfer) : State :=
  { s with kft := { s.kft with transfers := s.kft.transfers.filter fun u => !sameTransfer u t } }

/-- An ATOMIZE whose destinations have all ended completes. -/
def atmSettle (s : State) (q : Nat) (d : Desc) : State :=
  if d.ran && d.outstanding == 0 then finish s q d d.status d.detail else setDesc s q d

/-- A destination of an ATOMIZE fails: counted, its status kept when it is the first (R174). -/
def destFails (s : State) (q : Nat) (d : Desc) (i st : Nat) : Desc × State :=
  let d := { d with
    status := if d.status == stOK then st else d.status
    destFail := if d.destFail.contains i then d.destFail else d.destFail ++ [i] }
  (d, bumpReg s (Reg.at Reg.ATM_DEST_FAIL (q / 16)) 1)

/-- A transfer ends: its destination is served or has failed. -/
def endTransfer (s : State) (t : Transfer) (st : Nat) : State :=
  let s := dropTransfer s t
  match findDesc s t.queue t.idx with
  | none => s
  | some d =>
    let d := { d with outstanding := d.outstanding - 1 }
    if st == stOK then atmSettle s t.queue { d with done := d.done + atmLength d }
    else
      let (d, s) := destFails s t.queue d t.dest st
      atmSettle s t.queue d

/-- The DATA frame for a frame of a transfer, rebuilt from the source. -/
def dataFrame (s : State) (t : Transfer) (d : Desc) (mac : BitVec 48) (x : TxFrame) : KftFrame :=
  let last := x.no + 1 == t.count
  let segs := if isMx t.format then (x.len + segBytes t.format - 1) / segBytes t.format else 0
  { blankFrame s t.port mac (portOf s t.port).txBr with
    size := kftSize x.len
    flags := BitVec.ofNat 8 (b2n (0 < x.sends) + 2 * b2n last)
    domain := BitVec.ofNat 16 t.domain
    stream := BitVec.ofNat 24 t.stream
    format := BitVec.ofNat 8 t.format
    seq := toWord (t.number * 2 ^ 24 + x.no)
    offset := BitVec.ofNat 48 (t.base + x.at_)
    length := BitVec.ofNat 16 x.len
    segs := BitVec.ofNat 8 segs
    epoch := (portOf s t.port).epTx
    payload := readBytes s (atmSrc d + x.at_) x.len }

/-- Send the frames of a transfer that are due: new ones, and those to be sent again first. A branch
without a peer MAC ends the destination STATE, a frame sent RETX_MAX times LINK. -/
def sendDue (s : State) (t : Transfer) : State :=
  let x := portOf s t.port
  if !canSend x then s
  else
    match peerMac x x.txBr, findDesc s t.queue t.idx with
    | none, _ => endTransfer s t stSTATE
    | _, none => dropTransfer s t
    | some mac, some d =>
      let due (f : TxFrame) : Bool := f.again || f.sends == 0
      if t.frames.any fun f => due f && fld (getReg s (Reg.at Reg.FPP_KFT_CFG t.port)) 16 8 ≤ f.sends then
        endTransfer (raiseIrq s 0x31 t.port 3) t stLINK
      else
        let order := (t.frames.filter (·.again)) ++ t.frames.filter fun f => !f.again && f.sends == 0
        let s := order.foldl (fun s f =>
          let s := if 0 < f.sends then bumpReg s (Reg.at Reg.FPP_CNT_RETX t.port) 1 else s
          let fr := dataFrame s t d mac f
          let s := bump64 s (Reg.at Reg.ATM_BYTES_LO (t.queue / 16)) (Reg.at Reg.ATM_BYTES_HI (t.queue / 16))
            (if f.sends == 0 then f.len else 0)
          kftSend s t.port ftDATA fr) s
        setTransfer s { t with frames := t.frames.map fun f => if due f then { f with sends := f.sends + 1, again := false } else f }

/-- Send what waits on a port: owed answers, then due frames. -/
def portResume (s : State) (p : Nat) : State :=
  let s := flushOwed s p
  (s.kft.transfers.filter fun (t : Transfer) => t.port == p).foldl sendDue s

/-- The transfer that an answer names. -/
def transferFor (s : State) (p : Nat) (f : KftFrame) : Option Transfer :=
  s.kft.transfers.find? fun t =>
    t.port == p && t.domain == f.domain.toNat && t.stream == f.stream.toNat && t.number == fld f.seq 24 8

/-- An ACK: frames up to SEQ and the marked ones are acknowledged; a transfer without frames is served. -/
def kftAckRun (s : State) (p : Nat) (f : KftFrame) : State :=
  match transferFor s p f with
  | none => s
  | some t =>
    let next := (fld f.seq 0 24 + 1) % 2 ^ 24
    let got (n : Nat) : Bool := n < next || (n < next + 32 && f.arg0.getLsbD (n - next))
    let t := { t with frames := t.frames.filter fun x => x.sends == 0 || !got x.no }
    if t.frames.isEmpty then endTransfer s t stOK else setTransfer s t

/-- A NAK: GAP sends the named frames again at once; NOWINDOW waits for a CREDIT; other reasons end the
destination LINK. -/
def kftNakRun (s : State) (p : Nat) (f : KftFrame) : State :=
  let s := bumpReg s (Reg.at Reg.FPP_CNT_NAK_RX p) 1
  match transferFor s p f with
  | none => s
  | some t =>
    let lo := fld f.seq 0 24
    match f.reason.toNat with
    | 0 =>
      let t := { t with frames := t.frames.map fun x =>
        if lo ≤ x.no && x.no < lo + f.arg0.toNat && 0 < x.sends then { x with again := true } else x }
      sendDue (setTransfer s t) t
    | 1 => s
    | _ => endTransfer s t stLINK

/-- A CREDIT: the frames of its range that are not acknowledged are sent again. -/
def kftCreditRun (s : State) (p : Nat) (f : KftFrame) : State :=
  let lo := f.offset.toNat
  let hi := fld f.arg0 0 16 * 2 ^ 32 + f.arg1.toNat
  (s.kft.transfers.filter fun (t : Transfer) => t.port == p && t.domain == f.domain.toNat && t.stream == f.stream.toNat).foldl
    (fun (s : State) (t : Transfer) =>
      let t := { t with frames := t.frames.map fun x =>
        if lo ≤ t.base + x.at_ && t.base + x.at_ < hi && 0 < x.sends then { x with again := true } else x }
      sendDue (setTransfer s t) t) s

/-- RTO without ACK progress: every frame sent and not acknowledged is sent again; gaps may be named again. -/
def rtoRun (s : State) (p : Nat) : State :=
  let s := { s with kft := { s.kft with tracks := s.kft.tracks.map fun (t : Track) => if t.port == p then { t with naked := [] } else t } }
  (s.kft.transfers.filter fun (t : Transfer) => t.port == p).foldl (fun (s : State) (t : Transfer) =>
    let t := { t with frames := t.frames.map fun x => if 0 < x.sends then { x with again := true } else x }
    sendDue (setTransfer s t) t) s

/-! ## ATOMIZE (R173, R174) -/

/-- Start the transfer of a KFT destination. -/
def startTransfer (s : State) (q : Nat) (d : Desc) (i : Nat) : Desc × State :=
  let e := atmEntry d i
  let p := leAt e 1 1
  let x := portOf s p
  if x.st != .up then destFails s q d i stLINK
  else
    match peerMac x x.txBr with
    | none => destFails s q d i stSTATE
    | some _ =>
      let fs := framesOf (leAt e 5 1) (atmLength d)
      let s := setPort s p { x with transfer := (x.transfer + 1) % 256 }
      let t : Transfer := { queue := q, idx := d.idx, dest := i, port := p, number := x.transfer % 256, domain := dDomain d, stream := leAt e 2 3, format := leAt e 5 1, base := leAt e 8 6, frames := fs, count := fs.length }
      ({ d with outstanding := d.outstanding + 1 },
        { s with kft := { s.kft with transfers := s.kft.transfers ++ [t] } })

/-- The remote signal of a BOARD destination, once its writes are acknowledged. -/
def destSignal (s : State) (q : Nat) (d : Desc) (i : Nat) : Desc × State :=
  let e := atmEntry d i
  if !(leAt e 1 1).testBit 0 then (d, s)
  else
    let t := leAt e 2 2 % 4096
    let (none?, s) := sendRegwr s q d.idx .tokOp (posOf (leAt e 8 8)) (dDomain d) 0x040 t (t + leAt e 4 4 * 2 ^ 12) i
    if none? then destFails s q d i stLINK else ({ d with outstanding := d.outstanding + 1 }, s)

/-- The WRITE of one segment to a BOARD destination. -/
def destWrite (s : State) (q : Nat) (d : Desc) (i k : Nat) (bs : List Byte) : Desc × State :=
  if d.destFail.contains i then (d, s)
  else
    let dst := leAt (atmEntry d i) 8 8 + 8192 * k
    let (tag, s) := takeTag s
    let m := ownMsg s 0x01 (dDomain d) tag dst
    let (none?, s) := startTxn s
      { tag := tag, kind := .write, pos := posOf dst, queue := q, idx := d.idx, dest := i, local_ := 0, bytes := bs.length,
        msg := { m with hdr := { m.hdr with data := bs } }, link := none }
    if none? then destFails s q d i stLINK
    else
      ({ d with outstanding := d.outstanding + 1, remote := true },
        bump64 s (Reg.at Reg.ATM_BYTES_LO (q / 16)) (Reg.at Reg.ATM_BYTES_HI (q / 16)) bs.length)

/-- One segment: read once, written to every BOARD destination in list order. -/
def atmSegment (q : Nat) (ecc : List EccHit) (p : Desc × State) (k : Nat) : Desc × State :=
  let (d, s) := p
  if d.detail != 0 then p
  else
    let n := min 8192 (atmLength d - 8192 * k)
    let (st, bs, s) := readMem s ecc (atmSrc d + 8192 * k) n
    let all := List.range (atmDests d)
    if st != stOK then
      all.foldl (fun (p : Desc × State) i => if p.1.destFail.contains i then p else destFails p.2 q p.1 i st)
        ({ d with detail := 1 }, s)
    else
      (all.filter fun i => leAt (atmEntry d i) 0 1 == 1).foldl
        (fun (p : Desc × State) i => destWrite p.2 q p.1 i k bs) (d, s)

/-- The KFT transfers of an ATOMIZE start, unless a source read failed (R174). [DEDUCED: log 93] -/
def atomizeStart (s : State) (q : Nat) (d : Desc) : Desc × State :=
  let bad := d.detail != 0
  let d := { d with detail := 0, ran := true }
  let kft := (List.range (atmDests d)).filter fun i => leAt (atmEntry d i) 0 1 == 2
  kft.foldl (fun (p : Desc × State) i => if bad then p else startTransfer p.2 q p.1 i) (d, s)

/-- Their frames go out, and the descriptor settles if nothing is outstanding. [DEDUCED: log 93] -/
def atomizeEnd (s : State) (q : Nat) (d : Desc) : State :=
  let s := setDesc s q d
  let s := (s.kft.transfers.filter fun (t : Transfer) => t.queue == q && t.idx == d.idx).foldl sendDue s
  match findDesc s q d.idx with
  | some d => if d.ran then atmSettle s q d else s
  | none => s

/-- Run a released ATOMIZE. A segment that cannot be read fails every destination. -/
def atomizeRun (s : State) (q : Nat) (d : Desc) (ecc : List EccHit) : State :=
  let segs := (atmLength d + 8191) / 8192
  let (d, s) := (List.range segs).foldl (atmSegment q ecc) (d, s)
  let (d, s) := atomizeStart s q d
  atomizeEnd s q d

/-- A transaction of an ATOMIZE is answered: its destination's writes and signal go on, or it fails. -/
def atmAnswered (s : State) (q : Nat) (d : Desc) (x : Txn) (st : Nat) : State :=
  let d := { d with outstanding := d.outstanding - 1 }
  let more := s.board.txns.any fun y => y.queue == q && y.idx == d.idx && y.kind == .write && y.dest == x.dest
  let (d, s) :=
    if st != stOK then destFails s q d x.dest st
    else if x.kind != .write then (d, s)
    else
      let d := { d with done := d.done + x.bytes }
      if more || d.destFail.contains x.dest then (d, s) else destSignal s q d x.dest
  atmSettle s q d

/-! ## Branch changes (R295 to R298, R355) -/

def brPort (d : Desc) : Nat := leAt d.raw 24 1
def brBranch (d : Desc) : Nat := leAt d.raw 25 1
def brDir (d : Desc) : Nat := leAt d.raw 26 1

/-- The loops of a path: MZI 0 and the one that carries light on the branch (R346). -/
def pathLoops (p b : Nat) (rx : Bool) : List Nat :=
  let k := 6 * p + (if rx then 3 else 0)
  [k, if b < 2 then k + 1 else k + 2]

/-- A loop lets its path carry traffic (R355). -/
def loopReady (s : State) (l : Nat) : Bool :=
  match (loopOf s l).st with
  | .acquiring => true | .locked => true | .holding => true | _ => false

/-- Every MZI on the new path is ready. -/
def pathReady (s : State) (p : Nat) (c : Change) : Bool :=
  (!c.tx || (pathLoops p c.branch false).all (loopReady s)) &&
    (!c.rx || (pathLoops p c.branch true).all (loopReady s))

/-- A marker frame to the peer of the transmit branch. -/
def sendMarker (s : State) (p kind : Nat) (epoch : Byte) (br : Nat) (echo : Bool) (arg1 : Nat) : State :=
  let x := portOf s p
  kftSend s p kind { blankFrame s p ((peerMac x x.txBr).getD 0#48) x.txBr with
    epoch := epoch
    arg0 := toWord (br + 256 * b2n echo)
    arg1 := toWord arg1 }

/-- ARG1 of a BRANCH frame of this module: board, position and port. -/
def ownPlace (s : State) (p : Nat) : Nat := strapBoard s * 2 ^ 16 + ownPos s * 2 ^ 8 + p

/-- The BRANCH frame on the transmit branch. -/
def sendBranch (s : State) (p : Nat) (echo : Bool) (epoch : Byte) : State :=
  sendMarker s p ftBRANCH epoch (portOf s p).txBr echo (ownPlace s p)

def setChange (s : State) (p : Nat) (c : Option Change) : State := setPort s p { portOf s p with change := c }

/-- The BRANCH descriptor of a port's change completes. -/
def endChange (s : State) (p : Nat) (c : Change) (st : Nat) : State :=
  let s := setChange s p none
  match findDesc s c.queue c.idx with
  | some d => finish s c.queue d st 0
  | none => s

/-- The change starts: BURST_END on the old branch, the selector moves, BRANCH on the new one. -/
def changeStart (s : State) (p : Nat) (c : Change) : State :=
  let x := portOf s p
  let s := sendMarker s p ftBEND x.epTx (if c.tx then c.branch else x.txBr) false 0
  let s :=
    if c.tx then
      let x := portOf s p
      let s := setPort s p { x with txBr := c.branch, epTx := x.epTx + 1#8, paused := false }
      portResume (sendBranch s p false (portOf s p).epTx) p
    else s
  if c.rx then setChange s p (some { c with phase := 1 }) else endChange s p c stOK

/-- Run a released BRANCH (R177). [DEDUCED: log 93] -/
def branchRun (s : State) (q : Nat) (d : Desc) : State :=
  let p := brPort d
  let b := brBranch d
  let x := portOf s p
  let tx := (brDir d).testBit 0 && x.txBr != b
  let rx := (brDir d).testBit 1 && x.rxBr != b
  let c : Change := { queue := q, idx := d.idx, branch := b, tx := tx, rx := rx, phase := 0 }
  if x.change.isSome then s
  else if fselForced s p then finish s q d stSTATE 0
  else if x.st != .up then finish s q d stLINK 0
  else if !tx && !rx then finish s q d stOK 0
  else if pathReady s p c then changeStart s p c
  else setChange s p (some c)

/-- The path of a held change is ready. -/
def pathReleaseRun (s : State) (p : Nat) : State :=
  match (portOf s p).change with
  | some c => if c.phase == 0 && pathReady s p c then changeStart s p c else s
  | none => s

/-- The path was not ready within BR_TIMEOUT (R355). -/
def pathTimeoutRun (s : State) (p : Nat) : State :=
  match (portOf s p).change with
  | some c => if c.phase == 0 then endChange (raiseIrq s 0x43 p 4) p c stLINK else s
  | none => s

/-- The receive side moves to the new branch. -/
def moveRx (s : State) (p : Nat) (c : Change) : State :=
  let x := portOf s p
  setPort s p { x with rxBr := c.branch, change := some { c with phase := 2 } }

/-- BR_TIMEOUT passes: the receive side moves without the echo, or the BRANCH completes LINK (R297). -/
def brTimeoutRun (s : State) (p : Nat) : State :=
  match (portOf s p).change with
  | some c =>
    if c.phase == 1 then moveRx (bumpReg s (Reg.at Reg.FPP_CNT_BR_TIMEOUT p) 1) p c
    else if c.phase == 2 then endChange (raiseIrq s 0x31 p 4) p c stLINK
    else s
  | none => s

/-- A branch without a stored phase: the BRANCH frame is repeated until the echo (R298). -/
def branchRepeatRun (s : State) (p : Nat) : State :=
  let x := portOf s p
  match x.change with
  | some c => if 0 < c.phase && !x.visited.getLsbD c.branch && canSend x then sendBranch s p false x.epTx else s
  | none => s

/-- A marker's EPOCH is older than the last one received, modulo 256. [DEDUCED: log 94] -/
def epochOlder (x : Port) (e : Byte) : Bool := 128 ≤ (e - x.epRx).toNat

/-- BURST_END that passed steps 1 to 4: answered with ECHO and the branch paused, or the receive side
moves (R297). [DEDUCED: log 94] -/
def burstEndRun (s : State) (p : Nat) (f : KftFrame) : State :=
  let x := portOf s p
  if bitOf f.arg0 8 then
    match x.change with
    | some c =>
      let sent := if c.tx then x.epTx - 1#8 else x.epTx
      if c.phase == 1 && f.epoch == sent then moveRx s p c else s
    | none => s
  else if epochOlder x f.epoch then s
  else
    let s := setPort s p { x with epRx := f.epoch }
    if f.branch.toNat != x.txBr || x.paused then s
    else
      let s := sendMarker s p ftBEND f.epoch x.txBr true 0
      raiseIrq (setPort s p { portOf s p with paused := true }) 0x31 p 5

/-- BRANCH that passed steps 1 to 4: answered with ECHO, sending resumes; or an ECHO completes a change. -/
def kftBranchRun (s : State) (p : Nat) (f : KftFrame) : State :=
  let x := portOf s p
  if bitOf f.arg0 8 then
    match x.change with
    | some c =>
      if c.phase == 2 && f.epoch == x.epTx then
        endChange (setPort s p { x with visited := x.visited ||| BitVec.ofNat 4 (2 ^ c.branch) }) p c stOK
      else s
    | none => s
  else if epochOlder x f.epoch then s
  else
    let s := setPort s p { x with epRx := f.epoch }
    if f.branch.toNat != x.txBr then s
    else
      let s := sendBranch (setPort s p { portOf s p with paused := false }) p true f.epoch
      portResume s p

/-! ## UP and DOWN (R286) -/

/-- Scans of the port's transmit MZIs wait or run (R363). -/
def txScanning (s : State) (p : Nat) : Bool := (List.range 3).any fun j => (loopOf s (6 * p + j)).scan

/-- The port may train. -/
def portMayTrain (s : State) (p : Nat) : Bool :=
  enOf s 0x31 p && cagePresent s p && portDieOn s p && s.pwr.ref156 && !fselForced s p && !txScanning s p &&
    (portOf s p).test == 0 && !(tget (fun _ => false) s.hst.srst (pageKey 0x31 p))

/-- A port that may train starts training. -/
def portTrain (s : State) (p : Nat) : State :=
  let x := portOf s p
  if portMayTrain s p && (x.st == .disabled || x.st == .down) then setPort s p { x with st := .training } else s

/-- Training ends: UP, on the branches that the selectors name. -/
def portUpRun (s : State) (p : Nat) : State :=
  let x := portOf s p
  if portMayTrain s p && (x.st == .training || x.st == .down) then
    raiseIrq (setPort s p { x with st := .up, visited := 0#4, paused := false }) 0x31 p 0
  else s

/-- A port leaves UP or TRAINING: its change ends, RECVs bound to it and its KFT destinations complete
LINK (R162, R186). -/
def portLeave (s : State) (p : Nat) (after : PortSt) : State :=
  let x := portOf s p
  let was := x.st == .up || x.st == .training
  let s := setPort s p { x with st := after, paused := false, visited := 0#4, owed := [] }
  if !was then s
  else
    let s := raiseIrq s 0x31 p 1
    let s := match x.change with | some c => endChange s p c stLINK | none => s
    let s := (s.flow.windows.filter fun w => w.port == p).foldl (fun s w =>
      match findDesc s w.queue w.idx with
      | some d => failDesc s w.queue d stLINK 0 true false
      | none => closeWindow s w.queue w.idx) s
    let s := dropTracks s
    (s.kft.transfers.filter fun (t : Transfer) => t.port == p).foldl (fun (s : State) (t : Transfer) => endTransfer s t stLINK) s

/-- Block lock is lost for more than 10 µs. [DEDUCED: log 94] -/
def portDownRun (s : State) (p : Nat) : State :=
  if (portOf s p).st == .up then portLeave s p .down else s

/-- `FPP.PAGE_STAT[7:0]` while the I/O die is ON. -/
def fppState (s : State) (p : Nat) : Nat :=
  if !cagePresent s p then 0x10
  else match (portOf s p).st with
    | .disabled => 0x11 | .training => 0x12 | .up => 0x13 | .down => 0x14

/-- `BRANCH_STAT`. -/
def branchStat (s : State) (p : Nat) : Nat :=
  let x := portOf s p
  x.txBr + 4 * x.rxBr + 256 * x.epTx.toNat + 65536 * x.epRx.toNat + 2 ^ 24 * b2n x.paused + 2 ^ 25 * b2n x.change.isSome

/-- PRBS test of a port (R299): accepted while ABSENT apart from UP and TRAINING; mode 0 ends it. -/
def fppTestCmd (s : State) (p mode : Nat) : Nat × State :=
  let x := portOf s p
  if mode == 0 then
    let s := setPort s p { x with test := 0 }
    (stOK, if x.test == 0 then s else portTrain s p)
  else if cagePresent s p && (x.st == .disabled || x.st == .down) then (stOK, setPort s p { x with test := mode })
  else (stSTATE, s)

/-- A KFT frame of a type arrives: the checks of R287, then what the type does. [DEDUCED: log 94] -/
def kftReceive (s : State) (p : Nat) (f : KftFrame) (run : State → Nat → KftFrame → State) : State :=
  let (ok, s) := kftCheck s p f
  if ok then run s p f else s

end Sys2Proof.Machine
end

