-- ==== Sys2Proof/Machine/LinkRx.lean ====
section
/-!
DEFINITION. Board links at work (R267 to R285, R422): blocks and replay, retrains and losses, training
and the handshake, remote accesses at their target, answers, credits, reach, transit and routes.
-/

namespace Sys2Proof.Machine

/-! ## What a link is for (R38, R276 to R278) -/

/-- The straps give the board links a plan (R38). -/
def planAccepted (s : State) : Bool := ownPos s < boardSize s && strapPlan s != 3

/-- Bytes of the link table record with its checks (R278). -/
def linkTableValid (s : State) (r : List Byte) : Bool :=
  let pairs := (List.range 64).filterMap (linkTableEntry r)
  slice r 0 4 == [0x4B#8, 0x4C#8, 0x54#8, 0x31#8] && leAt r 136 4 == (crc32c (r.take 136)).toNat &&
    leAt r 4 1 == fld (getReg s Reg.PWR_STRAPS) 4 2 && slice r 5 3 == zeros 3 &&
    (pairs.all fun x => x.1 < boardSize s && x.1 != ownPos s && x.2 < 64) && decide pairs.Nodup &&
    pairs.any fun x => x.1 == partnerPos s

/-- The peer and its link that the plan in force expects on a link. -/
def linkExpect (s : State) (n : Nat) : Option (Nat × Nat) :=
  if !planAccepted s then none
  else if strapPlan s == 2 then
    match s.sel.fix.linkTbl with
    | some r => linkTableEntry r n
    | none => none
  else planPeer (boardSize s) (strapPlan s) (ownPos s) [] n

/-- The I/O die of a board link is ON and its SerDes PLL has its reference (R36). -/
def linkDieOn (s : State) (n : Nat) : Bool := isOn s (dieIOD + 4 + n / 16) && s.pwr.ref156

/-- The link may send: joined, enabled, not under test or in a soft reset, its die ON; in RECOVERY the links stay
idle (R97). -/
def linkUsable (s : State) (n : Nat) : Bool :=
  (linkExpect s n).isSome && enOf s 0x30 n && linkDieOn s n && (linkOf s n).test == 0 &&
    !(tget (fun _ => false) s.hst.srst (pageKey 0x30 n)) && !s.pwr.inReset &&
    !(s.boot.phase == .recovery && !s.boot.sealOn)

/-- `LNK.PAGE_STAT[7:0]` while the I/O die is ON. -/
def linkState (s : State) (n : Nat) : Nat :=
  let spare := planAccepted s && (linkExpect s n).isNone && (strapPlan s != 2 || s.sel.fix.linkTbl.isSome)
  if spare then 0x16
  else match (linkOf s n).st with
    | .quiet => 0x10 | .training => 0x11 | .up => 0x12 | .retraining => 0x13 | .backoff => 0x14
    | .miswired => 0x15 | .disabled => 0x17

/-! ## Loss of reach (R137, R162, R422) -/

/-- A token with the position in its source mask and an unsatisfied waiter is poisoned (R162). [DESIGN CHOICE: log 20] -/
def poisonFrom (s : State) (p : Nat) : State :=
  (s.flow.tokens.filter fun t => t.2.src.getLsbD p).foldl (fun s t =>
    if (waiters s t.1).any fun d => !waitMet s t.1 (dThr d) then tokPoison s t.1 else s) s

/-- A WRITE, READ or token write of a descriptor is answered with a status and, for a READ, its data. -/
def answered (s : State) (x : Txn) (st : Nat) (data : List Byte) : State :=
  match x.kind with
  | .poison => s
  | k =>
    match findDesc s x.queue x.idx with
    | none => s
    | some d =>
      if dType d == tyATOMIZE && !(k == .signal) then atmAnswered s x.queue d x st
      else if k == .signal then
        if st == stOK then endOk s x.queue d else failDesc s x.queue d st 0 true false
      else
        let (st, s) := if k == .read && st == stOK then writeMem s x.local_ data else (st, s)
        let d := { d with outstanding := d.outstanding - 1 }
        if k == .mirror then
          if st == stOK || d.mirrorOff then settleRemote s x.queue d
          else settleRemote (mirrorFailed s x.queue d) x.queue { d with mirrorOff := true }
        else
          let d := { d with
            status := if d.status == stOK then st else d.status
            done := if st == stOK && k != .tokOp then d.done + x.bytes else d.done }
          let i := 8 * (x.queue / 16) + d.engine.getD 0
          let s := if st == stOK && k != .tokOp then
              bump64 s (Reg.at Reg.CPY_BYTES_LO i) (Reg.at Reg.CPY_BYTES_HI i) x.bytes else s
          settleRemote s x.queue d

/-- Forget a transaction, then act on its answer. -/
def endTxn (s : State) (x : Txn) (st : Nat) (data : List Byte) : State :=
  let s := { s with board := { s.board with txns := s.board.txns.filter fun y => y.tag != x.tag } }
  answered s x st data

/-- No route to a position remains: its transactions end LINK, and tokens that it feeds are poisoned. -/
def reachLost (s : State) (p : Nat) : State :=
  let lost := s.board.txns.filter fun x => x.pos == p
  poisonFrom (lost.foldl (fun s x => endTxn s x stLINK []) s) p

/-- Put a transaction on a link of the present route; none: it ends LINK. -/
def dispatchTxn (s : State) (x : Txn) : State :=
  match pickLink s x.pos x.tag.toNat with
  | none => if posPending s x.pos then s else endTxn s x stLINK []
  | some n =>
    let s := { s with board := { s.board with
      txns := s.board.txns.map fun y => if y.tag == x.tag then { y with link := some n } else y } }
    sendMsg s n x.msg

/-- Send the transactions to a position that wait for its route. -/
def dispatchHeld (s : State) (p : Nat) : State :=
  (s.board.txns.filter fun x => x.pos == p && x.link.isNone).foldl dispatchTxn s

/-- One position's route after a change of reach (R284): a change is noted, and while transactions are out
on the old route the new one waits. -/
def routeCheck (s : State) (p : Nat) : State :=
  let old := tget (fun _ => 0) s.board.lastRoute p
  let new := routeOf s p
  if p == ownPos s || old == new then s
  else
    let out := old != 0 && s.board.txns.any fun x => x.pos == p && x.link.isSome
    let s := { s with board := { s.board with
      lastRoute := tset (fun _ => 0) s.board.lastRoute p new
      draining := tset (fun _ => false) s.board.draining p (new != 0 && out)
      reached := if new == 0 then s.board.reached else s.board.reached ||| BitVec.ofNat 16 (2 ^ p) } }
    let s := raiseIrq s 0x32 0 0
    if new == 0 then reachLost s p else s

/-- Recompute every route. -/
def routesChanged (s : State) : State := (List.range 16).foldl routeCheck s

/-- The old route to a position has drained (R284). -/
def routeDrainRun (s : State) (p : Nat) : State :=
  if tget (fun _ => false) s.board.draining p &&
      !(s.board.txns.any fun x => x.pos == p && x.link.isSome) then
    dispatchHeld { s with board := { s.board with draining := tset (fun _ => false) s.board.draining p false } } p
  else s

/-- A pending position has become reachable (R422). -/
def pendingRouteRun (s : State) (p : Nat) : State :=
  if routeOf s p != 0 && !(tget (fun _ => false) s.board.draining p) then dispatchHeld s p else s

/-- 1,000 ms after reset release: unreached positions become lost (R422). -/
def positionLossRun (s : State) : State :=
  if s.board.late then s
  else
    let s := { s with board := { s.board with late := true } }
    (List.range 16).foldl (fun s p =>
      if p < boardSize s && p != ownPos s && !s.board.reached.getLsbD p then
        reachLost (event s 0x3220 0x32 0 0 [p]) p
      else s) s

/-! ## Transit (R285) -/

/-- The answer kind of a request; none for other kinds. -/
def answerKind (k : Nat) : Option Nat := match k with | 1 => some 4 | 2 => some 3 | 5 => some 6 | _ => none

/-- An answer to a request: to position SRC, with its TAG (R269). -/
def replyTo (s : State) (k : Nat) (m : LinkMsg) (st : Nat) (data : List Byte) : OutMsg :=
  let r := ownMsg s k (m.domain.toNat % 4096) m.tag (m.src.toNat % 16 * 2 ^ 44)
  { r with hdr := { r.hdr with status := BitVec.ofNat 16 st, data := data } }

/-- `XBR.TRANSIT_EN`. -/
def transitEn (s : State) : Bool := bitOf (getReg s Reg.XBR_TRANSIT_EN) 0

/-- Forward a transit message over an UP link to its target through the hub of the departure die, or
answer a request with LINK. -/
def forwardMsg (s : State) (n k : Nat) (m : LinkMsg) : State :=
  let p := m.address.toNat / 2 ^ 44 % 16
  let o : OutMsg := { kind := k, hdr := m }
  let ls := upLinks s p
  match ls[m.tag.toNat % max ls.length 1]? with
  | some j =>
    if transitEn s then
      let h := j / 16
      let s := { s with board := { s.board with
        transit := tmod (fun _ => 0) s.board.transit h (· + 64 * (msgSlots o + 1)) } }
      sendMsg s j o
    else match answerKind k with
      | some a => answerMsg s n (replyTo s a m stLINK [])
      | none => s
  | none =>
    match answerKind k with
    | some a => answerMsg s n (replyTo s a m stLINK [])
    | none => s

/-! ## Credits (R280 to R282) -/

/-- The partition whose slots a received message takes: steering, its domain's when it fits, else the
shared pool. [DEDUCED: log 88] -/
def partTaken (l : Link) (m : LinkMsg) (need : Nat) : Nat :=
  if m.cls == 1#8 then 0
  else
    let free (p : Nat) : Bool := tget (fun _ => 0) l.owed p + need ≤ partSlots l p
    match partIndex l (m.domain.toNat % 4096) with
    | some p => if free p then p else 17
    | none => 17

/-- The slots of a received message are owed to the peer as credits. [DEDUCED: log 88] -/
def oweCredits (s : State) (n : Nat) (m : LinkMsg) : State :=
  let l := linkOf s n
  let need := msgNeed { kind := 0, hdr := m }
  setLink s n { l with owed := tmod (fun _ => 0) l.owed (partTaken l m need) (· + need) }

/-- A steering message has come over its link. -/
def steerArrived (s : State) (m : SteerMsg) : State :=
  let l := linkOf s m.link
  if l.st == .up then
    setLink s m.link { l with owed := tmod (fun _ => 0) l.owed 0 (· + min ((m.data.length + 63) / 64 + 1) 64) }
  else s

/-- CREDIT messages of up to 8 pairs of partition and count; bit 0 of byte 24 marks partition sizes. [DEDUCED: log 21] -/
def creditMsg (s : State) (sizes : Bool) (l : List (Nat × Nat)) : OutMsg :=
  let m := ownMsg s 0x07 0 0#16 0
  { m with hdr := { m.hdr with body := [BitVec.ofNat 8 (b2n sizes), BitVec.ofNat 8 l.length, 0#8, 0#8] ++
      (l.flatMap fun x => [BitVec.ofNat 8 x.1, 0#8] ++ beBytes 2 x.2) } }

/-- Return the credits owed on an UP link, 8 partitions to a message. -/
def creditReturnRun (s : State) (n : Nat) : State :=
  let l := linkOf s n
  if l.st != .up || l.owed.isEmpty then s
  else sendMsg (setLink s n { l with owed := l.owed.drop 8 }) n (creditMsg s false (l.owed.take 8))

/-- Send the partition sizes of this receiver. [DEDUCED: log 88] -/
def sendSizes (s : State) (n : Nat) : State :=
  let l := linkOf s n
  let all := (List.range 18).map fun p => (p, partSlots l p)
  if l.st != .up then s
  else [all.take 8, (all.drop 8).take 8, all.drop 16].foldl (fun s x => sendMsg s n (creditMsg s true x)) s

/-- The pairs of a CREDIT. [DEDUCED: log 21] -/
def creditPairs (m : LinkMsg) : List (Nat × Nat) :=
  (List.range (min (beAt m.body 1 1) 8)).map fun i => (beAt m.body (4 + 4 * i) 1, beAt m.body (6 + 4 * i) 2)

/-- A CREDIT arrives: credits return, or the peer's partition sizes change. -/
def linkCreditRun (s : State) (n : Nat) (m : LinkMsg) : State :=
  let l := linkOf s n
  if l.st != .up then s
  else
    let sizes := (beAt m.body 0 1).testBit 0
    let l := (creditPairs m).foldl (fun l x =>
      if sizes then
        let old := tget sizeDefault l.sizes x.1
        { l with
          sizes := tset sizeDefault l.sizes x.1 x.2
          credits := tmod creditDefault l.credits x.1 (· + Int.ofNat x.2 - Int.ofNat old) }
      else { l with credits := tmod creditDefault l.credits x.1 (· + Int.ofNat x.2) }) l
    flushLink (setLink s n l) n

/-- A write of `PART_CFG` (R280): the domain held by another valid entry, then the shared pool. -/
def partCfgCmd (s : State) (n : Nat) (v : Word) : Nat × State :=
  let l := linkOf s n
  let e := fld (getReg s (Reg.at Reg.LNK_PART_SEL n)) 0 4
  let v := v &&& 0x8FFF0FFF#32
  let twin := (List.range 16).any fun k => k != e && bitOf (partOf l k) 31 && fld (partOf l k) 0 12 == fld v 0 12
  let l' := { l with parts := tset (fun _ => 0#32) l.parts e v }
  let used := ((List.range 16).map fun k => if bitOf (partOf l' k) 31 then fld (partOf l' k) 16 12 else 0).sum
  if bitOf v 31 && twin then (stRESOURCE, s)
  else if bitOf v 31 && 2048 - 64 < used + 128 then (stCAPACITY, s)
  else (stOK, sendSizes (setLink s n l') n)

/-- An IDLE fill message arrives: it carries nothing and is dropped (R268). -/
def linkIdleRun (s : State) (_ : Nat) : State := s

/-! ## Reach (R284) -/

/-- A REACH message: the mask and the transit bit. [DEDUCED: log 21] -/
def reachMsg (s : State) : OutMsg :=
  let m := ownMsg s 0x08 0 0#16 0
  { m with hdr := { m.hdr with body := beBytes 2 (reachMask s) ++ [BitVec.ofNat 8 (b2n (transitEn s)), 0#8] } }

def reachSendRun (s : State) : State :=
  ((List.range 64).filter fun n => (linkOf s n).st == .up).foldl (fun s n => sendMsg s n (reachMsg s)) s

/-- A REACH arrives from the peer of an UP link. -/
def reachRun (s : State) (n : Nat) (m : LinkMsg) : State :=
  let l := linkOf s n
  if l.st != .up then s
  else
    let v := BitVec.ofNat 17 (beAt m.body 0 2 + 2 ^ 16 * (beAt m.body 2 1 % 2))
    routesChanged { s with board := { s.board with
      peerReach := tset (fun _ => 0#17) s.board.peerReach l.peerPos v } }

/-! ## Blocks and replay (R270, R271) -/

/-- The header bytes and flits over which a block's CRC runs (R267). -/
def blockBits (b : FecBlock) : List Byte :=
  [b.bseq, b.aseq, b.ak ++ b.reserved] ++ b.flits

/-- The blocks up to and including one are acknowledged. -/
def ackBlocks (l : Link) (aseq : Byte) : Link :=
  match l.retry.findIdx? fun x => x.bseq == aseq with
  | some i => { l with retry := l.retry.drop (i + 1), replays := 0 }
  | none => l

/-- A link starts a retrain; while it lasts the link sends nothing. -/
def startRetrain (s : State) (n : Nat) (widen : Bool) : State :=
  let l := linkOf s n
  setLink s n { l with st := .retraining, before := l.lanes, widen := widen }

/-- Send the blocks in the retry buffer again; the eighth replay without progress retrains the link. -/
def replayLink (s : State) (n : Nat) : State :=
  let l := linkOf s n
  match l.retry.head? with
  | none => s
  | some b =>
    let s := send (setLink s n { l with replays := l.replays + 1 }) (.linkReplay n b.bseq.toNat l.retry.length)
    if l.replays + 1 < 8 then s
    else
      let s := raiseIrq (bumpReg s (Reg.at Reg.LNK_CNT_REPLAY n) 1) 0x30 n 4
      startRetrain (setLink s n { linkOf s n with replays := 0 }) n false

/-- A FEC block arrives on an UP link. [DEDUCED: log 138] -/
def fecBlockRun (s : State) (n : Nat) (b : FecBlock) : State :=
  if (linkOf s n).st != .up then s
  else
    let s := bumpReg s (Reg.at Reg.LNK_CNT_CORR n) b.corrected
    let l := linkOf s n
    if b.decoded && crc16 0xFFFF (blockBits b) == b.crc && b.bseq == l.expect then
      let l := { l with expect := l.expect + 1#8, naked := false, rxBytes := l.rxBytes + 1280 }
      let l := if b.ak == 1#2 || b.ak == 2#2 then ackBlocks l b.aseq else l
      let s := send (setLink s n l) (.linkAck n 1 b.bseq.toNat)
      if b.ak == 2#2 then replayLink s n else flushLink s n
    else
      let s := bumpReg (setLink s n { l with naked := true }) (Reg.at Reg.LNK_CNT_UNCORR n) 1
      if l.naked then s else send s (.linkAck n 2 (l.expect - 1#8).toNat)

/-- 800 ns without ACK progress. -/
def replayTimeoutRun (s : State) (n : Nat) : State := if (linkOf s n).st == .up then replayLink s n else s

/-! ## Loss of a link (R273) -/

/-- A message that a lost link still held, of this module or in transit: an answer or a transit message
takes another link; link-local messages end with the link. [DEDUCED: log 89] -/
def resendLost (s : State) (m : OutMsg) : State :=
  let p := m.hdr.address.toNat / 2 ^ 44 % 16
  if [1, 2, 5].contains m.kind && m.hdr.src.toNat % 16 == ownPos s then
    match s.board.txns.find? fun x => x.tag == m.hdr.tag with
    | some x => dispatchTxn s x
    | none => s
  else if [1, 2, 3, 4, 5, 6].contains m.kind then
    match pickLink s p m.hdr.tag.toNat with
    | some j => sendMsg s j m
    | none =>
      match answerKind m.kind with
      | some a =>
        let r := replyTo s a m.hdr stLINK []
        match pickLink s (m.hdr.src.toNat % 16) m.hdr.tag.toNat with
        | some j => sendMsg s j r
        | none => s
      | none => s
  else s

/-- A link that was UP or retraining is lost. [DEDUCED: log 89] -/
def loseLink (s : State) (n : Nat) (after : LinkSt) : State :=
  let l := linkOf s n
  let idle := setLink s n { l with
    st := after
    lanes := 0#4
    before := 0#4
    widen := false
    inited := false
    verdict := 0
    theirs := 0
    interval := 1
    bseq := 0#8
    expect := 0#8
    naked := false
    retry := []
    replays := 0
    txq := []
    credits := []
    sizes := []
    owed := [] }
  if l.st != .up && l.st != .retraining then idle
  else
    let held := l.retry.filterMap RetryBlock.msg ++ l.txq
    let s := raiseIrq (bumpReg idle (Reg.at Reg.LNK_CNT_DOWN n) 1) 0x30 n 1
    let s := partnerLinksLost (routesChanged s)
    held.foldl resendLost s

/-- A lane fails: the link retrains on the others, or is lost with the last. -/
def laneFailRun (s : State) (n lane : Nat) : State :=
  let l := linkOf s n
  if (l.st != .up && l.st != .retraining) || !l.lanes.getLsbD lane then s
  else
    let l' := { l with lanes := l.lanes &&& ~~~ (BitVec.ofNat 4 (2 ^ lane)) }
    if l'.lanes == 0#4 then loseLink s n .backoff
    else setLink s n { l' with st := .retraining, before := if l.st == .up then l.lanes else l.before, widen := false }

/-- A retrain ends with the lanes that trained; both ends replay (R272). -/
def retrainDoneRun (s : State) (n : Nat) (lanes : BitVec 4) : State :=
  let l := linkOf s n
  if l.st != .retraining then s
  else
    let now := if l.widen then lanes else lanes &&& l.lanes
    if now == 0#4 then loseLink s n .backoff
    else
      let narrow := laneCount now < laneCount l.before
      let s := setLink s n { l with st := .up, lanes := now, before := 0#4, widen := false, naked := false }
      let s := if narrow then raiseIrq (bumpReg s (Reg.at Reg.LNK_CNT_NARROW n) 1) 0x30 n 2 else s
      let s := match (linkOf s n).retry.head? with
        | some b => send s (.linkReplay n b.bseq.toNat (linkOf s n).retry.length)
        | none => s
      flushLink s n

def retrainTimeoutRun (s : State) (n : Nat) : State :=
  if (linkOf s n).st == .retraining then loseLink s n .backoff else s

/-- A link is lost, or its training ends without success. -/
def linkLossRun (s : State) (n : Nat) : State :=
  match (linkOf s n).st with
  | .up => loseLink s n .backoff
  | .retraining => loseLink s n .backoff
  | .training => loseLink s n .backoff
  | _ => s

/-- `LNK.CTL.WIDEN`. -/
def lnkWidenCmd (s : State) (n : Nat) : Nat × State :=
  if (linkOf s n).st == .up then (stOK, startRetrain s n true) else (stSTATE, s)

/-! ## Training and the handshake (R274, R275) -/

/-- The timer of a QUIET or backed-off link fires: it sends the pattern, and the interval doubles. [DEDUCED: log 89, 126] -/
def trainingAttemptRun (s : State) (n : Nat) : State :=
  let l := linkOf s n
  if linkUsable s n && (l.st == .quiet || l.st == .backoff) then
    send (setLink s n { l with st := .backoff, interval := min 64 (2 * l.interval) }) (.linkTrain n false)
  else s

/-- A listening receiver answers a pattern at once, and training starts. [DEDUCED: log 126] -/
def patternRun (s : State) (n : Nat) : State :=
  let l := linkOf s n
  if linkUsable s n && (l.st == .quiet || l.st == .backoff) then
    send (setLink s n { l with st := .training, inited := false, verdict := 0, theirs := 0 }) (.linkTrain n true)
  else s

/-- An INIT of this end with its verdict so far. -/
def initMsg (s : State) (n : Nat) : OutMsg :=
  let m := ownMsg s 0x09 0 0#16 0
  { m with hdr := { m.hdr with body := [BitVec.ofNat 8 (strapBoard s), BitVec.ofNat 8 (fld (getReg s Reg.PWR_STRAPS) 4 2),
      BitVec.ofNat 8 (strapPlan s), BitVec.ofNat 8 (ownPos s), BitVec.ofNat 8 n, BitVec.ofNat 8 (linkOf s n).verdict] } }

/-- FEC lock and deskew are done on these lanes: the handshake begins. -/
def trainingDoneRun (s : State) (n : Nat) (lanes : BitVec 4) : State :=
  let l := linkOf s n
  if l.st != .training || lanes == 0#4 then s
  else
    let s := setLink s n { l with lanes := lanes }
    send s (.link n (initMsg s n))

/-- A mismatch: the link is MISWIRED and idle. -/
def miswire (s : State) (n : Nat) : State :=
  let l := linkOf s n
  let s := setLink s n { l with st := .miswired, lanes := 0#4 }
  let s := setRegN s (pageKey 0x30 n + 0x01C) (0x10 + 0x11 * 2 ^ 8 + stRANGE * 2 ^ 16)
  raiseIrqArgs s 0x30 n 3 stRANGE []

/-- Both verdicts match: the link is UP, with a fresh stream, and its partition sizes go to the peer. [DEDUCED: log 89] -/
def linkUp (s : State) (n : Nat) : State :=
  let l := linkOf s n
  let s := setLink s n { l with
    st := .up
    interval := 1
    bseq := 0#8
    expect := 0#8
    naked := false
    retry := []
    replays := 0
    credits := []
    sizes := []
    owed := [] }
  let s := routesChanged (sendSizes (raiseIrq s 0x30 n 0) n)
  if l.peerPos == partnerPos s then withStatus s partnerLinkBack else s

/-- An INIT arrives during the handshake. -/
def initRun (s : State) (n : Nat) (m : LinkMsg) : State :=
  let l := linkOf s n
  if l.st != .training || l.lanes == 0#4 then s
  else
    let (board, pos, link) := (beAt m.body 0 1, beAt m.body 3 1, beAt m.body 4 1)
    let fit := board == strapBoard s && beAt m.body 1 1 == fld (getReg s Reg.PWR_STRAPS) 4 2 &&
      beAt m.body 2 1 == strapPlan s && linkExpect s n == some (pos, link)
    let theirs := if beAt m.body 5 1 == 0 then l.theirs else beAt m.body 5 1
    let s :=
      if l.inited then setLink s n { l with theirs := theirs }
      else
        let s := setLink s n { l with
          inited := true
          verdict := if fit then 1 else 2
          theirs := theirs
          peerPos := pos % 16
          peerLink := link % 64
          peerBoard := board % 8 }
        send s (.link n (initMsg s n))
    let l := linkOf s n
    if l.verdict == 2 || l.theirs == 2 then miswire s n
    else if l.verdict == 1 && l.theirs == 1 then linkUp s n
    else s

/-! ## Remote accesses at their target (R136, R185, R269) -/

/-- Units that sleep on the way from a link to a local address: the link's hub, then R117. [DEDUCED: log 50] -/
def remoteSleepers (s : State) (n a : Nat) : List Nat :=
  let h := dieHUB + n / 16
  let st := unitSt s h
  (if st == .off || st == .powering || st == .waking then [h] else []) ++ sleepers s (n / 16) a

/-- A WRITE or READ that this module serves; held while a unit on its way sleeps. -/
def serveAccess (s : State) (n : Nat) (isWrite : Bool) (m : LinkMsg) (ecc : List EccHit) : State :=
  let a := m.address.toNat % 2 ^ 44
  let len := if isWrite then m.data.length else 64 * m.count.toNat
  let sl := remoteSleepers s n a
  if !inRegion s (m.domain.toNat % 4096) a len then
    answerMsg s n (replyTo s (if isWrite then 4 else 3) m stAUTH [])
  else if !sl.isEmpty then
    let s := wakeAll s (n / 16) sl
    { s with board := { s.board with heldLink := s.board.heldLink ++ [{ link := n, isWrite := isWrite, msg := m, ecc := ecc }] } }
  else if isWrite then
    let (st, s) := writeMem s a m.data
    answerMsg s n (replyTo s 4 m st [])
  else
    let (st, bs, s) := readMem s ecc a len
    answerMsg s n (replyTo s 3 m st (if st == stOK then bs else []))

/-- A message's ADDRESS names this module. -/
def forHere (s : State) (m : LinkMsg) : Bool := m.address.toNat / 2 ^ 44 % 16 == ownPos s

def linkWriteRun (s : State) (n : Nat) (m : LinkMsg) : State :=
  if (linkOf s n).st != .up then s
  else
    let s := oweCredits s n m
    if forHere s m then serveAccess s n true m [] else forwardMsg s n 1 m

def linkReadRun (s : State) (n : Nat) (m : LinkMsg) (ecc : List EccHit) : State :=
  if (linkOf s n).st != .up then s
  else
    let s := oweCredits s n m
    if forHere s m then serveAccess s n false m ecc else forwardMsg s n 2 m

/-- An answer arrives: passed on in transit, or it ends its transaction. -/
def responseRun (s : State) (n k : Nat) (m : LinkMsg) : State :=
  if (linkOf s n).st != .up then s
  else
    let s := oweCredits s n m
    if !forHere s m then forwardMsg s n k m
    else
      match s.board.txns.find? fun x => x.tag == m.tag && answerKind x.msg.kind == some k with
      | some x => endTxn s x m.status.toNat m.data
      | none => s

/-! ## Held accesses (R117) -/

/-- The accesses held for sleeping units run again: those whose units are awake complete. [DEDUCED: log 50] -/
def heldResumeRun (s : State) : State :=
  let links := s.board.heldLink
  let local_ := s.mem.held
  let s := { s with board := { s.board with heldLink := [] }, mem := { s.mem with held := [] } }
  let s := local_.foldl (fun s h =>
    match running s h.queue h.idx tyCOPY with
    | some d => copyRun s h.queue d h.ecc
    | none => s) s
  links.foldl (fun s h => serveAccess s h.link h.isWrite h.msg h.ecc) s

/-- PRBS test of a link (R299). -/
def lnkTestCmd (s : State) (n mode : Nat) : Nat × State :=
  let l := linkOf s n
  if mode == 0 then
    (stOK, if l.test == 0 then s else setLink s n { l with test := 0, interval := 1 })
  else if [0x10, 0x14, 0x17].contains (linkState s n) then (stOK, setLink s n { l with test := mode })
  else (stSTATE, s)

end Sys2Proof.Machine
end

