-- ==== Sys2Proof/Machine/SelOps.lean ====
section
/-!
DEFINITION. Fast selectors, lock-in loops, the analog front end and calibration (R342 to R365).
-/

namespace Sys2Proof.Machine

/-! ## Where things sit (R343) -/

/-- The AFE die of a loop, and the channel of its tap. -/
def loopDie (l : Nat) : Nat := l / 48
def tapChan (l : Nat) : Nat := 64 * (l / 48) + l % 48

/-- The TSNS channel of a cage. -/
def tsnsChan (p : Nat) : Nat := 64 * (p / 8) + 48 + p % 8

def afeOn (s : State) (a : Nat) : Bool := isOn s (dieAFE + a)

/-- A quotient of integers; between two integers the choice is open. -/
def openDiv (which : Nat) (a : Int) (b : Nat) : Int :=
  let b : Int := Int.ofNat (max b 1)
  a / b + (if a % b != 0 && Config.quotientPick which a then 1 else 0)

/-! ## Input channels (R348, R350) -/

/-- INT of a channel: 100 for REFIN and TSNS, 10 for the tap of an enabled loop, else as written. -/
def chanInt (s : State) (a i : Nat) : Nat :=
  if 48 ≤ i && i < 58 then 100
  else if i < 48 && (loopOf s (48 * a + i)).en then 10
  else (channelOf s (64 * a + i)).int_

/-- A trimmed code: (raw - OFFSET) x GAIN / 2^15, rounded and clamped. -/
def trimmedCode (c : Channel) (raw : Nat) : Nat :=
  let x := (Int.ofNat raw - signed 16 c.offset.toNat) * Int.ofNat c.gain.toNat
  (clampI 0 65535 (roundDiv x (2 ^ 15))).toNat

/-- A cage temperature in hundredths of a degree, from its TSNS code (R344). [DESIGN CHOICE: log 95] -/
def cageTemp (code : Nat) : Int := Int.ofNat code * 100000 / 65535 - 27315

/-- An integration period of a channel ends. -/
def conversionRun (s : State) (a i raw : Nat) : State :=
  if !afeOn s a then s
  else
    let k := 64 * a + i
    let c := channelOf s k
    let code := trimmedCode c raw
    let past := 65535 < raw
    let s := setChannel s k { c with code := code, ovr := past }
    let s := if past then raiseIrq (bumpReg s (Reg.at Reg.AFE_CNT_OVR a) 1) 0x44 a 1 else s
    if 48 ≤ i && i < 56 then
      let p := 8 * a + (i - 48)
      let lim := Int.ofNat (100 * fld (getReg s (Reg.at Reg.FSL_CFG p)) 8 8)
      if cagePresent s p && lim < cageTemp code && cageTemp c.code ≤ lim then raiseIrq s 0x43 p 5 else s
    else s

/-! ## Loop values (R351, R352, R359) -/

/-- The dither frequency of a loop. -/
def dithFreq (s : State) (l : Nat) : Nat := (loopOf s l).freq.getD (20000 + 4000 * (l % 6) + 125 * (l / 6))

/-- WIN_HI. -/
def winHi (x : Loop) : Nat := min (x.c2pi + x.c2pi / 4) 65535

/-- Feed-forward of a loop (R359). [DESIGN CHOICE: log 95] -/
def ffOf (s : State) (l : Nat) (x : Loop) : Int :=
  if bitOf (getReg s (Reg.at Reg.FSL_CFG (l / 6))) 1 then
    let t := Int.ofNat (channelOf s (tsnsChan (l / 6))).code - Int.ofNat x.t0
    sh (sw x.ka * x.af) 16 + sh (sw x.kt * t) 12
  else 0

/-- Change what FF depends on: V takes the step, so that the heater does not (R359). [DESIGN CHOICE: log 95] -/
def ffChange (s : State) (l : Nat) (f : State → State) : State :=
  let old := ffOf s l (loopOf s l)
  let s := f s
  let x := loopOf s l
  let new := ffOf s l x
  if x.st == .off then setLoop s l { x with ff := new } else setLoop s l { x with ff := new, v := x.v + old - new }

/-- The code that a loop's heater takes now. -/
def heaterCode (s : State) (l : Nat) (x : Loop) : Nat :=
  let d := clampI (-(Int.ofNat x.amp)) (Int.ofNat x.amp) (signed 16 (Config.heaterDither l s.ns.toNat).toNat)
  match x.st with
  | .off => x.setCode
  | .scanning => x.code
  | .reacq => biasCode x
  | .fault => biasCode x
  | _ => (clampI 0 65535 (x.v + x.ff + d)).toNat

/-- `FSL.PAGE_CTL.HOLD` of a loop's port. -/
def fslHeld (s : State) (l : Nat) : Bool := holdOf s 0x43 (l / 6)

/-- A loop enters ACQUIRING or LOCKED, or HOLDING in its place while the port is held. -/
def loopEnter (s : State) (l : Nat) (x : Loop) (st : LoopSt) : State :=
  if fslHeld s l then setLoop s l { x with st := .holding, back := st } else setLoop s l { x with st := st }

/-! ## Re-acquisition (R357, R358) -/

/-- An attempt starts from the lowest fringe order. -/
def startReacq (s : State) (l : Nat) : State :=
  let x := loopOf s l
  setLoop s l { x with
    st := .reacq
    v := -x.ff
    goodPeriods := 0
    badPeriods := 0
    pilotOk := false
    pilotFails := 0
    cntReacq := satAdd x.cntReacq 1 }

/-- An attempt has failed: the third in a row puts the loop in FAULT. -/
def reacqFailed (s : State) (l : Nat) : State :=
  let x := loopOf s l
  if x.attempts + 1 < 3 then startReacq (setLoop s l { x with attempts := x.attempts + 1 }) l
  else
    raiseIrqArgs (setLoop s l { x with st := .fault, attempts := x.attempts + 1 }) 0x43 (l / 6) 3 0 [l % 6]

/-- A check of R357 fails: counted and recorded with port, MZI, cause and heater code; within 100 ms of
an attempt it fails that attempt. -/
def wrongLock (s : State) (l cause : Nat) : State :=
  let x := loopOf s l
  let again := 0 < x.lastReacq.toNat && s.ns.toNat ≤ x.lastReacq.toNat + 100000000
  let s := setLoop s l { x with
    cntWrong := satAdd x.cntWrong 1
    lastCause := cause
    attempts := if again then x.attempts else 0 }
  let s := raiseIrqArgs s 0x43 (l / 6) 2 0 [l / 6, l % 6, cause, biasCode x]
  if again then reacqFailed s l else startReacq s l

/-- `LOOP_CTL.REACQ`. -/
def loopReacqCmd (s : State) (l : Nat) : Nat × State :=
  match (loopOf s l).st with
  | .off => (stSTATE, s)
  | .scanning => (stSTATE, s)
  | .reacq => (stSTATE, s)
  | _ => (stOK, startReacq (setLoop s l { loopOf s l with attempts := 0, lastReacq := 0#64 }) l)

/-- The tap stayed dark for 10 ms. -/
def darkTimeoutRun (s : State) (l : Nat) : State := if (loopOf s l).st == .reacq then reacqFailed s l else s

/-! ## Heater updates and dither periods (R353, R354) -/

/-- The ramp of a re-acquisition for one lit microsecond: the first maximum ends it, WIN_HI fails it. -/
def rampTick (s : State) (l : Nat) (localMax : Bool) : State :=
  let x := loopOf s l
  if localMax then loopEnter s l { x with lastReacq := s.ns } .acquiring
  else if Int.ofNat (winHi x) ≤ x.v + x.ff then reacqFailed s l
  else setLoop s l { x with v := x.v + 24 }

/-- The microsecond update of a heater. -/
def heaterRun (s : State) (l : Nat) (activity : BitVec 16) (lit localMax : Bool) : State :=
  if !afeOn s (loopDie l) then s
  else
    let x := loopOf s l
    let af := x.af + sh (Int.ofNat activity.toNat - x.af) x.tauSh
    let x := { x with af := af }
    let x := { x with ff := ffOf s l x }
    let s := setLoop s l x
    let s := if x.st == .reacq && lit then rampTick s l localMax else s
    let x := loopOf s l
    let inside := 0 ≤ x.v + x.ff && x.v + x.ff ≤ Int.ofNat (winHi x)
    setLoop s l { x with code := heaterCode s l x, winOut := x.winOut && !inside }

/-- Σ of a weight times the taps of a period's used samples. -/
def lockSum (f : Nat → Int) (used : List LockSample) : Int :=
  used.foldl (fun z u =>
    let t := Int.ofNat u.tap.toNat * f u.phase.toNat
    if u.state0 then z + t else z - t) 0

/-- LOCKED needs c2 > 0 for 4 periods and a passed pilot check. -/
def lockSettle (s : State) (l : Nat) : State :=
  let x := loopOf s l
  if x.st == .acquiring && 4 ≤ x.goodPeriods && x.pilotOk then loopEnter s l x .locked else s

/-- The checks of R357 at a period's end. -/
def wrongChecks (s : State) (l : Nat) : State :=
  let x := loopOf s l
  if x.st != .acquiring && x.st != .locked then s
  else if 4 ≤ x.badPeriods then wrongLock s l 1
  else if 2 ≤ x.pilotFails then wrongLock s l 2
  else if x.winOut then wrongLock s l 3
  else s

/-- A dither period that yields g. -/
def periodGood (s : State) (l : Nat) (used : List LockSample) : State :=
  let x := loopOf s l
  let n := used.length
  let g := openDiv l (lockSum (fun p => sin15 p (2 ^ 32)) used) n
  let c2 := openDiv (l + 192) (lockSum (fun p => cos15 (2 * p) (2 ^ 32)) used) n
  let x := { x with
    g := g
    c2 := c2
    curvOk := 0 < c2
    goodPeriods := if 0 < c2 then x.goodPeriods + 1 else 0
    badPeriods := if 0 < c2 then 0 else x.badPeriods + 1 }
  let x := if x.st == .holding && !fslHeld s l then { x with st := x.back } else x
  let mean := (used.map fun u => u.tap.toNat).sum / max n 1
  let step := signed 32 (Config.lockStep x.bw (dithFreq s l) mean g).toNat
  let x := if x.st == .acquiring || x.st == .locked then { x with v := x.v + step } else x
  let s := wrongChecks (setLoop s l x) l
  let s := lockSettle s l
  setLoop s l { loopOf s l with winOut := true }

/-- A dither period ends: with fewer used samples than half its length it yields nothing, and the loop
holds. [DESIGN CHOICE: log 95] -/
def periodRun (s : State) (l length : Nat) (used : List LockSample) : State :=
  let x := loopOf s l
  if !afeOn s (loopDie l) || x.st == .off || x.st == .scanning || x.st == .reacq then s
  else if used.isEmpty || 2 * used.length < length then
    if x.st == .acquiring || x.st == .locked then
      let s := wrongChecks s l
      let x := loopOf s l
      let s := if x.st == .acquiring || x.st == .locked then setLoop s l { x with st := .holding, back := x.st } else s
      setLoop s l { loopOf s l with winOut := true }
    else setLoop s l { x with winOut := true }
  else periodGood s l used

/-! ## Pilot checks (R356) -/

/-- Loops of a die that hold a pilot detector. -/
def pilotBusy (s : State) (a : Nat) : Nat := ((List.range 48).filter fun i => (loopOf s (48 * a + i)).checking).length

/-- A check is due: it takes one of the die's four detectors, or waits. -/
def pilotStartRun (s : State) (l : Nat) : State :=
  let x := loopOf s l
  if (x.st == .acquiring || x.st == .locked) && !x.checking && pilotBusy s (loopDie l) < 4 then
    setLoop s l { x with checking := true }
  else s

/-- The pilots that a MZI's tap must hear in state 0. -/
def expectedPilots (j : Nat) : List Nat := match j % 3 with | 0 => [0, 1] | 1 => [0] | _ => [2]

/-- A check ends with the four pilot levels in ppm of the mean tap; no levels: no state-0 sample, and the
check is deferred. -/
def pilotDoneRun (s : State) (l : Nat) (levels : List Nat) : State :=
  let x := loopOf s l
  if !x.checking then s
  else if levels.isEmpty then setLoop s l { x with checking := false }
  else
    let at_ (k : Nat) : Nat := levels.getD k 0
    let heard := (List.range 4).foldl (fun m k => if 2500 ≤ at_ k then m + 2 ^ k else m) 0
    let want := expectedPilots (l % 6)
    let pass := (List.range 4).all fun k => if want.contains k then 2500 ≤ at_ k else at_ k ≤ 500
    let s := setLoop s l { x with
      checking := false
      pilots := heard
      pilotOk := pass
      pilotFails := if pass then 0 else x.pilotFails + 1 }
    if x.st != .acquiring && x.st != .locked then s
    else if !pass && 2 ≤ x.pilotFails + 1 then wrongLock s l 2
    else lockSettle s l

/-! ## Scans (R363) -/

/-- A scan of a MZI is queued: full when it is asked for or there is no stored value. -/
def scanStart (s : State) (full : Bool) (l : Nat) : State :=
  let x := loopOf s l
  setLoop s l { x with st := .scanning, scan := true, fullScan := full || !x.scanned }

/-- The MZI that the die's one scanner serves: the lowest one that waits. -/
def scanFront (s : State) (a : Nat) : Option Nat :=
  ((List.range 48).map (48 * a + ·)).find? fun l => (loopOf s l).scan

/-- Scan the transmit MZIs of a port that is enabled and present, once the power-up calibration has run. -/
def portScans (s : State) (p : Nat) : State :=
  if s.boot.calibrated && enOf s 0x31 p && cagePresent s p && (portOf s p).st != .up && (portOf s p).st != .training then
    (List.range 3).foldl (fun s j => scanStart s false (6 * p + j)) s
  else s

/-- The outcome of a scan: V and C2pi, or CALINPUT (false). -/
def scanValues (x : Loop) (r : ScanResult) : Bool × Loop :=
  match r with
  | .verify c =>
    if x.fullScan then (false, x)
    else (true, { x with v := Int.ofNat c.toNat - x.ff })
  | .full a b =>
    if !x.fullScan || b.toNat ≤ a.toNat then (false, x)
    else (true, { x with v := Int.ofNat a.toNat - x.ff, c2pi := b.toNat - a.toNat, scanned := true })
  | _ => (false, x)

/-- A scan of one MZI ends. [DEDUCED: log 96] -/
def scanDoneRun (s : State) (l : Nat) (r : ScanResult) : State :=
  if scanFront s (loopDie l) != some l || !afeOn s (loopDie l) then s
  else
    let p := l / 6
    let (ok, x) := scanValues (loopOf s l) (if cagePresent s p then r else .noLight)
    let x := { x with scan := false, fullScan := false }
    let s :=
      if ok then loopEnter s l { x with en := true, goodPeriods := 0, badPeriods := 0, pilotOk := false, pilotFails := 0 } .acquiring
      else
        let s := orReg s Reg.CAL_FAIL_PORTS (toWord (2 ^ p))
        if x.scanned && cagePresent s p then loopEnter s l x .acquiring else setLoop s l { x with st := .off }
    let cal := s.sel.cal
    if cal.op == 2 && cal.todo.contains l then
      { s with sel := { s.sel with cal := { cal with
        todo := cal.todo.filter (· != l)
        refused := cal.refused || !ok
        done := cal.done + 1 } } }
    else
      let s := if tget (fun _ => false) s.sel.inserted p then autoSave s else s
      if txScanning s p then s else portTrain s p

/-! ## Cages (R344) -/

/-- The stored selector values of a cage are cleared. -/
def clearStored (s : State) (p : Nat) : State :=
  (List.range 6).foldl (fun s j =>
    let x := loopOf s (6 * p + j)
    setLoop s (6 * p + j) { x with scanned := false, c2pi := 0, v := 0 }) s

/-- A cage becomes present: at the first detection after its AFE die started it has been there since
power-up; later it is an insertion. -/
def cageInsertRun (s : State) (p : Nat) (first : Bool) : State :=
  if !afeOn s (p / 8) || cagePresent s p then s
  else
    let first := first && !tget (fun _ => false) s.sel.detected p
    let s := { s with sel := { s.sel with
      present := tset (fun _ => false) s.sel.present p true
      detected := tset (fun _ => false) s.sel.detected p true
      inserted := tset (fun _ => false) s.sel.inserted p (!first) } }
    let s := raiseIrq s 0x43 p 0
    let s := if !first && bitOf (getReg s (Reg.at Reg.FSL_CFG p)) 0 then clearStored s p else s
    portScans s p

/-- A cage becomes absent: its heaters go to 0, its loops OFF, its port DOWN. [DEDUCED: log 96] -/
def cageRemoveRun (s : State) (p : Nat) : State :=
  if !cagePresent s p then s
  else
    let s := { s with sel := { s.sel with
      present := tset (fun _ => false) s.sel.present p false
      detected := tset (fun _ => false) s.sel.detected p true } }
    let s := (List.range 6).foldl (fun s j =>
      let l := 6 * p + j
      setLoop s l { loopOf s l with
        st := .off
        en := false
        setCode := 0
        code := 0
        checking := false
        scan := false
        fullScan := false }) s
    let cal := s.sel.cal
    let gone := cal.todo.filter fun l => l / 6 == p
    let s := if gone.isEmpty then s
      else
        let s := orReg s Reg.CAL_FAIL_PORTS (toWord (2 ^ p))
        { s with sel := { s.sel with cal := { cal with
          todo := cal.todo.filter fun l => l / 6 != p
          refused := true
          done := cal.done + gone.length } } }
    let s := raiseIrq s 0x43 p 1
    let st := (portOf s p).st
    if st == .disabled then s else portLeave s p .down

/-! ## Register commands of the FSL and FPP pages -/

/-- `FSL.FSEL_FORCE` (R347). -/
def fselForceCmd (s : State) (p : Nat) (v : Word) : Nat × State :=
  let st := fppState s p
  if bitOf v 0 && portDieOn s p && !([0x10, 0x11, 0x14].contains st) then (stSTATE, s)
  else (stOK, portTrain (setReg s (Reg.at Reg.FSL_FSEL_FORCE p) (v &&& 0x1F#32)) p)

/-- `FPP.PAGE_CTL.EN` (R286): EN 1 scans the transmit MZIs, then the port trains. -/
def fppEnableCmd (s : State) (p : Nat) (on : Bool) : State :=
  let was := enOf s 0x31 p
  let s := setRegFld s (pageKey 0x31 p + 0x008) 0 1 (b2n on)
  if on then (if was then s else portScans s p) else portLeave s p .disabled

/-- `LOOP_CTL.EN` of a loop. -/
def loopEnableCmd (s : State) (l : Nat) (on : Bool) : State :=
  let x := loopOf s l
  if on then
    let x := { x with en := true }
    if !cagePresent s (l / 6) || x.st != .off then setLoop s l x
    else loopEnter s l { x with goodPeriods := 0, badPeriods := 0, pilotOk := false, pilotFails := 0 } .acquiring
  else setLoop s l { x with
    en := false
    st := if x.scan then .scanning else .off
    checking := false
    attempts := 0 }

/-- `FSL.PAGE_CTL.HOLD`: the port's enabled loops enter HOLDING. -/
def fslHoldCmd (s : State) (p : Nat) (on : Bool) : State :=
  let s := setRegFld s (pageKey 0x43 p + 0x008) 2 1 (b2n on)
  if !on then s
  else (List.range 6).foldl (fun s j =>
    let x := loopOf s (6 * p + j)
    match x.st with
    | .acquiring => setLoop s (6 * p + j) { x with st := .holding, back := .acquiring }
    | .locked => setLoop s (6 * p + j) { x with st := .holding, back := .locked }
    | .reacq => setLoop s (6 * p + j) { x with st := .holding, back := .acquiring }
    | _ => s) s

/-- A write of FSL.CFG, KA, KT or FF_CFG (R359): status, detail and state. -/
def ffParamCmd (s : State) (p ofs : Nat) (v : Word) : Nat × Nat × State :=
  let l := 6 * p + fld (getReg s (Reg.at Reg.FSL_MZI_SEL p)) 0 3
  match ofs with
  | 0x040 =>
    if 100 < fld v 8 8 then (stRANGE, 2, s)
    else
      let key := Reg.at Reg.FSL_CFG p
      let w := v &&& 0xFF03#32
      let s' := (List.range 6).foldl (fun z j =>
        let k := 6 * p + j
        setLoop z k (loopOf (ffChange s k fun s => setReg s key w) k)) s
      (stOK, 0, setReg s' key w)
  | 0x074 => (stOK, 0, ffChange s l fun s => setLoop s l { loopOf s l with ka := v })
  | 0x078 => (stOK, 0, ffChange s l fun s => setLoop s l { loopOf s l with kt := v })
  | 0x07C =>
    if 12 < fld v 0 4 then (stRANGE, 2, s)
    else (stOK, 0, ffChange s l fun s => setLoop s l { loopOf s l with t0 := fld v 16 16, tauSh := fld v 0 4 })
  | _ => (stRANGE, 2, s)

/-! ## Calibration (R361 to R365) -/

def modCal (s : State) (f : Calib → Calib) : State := { s with sel := { s.sel with cal := f s.sel.cal } }

/-- `CAL.PAGE_STAT[7:0]`. -/
def calState (s : State) : Nat :=
  if powerCal s then 0x11 else match s.sel.cal.op with | 1 => 0x12 | 2 => 0x13 | 3 => 0x14 | _ => 0x10

/-- The offset calibration of one channel (R362): the average becomes OFFSET, or the channel is lit. -/
def offsetChannel (s : State) (k avg : Nat) : Bool × State :=
  let c := channelOf s k
  let a := k / 64
  if avg ≤ fld (getReg s (Reg.at Reg.AFE_DARK_THR a)) 0 16 then
    (true, setChannel s k { c with offset := BitVec.ofNat 16 avg, cal := stOK })
  else
    let s := setChannel s k { c with cal := stCALINPUT }
    (false, raiseIrqArgs (bumpReg s (Reg.at Reg.AFE_CNT_CALINPUT a) 1) 0x44 a 0 stCALINPUT [k % 64])

/-- Channels with their averages; true when none was refused. -/
def offsetChannels (s : State) (l : List (Nat × Nat)) : Bool × State :=
  l.foldl (fun (p : Bool × State) x =>
    let (ok, s) := offsetChannel p.2 x.1 x.2
    (p.1 && ok, s)) (true, s)

/-- A calibration command has ended: RESULT and the interrupt bits. -/
def calResult (s : State) (op st ms : Nat) : State :=
  let s := setRegN (setRegN s Reg.CAL_RESULT (st + op * 2 ^ 24)) Reg.CAL_LAST_MS ms
  let s := if st == stCALINPUT then raiseIrqArgs s 0x45 0 1 st [op] else s
  let s := if st == stABORTED then raiseIrqArgs s 0x45 0 2 st [op] else s
  raiseIrqArgs s 0x45 0 0 st [op]

/-- No valid link table under plan 0b10 (R278). -/
def linkTableStore (s : State) : State :=
  let s := (List.range 64).foldl (fun s n =>
    setRegN s (pageKey 0x30 n + 0x01C) (linkState s n * 2 ^ 8 + stSTORE * 2 ^ 16)) s
  event s 0x3020 0x30 0 stSTORE []

/-- The link table record of the slot in force, when it is valid. -/
def linkTableLoad (s : State) : State :=
  let r := match usedSection s 6 with
    | some bs => if linkTableValid s bs then some bs else none
    | none => none
  let s := modFix s fun x => { x with linkTbl := r }
  if strapPlan s == 2 && r.isNone then linkTableStore s else s

/-- Step 5 of R361: a scanned loop enters HOLDING at its stored code. -/
def holdStored (s : State) (l : Nat) : State :=
  let x := loopOf s l
  if !x.scanned || !cagePresent s (l / 6) then s
  else
    let ff := ffOf s l x
    setLoop s l { x with st := .holding, back := .acquiring, en := true, ff := ff, v := x.v - ff }

/-- The power-up calibration (R361), with the averages of the 192 taps. Its duration in ms is free.
[DESIGN CHOICE: log 119; DEDUCED: log 137] -/
def powerupCalRun (s : State) (averages : List Nat) : State :=
  if !powerCal s then s
  else
    let before := service s
    let s := fixChoose s
    let afe := usedSection s 1
    let s := match afe with | some bs => loadAfe s bs | none => s
    let s := { s with sel := { s.sel with afeDefaults := afe.isNone } }
    let (ok, s) := offsetChannels s ((averages.take 192).zipIdx.map fun x => (tapChan x.2, x.1))
    let s := match usedSection s 2 with | some bs => loadSelector s bs | none => s
    let s := linkTableLoad (fixLoadSteering s)
    let s := (List.range 192).foldl holdStored s
    let s := { s with boot := { s.boot with calibrated := true } }
    let (ms, s) := freeNat 32 s
    let s := calResult s 0 (if ok then stOK else stCALINPUT) ms
    let s := (List.range 32).foldl portScans s
    maybeSync (statusSettle before s)

/-- The loops of the AFE dies that `CAL.SCOPE.DIES` names. -/
def scopeLoops (s : State) : List Nat :=
  (List.range 192).filter fun l => (getReg s Reg.CAL_SCOPE).getLsbD (8 + loopDie l)

/-- A command starts. -/
def calStart (s : State) (op total : Nat) (todo : List Nat) : State :=
  let s := modCal s fun _ => { op := op, abort := false, todo := todo, refused := false, done := 0, total := total }
  setRegN (setRegN s Reg.CAL_FAIL_PORTS 0) Reg.CAL_FAIL_MIRRORS 0

/-- `CAL.CMD` OFFSET. -/
def calOffsetCmd (s : State) : Nat × State :=
  if calState s != 0x10 || (scopeLoops s).any fun l => (loopOf s l).st != .off then (stSTATE, s)
  else (stOK, calStart s 1 (scopeLoops s).length [])

/-- The MZIs that a FRINGE command names. -/
def fringeLoops (s : State) : List Nat :=
  (List.range 192).filter fun l =>
    (getReg s Reg.CAL_PORTS).getLsbD (l / 6) && (getReg s Reg.CAL_SCOPE).getLsbD (l % 6)

/-- `CAL.CMD` FRINGE. -/
def calFringeCmd (s : State) : Nat × State :=
  let up (p : Nat) : Bool := (portOf s p).st == .up || (portOf s p).st == .training
  if calState s != 0x10 || (List.range 32).any fun p => (getReg s Reg.CAL_PORTS).getLsbD p && up p then (stSTATE, s)
  else
    let ls := fringeLoops s
    let full := (getReg s Reg.CAL_SCOPE).getLsbD 16
    (stOK, ls.foldl (fun s l => scanStart s full l) (calStart s 2 ls.length ls))

/-- The six reference ports of `PLANE_REF0` to `PLANE_REF2`. -/
def planeRefs (s : State) : List Nat :=
  [Reg.CAL_PLANE_REF0, Reg.CAL_PLANE_REF1, Reg.CAL_PLANE_REF2].flatMap fun r => [fld (getReg s r) 0 11, fld (getReg s r) 16 11]

/-- `CAL.CMD` PLANE (R364). -/
def calPlaneCmd (s : State) : Nat × State :=
  if calState s != 0x10 || !planeUp s || !holdsClaim s || s.ste.portMap.isNone || s.ste.move.isSome then (stSTATE, s)
  else if !decide (planeRefs s).Nodup then (stRANGE, s)
  else (stOK, calStart s 3 18 [])

/-- `CAL.CMD` ABORT: the command ends at its next unit. [DEDUCED: log 96] -/
def calAbortCmd (s : State) : Nat × State := (stOK, if s.sel.cal.op == 0 then s else modCal s fun c => { c with abort := true })

/-- The coefficients of a measured axis. [DESIGN CHOICE: log 97] -/
def planeAxis (s : State) (r : PlaneReading) : State :=
  match r.points with
  | none => s
  | some pts =>
    let a := 2 * r.mirror + b2n r.axisY
    let cs := (List.range 6).map fun k => Config.planeFit a pts k
    let park := (coefWords s a).getD 6 0#32
    modSte s fun t => { t with coefs := tset (fun _ => none) t.coefs a (some (cs ++ [park])) }

/-- Apply the readings of a PLANE calibration: a mirror with too little light at any reference keeps its
coefficients and is counted. [DESIGN CHOICE: log 97] -/
def planeApply (s : State) (rs : List PlaneReading) : Nat × State :=
  let rs := rs.filter fun r => r.mirror < 2304
  let bad := (rs.filter fun r => r.points.isNone).map (·.mirror)
  let good := rs.filter fun r => !bad.contains r.mirror
  let s := good.foldl planeAxis s
  let s := good.foldl (fun s r => modSte s fun t => { t with mirCal := tset (fun _ => false) t.mirCal r.mirror true }) s
  (bad.eraseDups.length, s)

/-- A command ends (R365): on OK or ABORTED what was measured is saved. [DEDUCED: log 96] -/
def calEndRun (s : State) (averages : List (Nat × Nat)) (plane : List PlaneReading) (ms : Word) : State :=
  let c := s.sel.cal
  if c.op == 0 || s.boot.phase != .firmware || (c.op == 2 && !c.todo.isEmpty && !c.abort) then s
  else
    let before := service s
    let named := (scopeLoops s).map tapChan
    let taken := averages.filter fun x => named.contains x.1
    let (ok, s) := if c.op == 1 then offsetChannels s taken else (!c.refused, s)
    let (bad, s) := if c.op == 3 then planeApply s plane else (0, s)
    let s := if c.op == 3 then setRegN s Reg.CAL_FAIL_MIRRORS bad else s
    let s := c.todo.foldl (fun s l =>
      let x := loopOf s l
      let x := { x with scan := false, fullScan := false }
      if x.scanned && cagePresent s (l / 6) then loopEnter s l x .acquiring else setLoop s l { x with st := .off }) s
    let st := if c.abort then stABORTED else if !ok || bad != 0 then stCALINPUT else stOK
    let s := if c.op == 3 && st == stOK then modFix s fun x => { x with planeOk := true } else s
    let done := if c.op == 2 then c.done else if c.abort then min c.total taken.length else c.total
    let s := modCal s fun _ => { done := done, total := c.total }
    let s := calResult s c.op st ms.toNat
    let s := if st == stCALINPUT then s else autoSave s
    maybeSync (statusSettle before s)

/-- `FSL.PAGE_STAT[7:0]` while STE is ON. -/
def fslState (s : State) (p : Nat) : Nat :=
  let xs := (List.range 6).map fun j => loopOf s (6 * p + j)
  let any (f : LoopSt → Bool) : Bool := xs.any fun x => f x.st
  if !cagePresent s p then 0x10
  else if any (· == .scanning) then 0x12
  else if any (· == .fault) then 0x15
  else if any fun st => st == .acquiring || st == .reacq then 0x14
  else if any (· != .off) then 0x13
  else 0x11

/-- `AFE.PAGE_STAT[7:0]` while the die is ON. -/
def afeState (s : State) : Nat :=
  if powerCal s || s.sel.cal.op == 1 then 0x11 else if s.sel.afeDefaults then 0x12 else 0x10

/-- `LOOP_STAT`. -/
def loopStat (s : State) (l : Nat) : Nat :=
  let x := loopOf s l
  let st := match x.st with
    | .off => 0 | .scanning => 1 | .acquiring => 2 | .locked => 3 | .holding => 4 | .reacq => 5 | .fault => 6
  st + 8 * b2n x.pilotOk + 16 * b2n x.curvOk + 32 * b2n x.scanned + 256 * (x.lastCause % 4) + 4096 * (x.pilots % 16)

end Sys2Proof.Machine
end

