-- ==== Sys2Proof/Machine/SillageOps.lean ====
section
/-!
DEFINITION. Sillage's ring and its copy in flash (R398 to R410), the CRC scan engines (R411 to R413), the
scratch SRAM (R414, R415) and the Blotter (R416 to R418).
-/

namespace Sys2Proof.Machine

/-! ## Records -/

def modEvr (s : State) (f : Evr → Evr) : State := { s with evr := f s.evr }

/-- The 64 bytes of a record (R398). -/
def recBytes (r : Rec) : List Byte :=
  let b := leBytes 4 r.seq.toNat ++ leBytes 1 (r.sev + 8 * b2n r.rebased) ++ leBytes 1 r.typ ++ leBytes 2 r.code ++
    leBytes 1 r.page ++ leBytes 1 r.inst ++ leBytes 2 r.status ++ leBytes 5 r.optime.toNat ++
    leBytes 3 r.pcycle.toNat ++ zeros 4 ++
    (List.range 8).flatMap (fun i => leBytes 4 (r.args.getD i 0#32).toNat) ++ zeros 4
  b ++ leBytes 4 (crc32c b).toNat

/-- A record of a given TYPE at the present time. [DEDUCED: log 136] -/
def newRec (s : State) (typ sev code page inst status : Nat) (args : List Word) : Rec :=
  { seq := 0#32, sev := sev, rebased := false, typ := typ, code := code, page := page, inst := inst, status := status,
    optime := s.pwr.optime, pcycle := s.pwr.pcycle, args := args }

/-- A record qualifies for persistence (R409). -/
def qualifies (s : State) (r : Rec) : Bool :=
  fld (getReg s Reg.EVR_CFG) 4 3 ≤ r.sev || [2, 3, 4, 5].contains r.typ

/-- The oldest record of equal or lower severity makes room: the ring without it, and that record. -/
def ringVictim (l : List Rec) (sev : Nat) : Option (List Rec × Rec) :=
  match l.findIdx? fun r => r.sev ≤ sev with
  | some i => (l[i]?).map fun r => (l.eraseIdx i, r)
  | none => none

/-- Write a record into the ring (R402, R405). [DEDUCED: log 104] -/
def ringWrite (s : State) (r : Rec) : State :=
  let r := { r with seq := s.evr.newest + 1#32 }
  let put (s : State) (l : List Rec) : State :=
    let s := modEvr s fun e => { e with ring := l ++ [r], newest := r.seq }
    let s := if r.typ == 3 then raiseQuiet s 0x07 0 2 else s
    if fld (getReg s Reg.EVR_CFG) 0 3 ≤ r.sev then raiseQuiet s 0x07 0 0 else s
  if s.evr.ring.length < 1024 then put s s.evr.ring
  else
    match ringVictim s.evr.ring r.sev with
    | some (l, x) =>
      let s := if qualifies s x && !x.persisted then
        raiseQuiet (bumpReg s Reg.EVR_CNT_PERSIST_LOST 1) 0x07 0 4 else s
      put s l
    | none => raiseQuiet (bumpReg s Reg.EVR_CNT_DROPPED 1) 0x07 0 3

/-- The LOST record over every loss since the last one (R404). [DEDUCED: log 104] -/
def lostRec (s : State) : Rec :=
  let sev := s.evr.losses.foldl (fun m x => if x.2 == 0 then m else max m x.1) 0
  newRec s 2 sev 0x0721 0x07 0 0
    ((List.range 6).map (fun k => toWord (tget (fun _ => 0) s.evr.losses k)) ++ [s.evr.lossFirst, s.evr.lossLast])

/-- At a record boundary the writer writes one record (R402, R404). -/
def recordWriteRun (s : State) : State :=
  if !s.evr.losses.isEmpty && s.evr.fifo.length ≤ 48 then
    ringWrite (modEvr s fun e => { e with losses := [], lossFirst := 0#32, lossLast := 0#32 }) (lostRec s)
  else
    match s.evr.fifo with
    | r :: t => ringWrite (modEvr s fun e => { e with fifo := t }) r
    | [] => s

/-- A bucket gains a token; its suppressed events then give a SUPPRESSED record (R401). [DEDUCED: log 107] -/
def bucketRefillRun (s : State) (b : Nat) : State :=
  let k := bucketOf s b
  if k.tokens < fld (getReg s Reg.EVR_RL_CFG) 0 8 then
    let s' := setBucket s b { k with tokens := k.tokens + 1, supp := 0, sev := 0, first := 0#32, last := 0#32, code := 0, page := 0, inst := 0 }
    if k.supp == 0 then setBucket s b { k with tokens := k.tokens + 1 }
    else evrSettle (fifoPush s' (newRec s 3 k.sev k.code k.page k.inst 0 [toWord k.supp, k.first, k.last]))
  else s

/-- The tokens of every bucket are at most BURST. [DEDUCED: log 107] -/
def bucketsClamp (s : State) : State :=
  let m := fld (getReg s Reg.EVR_RL_CFG) 0 8
  forEach 1024 s fun s b =>
    let k := bucketOf s b
    if m < k.tokens then setBucket s b { k with tokens := m } else s

/-! ## Reading by SEQ (R406) -/

/-- SEQ a is at or below b, in a window of 2^31. -/
def seqLe (a b : Word) : Bool := (b - a).toNat < 2 ^ 31

def ringAt (s : State) (q : Word) : Option Rec := s.evr.ring.find? fun r => r.seq == q

/-- `RD_STAT`: FOUND, and GONE for a SEQ at or below the newest that is no longer present. -/
def rdStat (s : State) (q : Word) : Nat :=
  let found := (ringAt s q).isSome
  b2n found + 2 * b2n (!found && q != 0#32 && s.evr.newest != 0#32 && seqLe q s.evr.newest)

/-- `RD_NEXT`: the lowest present SEQ above the one read. -/
def rdNext (s : State) (q : Word) : Word :=
  match s.evr.ring.find? fun r => r.seq != q && seqLe q r.seq with
  | some r => r.seq
  | none => 0#32

/-- A released record is freed at once, or when it is persisted. -/
def sillageFree (s : State) (q : Word) : State :=
  let keep (r : Rec) : Option Rec :=
    if seqLe r.seq q then (if r.persisted || !qualifies s r then none else some { r with released := true }) else some r
  modEvr s fun e => { e with ring := e.ring.filterMap keep }

/-- A host mark (R407). -/
def hostmarkRun (s : State) : State :=
  evrSettle (evrAdmit s (newRec s 4 (fld (getReg s Reg.EVR_HM_CTL) 4 3) 0x0720 0x07 0 0
    ((List.range 8).map fun i => getReg s (Reg.EVR_HM_TEXT0 + 4 * i))))

/-! ## Checkpoints (R408, R409) -/

abbrev ringBase : Nat := 0x3400000

def ckAddr (sector i : Nat) : Nat := ringBase + 65536 * sector + 16 * i

def ckRead (s : State) (sector i : Nat) : List Byte := flashRead s (ckAddr sector i) 16

def ckGood (b : List Byte) : Bool := leAt b 8 4 == 0 && leAt b 12 4 == (crc32c (b.take 12)).toNat

/-- The last good entry of a checkpoint sector. -/
def ckLast (s : State) (sector : Nat) : Option (Nat × List Byte) :=
  (List.range 4096).foldl (fun m i => let b := ckRead s sector i; if ckGood b then some (i, b) else m) none

/-- The order of entries: the power cycle first, then the time. -/
def ckKey (b : List Byte) : Nat := leAt b 5 3 * 2 ^ 40 + leAt b 0 5

/-- The newest valid checkpoint: its sector, index and bytes. -/
def ckNewest (s : State) : Option (Nat × Nat × List Byte) :=
  match ckLast s 0, ckLast s 1 with
  | some (i, a), some (j, b) => if ckKey a < ckKey b then some (1, j, b) else some (0, i, a)
  | some (i, a), none => some (0, i, a)
  | none, some (j, b) => some (1, j, b)
  | none, none => none

/-- The place of the next entry: after the last one that is not erased, else at the start of the other sector. -/
def ckNext (s : State) (sector : Nat) : Nat :=
  (List.range 4096).foldl (fun m i => if (ckRead s sector i).all (· == 0xFF#8) then m else i + 1) 0

/-- Write a checkpoint of the present time. -/
def checkpoint (s : State) : State :=
  let b := leBytes 5 s.pwr.optime.toNat ++ leBytes 3 s.pwr.pcycle.toNat ++ zeros 4
  let e := b ++ leBytes 4 (crc32c b).toNat
  let sec := match ckNewest s with | some (k, _, _) => k | none => 0
  let i := ckNext s sec
  if i < 4096 then flashWrite s (ckAddr sec i) e
  else
    let o := 1 - sec
    flashWrite (flashErase s (ringBase + 65536 * o) 65536) (ckAddr o 0) e

/-- Every 60,000 ms of operating time; the writer is firmware, or the boot ROM in RECOVERY. -/
def checkpointRun (s : State) : State :=
  let last := match ckNewest s with | some (_, _, b) => leAt b 0 5 | none => 0
  if bitOf (getReg s Reg.EVR_TIME_STAT) 0 && (s.boot.phase == .firmware || s.boot.phase == .recovery) &&
      last + 60000 ≤ s.pwr.optime.toNat then checkpoint s
  else s

/-- A record gains the base of the power cycle. [DEDUCED: log 104] -/
def rebase (base : BitVec 40) (cyc : BitVec 24) (r : Rec) : Rec :=
  { r with optime := r.optime + base, pcycle := cyc, rebased := true }

/-- The base that the first boot of a power cycle gives the counters (R408 steps 2 to 4). [DEDUCED: log 104] -/
def giveBase (s : State) : State :=
  if bitOf (getReg s Reg.EVR_TIME_STAT) 0 then s
  else
    let (base, cyc) : BitVec 40 × BitVec 24 := match ckNewest s with
      | some (_, _, b) => (BitVec.ofNat 40 (leAt b 0 5 + 120000), BitVec.ofNat 24 (leAt b 5 3 + 1))
      | none => (0#40, 1#24)
    let s := { s with pwr := { s.pwr with optime := s.pwr.optime + base, pcycle := cyc } }
    let s := modEvr s fun e => { e with ring := e.ring.map (rebase base cyc), fifo := e.fifo.map (rebase base cyc) }
    let s := setRegN (setRegN (setRegN s Reg.EVR_BASE_LO (base.toNat % 2 ^ 32)) Reg.EVR_BASE_HI (base.toNat / 2 ^ 32))
      Reg.EVR_TIME_STAT 1
    checkpoint (raiseQuiet s 0x07 0 5)

/-! ## The persistent ring (R409, R410) -/

def psAddr (sector slot : Nat) : Nat := ringBase + 65536 * (sector + 2) + 64 * slot

def psRead (s : State) (sector slot : Nat) : List Byte := flashRead s (psAddr sector slot) 64

/-- A record in flash is whole. -/
def psGood (b : List Byte) : Bool := leAt b 60 4 == (crc32c (b.take 60)).toNat

/-- The sequence number of a record sector in use. -/
def psSeqOf (s : State) (sector : Nat) : Option Nat :=
  let b := psRead s sector 0
  if psGood b && leAt b 5 1 == 6 then some (leAt b 24 4) else none

/-- The record sectors in use with their sequence numbers. -/
def psSectors (s : State) : List (Nat × Nat) :=
  (List.range 190).filterMap fun i => (psSeqOf s i).map fun q => (q, i)

/-- The newest and the oldest of them. -/
def psNewest (l : List (Nat × Nat)) : Option (Nat × Nat) :=
  l.foldl (fun m x => match m with | some y => if y.1 < x.1 then some x else m | none => some x) none

/-- [DEDUCED: log 35] -/
def psOldest (l : List (Nat × Nat)) : Option (Nat × Nat) :=
  l.foldl (fun m x => match m with | some y => if x.1 < y.1 then some x else m | none => some x) none

/-- The next free slot of a record sector; 1,024 when it is full. [DEDUCED: log 35] -/
def psFree (s : State) (sector : Nat) : Nat :=
  (List.range 1024).foldl (fun m i => if (psRead s sector i).all (· == 0xFF#8) then m else i + 1) 1

/-- The SECTOR record that opens a sector: R399 gives its TYPE and ARG0, its other fields are free. [DEDUCED: log 104] -/
def sectorRec (s : State) (seq : Nat) : Rec × State :=
  let (q, s) := freeNat 32 s
  let (v, s) := freeNat 3 s
  let (c, s) := freeNat 16 s
  let (p, s) := freeNat 8 s
  ({ newRec s 6 v c p 0 0 [toWord seq] with seq := toWord q }, s)

/-- Open a record sector: one not in use, else the one with the lowest sequence number, erased. [DEDUCED: log 35] -/
def psOpen (s : State) : Nat × State :=
  let l := psSectors s
  let seq := match psNewest l with | some (q, _) => q + 1 | none => 1
  let sec := match (List.range 190).find? fun i => (psSeqOf s i).isNone with
    | some i => i
    | none => match psOldest l with | some (_, i) => i | none => 0
  let s := flashErase s (psAddr sec 0) 65536
  let (r, s) := sectorRec s seq
  (sec, flashWrite s (psAddr sec 0) (recBytes r))

/-- Copy one record to flash. -/
def psPut (s : State) (r : Rec) : State :=
  match psNewest (psSectors s) with
  | some (_, sec) =>
    let i := psFree s sec
    if i < 1024 then flashWrite s (psAddr sec i) (recBytes r)
    else
      let (sec, s) := psOpen s
      flashWrite s (psAddr sec 1) (recBytes r)
  | none =>
    let (sec, s) := psOpen s
    flashWrite s (psAddr sec 1) (recBytes r)

/-- Copy a record of the ring and mark it. -/
def persistOne (s : State) (r : Rec) : State :=
  let s := setReg (psPut s r) Reg.EVR_PERSIST_SEQ r.seq
  let mark (x : Rec) : Option Rec :=
    if x.seq == r.seq then (if x.released then none else some { x with persisted := true }) else some x
  modEvr s fun e => { e with ring := e.ring.filterMap mark }

/-- Firmware copies the qualifying records in SEQ order (R409); copies wait while it does not run (R110). -/
def persistRun (s : State) : State :=
  if s.boot.phase == .firmware then (s.evr.ring.filter fun r => qualifies s r && !r.persisted).foldl persistOne s else s

/-- The records in flash from a position on, at most `n` (R410): sectors in order of their numbers. -/
def psRecords (s : State) (secs : List (Nat × Nat)) (slot : Nat) : List (Nat × Nat × List Byte) :=
  match secs with
  | [] => []
  | (q, i) :: t =>
    ((List.range 1024).filterMap fun k =>
      let b := psRead s i k
      if slot ≤ k && 1 ≤ k && psGood b then some (q, k, b) else none) ++ psRecords s t 1

/-- Insert by sequence number. -/
def insSector (x : Nat × Nat) : List (Nat × Nat) → List (Nat × Nat)
  | [] => [x]
  | y :: t => if x.1 ≤ y.1 then x :: y :: t else y :: insSector x t

/-- SILLAGE_READ: the next position and the records (R410). An erased sector's position reads from the oldest. -/
def sillageReadBody (s : State) (seq slot : Nat) : List Byte :=
  let secs := (psSectors s).foldl (fun l x => insSector x l) []
  let known := secs.any fun x => x.1 == seq
  let past := match psNewest secs with | some (q, _) => q < seq && seq != 0xFFFFFFFF | none => true
  let all := if known then psRecords s (secs.filter fun x => seq ≤ x.1) slot else if past then [] else psRecords s secs 1
  let out := all.take 511
  let next := match out.getLast? with | some (q, k, _) => (q, k + 1) | none => (seq, slot)
  leBytes 4 next.1 ++ leBytes 2 next.2 ++ zeros 2 ++ out.flatMap fun x => x.2.2

/-! ## Scratch SRAM and the Blotter's redirect (R414, R417) -/

def bltRegion (s : State) : Nat := fld (getReg s Reg.BLT_CUR) 0 8

def bltAborts (s : State) : Nat := fld (getReg s Reg.BLT_CUR) 8 4

/-- A scratch offset is served from the spare. -/
def fromSpare (s : State) (o : Nat) : Bool := o / 65536 == bltRegion s && o % 65536 < s.blt.redirected

def scratchByte (s : State) (o : Nat) : Byte :=
  if fromSpare s o then tget (fun _ => 0#8) s.mem.spare (o % 65536) else tget (fun _ => 0#8) s.mem.scratch o

/-- A byte stored in scratch SRAM, where it is served. -/
def scratchSet (s : State) (o : Nat) (b : Byte) : State :=
  if fromSpare s o then { s with mem := { s.mem with spare := tset (fun _ => 0#8) s.mem.spare (o % 65536) b } }
  else { s with mem := { s.mem with scratch := tset (fun _ => 0#8) s.mem.scratch o b } }

def modBlt (s : State) (f : Blt → Blt) : State := { s with blt := f s.blt }

/-- An access to [o, o + n): it aborts a copy or a test of its region (R417). -/
def bltTouch (s : State) (o n : Nat) : State :=
  let r := bltRegion s
  if (s.blt.run == .copying || s.blt.run == .testing) && 0 < n && o < (r + 1) * 65536 && r * 65536 < o + n then
    let s := modBlt s fun b => { b with run := .restoring, passed := false }
    let s := setRegFld s Reg.BLT_CUR 8 4 (min (bltAborts s + 1) 15)
    raiseIrq (bumpReg s Reg.BLT_CNT_ABORT 1) 0x48 0 2
  else s

/-- Read scratch SRAM. -/
def scratchRead (s : State) (o n : Nat) : List Byte × State :=
  let s := bltTouch s o n
  ((List.range n).map fun i => scratchByte s (o + i), s)

/-- Write scratch SRAM. -/
def scratchWrite (s : State) (o : Nat) (bs : List Byte) : State :=
  (bs.foldl (fun (p : Nat × State) b => (p.1 + 1, scratchSet p.2 p.1 b)) (o, bltTouch s o bs.length)).2

abbrev mbxBase : Nat := 0xFF0000

/-- An uncorrectable word of scratch SRAM (R414). -/
def scratchBad (s : State) (o : Nat) : State :=
  raiseIrq (setRegN (bumpReg s Reg.BNK_ECC_UE 1) Reg.BNK_UE_ADDR (o / 8 * 8)) 0x09 0 1

/-- A corrected one. -/
def scratchFixed (s : State) : State := raiseIrq (bumpReg s Reg.BNK_ECC_CE 1) 0x09 0 0

/-! ## The Blotter (R416 to R418) -/

/-- The Blotter may start work: `STE` ON, EN 1, not held, not REPAIRED. -/
def bltRuns (s : State) : Bool := isOn s dieSTE && enOf s 0x48 0 && !holdOf s 0x48 0 && s.blt.run == .waiting

/-- [DEDUCED: log 106] -/
def bltStart (s : State) : State := modBlt s fun b => { b with run := .copying, redirected := 0, passed := false }

/-- The next region's copy starts (R416). -/
def regionStartRun (s : State) : State := if bltRuns s && !s.blt.spareNext && bltAborts s == 0 then bltStart s else s

/-- An aborted region is tried again (R417). -/
def bltRetryRun (s : State) : State := if bltRuns s && !s.blt.spareNext && 0 < bltAborts s then bltStart s else s

/-- The copy ends: the spare holds the region and serves it. [DEDUCED: log 106] -/
def copyDoneRun (s : State) : State :=
  if s.blt.run == .copying then
    let r := bltRegion s * 65536
    let t := (List.range 65536).foldl (fun t i =>
      tset (fun _ => 0#8) t i (tget (fun _ => 0#8) s.mem.scratch (r + i))) ([] : Tbl Byte)
    modBlt { s with mem := { s.mem with spare := t } } fun b => { b with run := .testing, redirected := 65536 }
  else s

/-- The Blotter stops for good (R418). -/
def bltFail (s : State) : State :=
  raiseIrq (bumpReg (modBlt s fun b => { b with run := .repaired }) Reg.BLT_CNT_FAIL 1) 0x48 0 1

/-- The March test ends; `failAt` is the first failing word's offset in the region. -/
def testDoneRun (s : State) (failAt : Option Nat) : State :=
  if s.blt.run == .testing then
    match failAt with
    | none => modBlt s fun b => { b with run := .restoring, passed := true }
    | some o =>
      let r := bltRegion s
      bltFail (setRegN (setRegN s Reg.BLT_REPAIR (1 + 256 * r)) Reg.BLT_FAIL_ADDR (r * 65536 + o % 65536))
  else s

/-- Go on to the next region; after region 255 a pass has ended. -/
def bltNext (s : State) : State :=
  if bltRegion s == 255 then
    raiseIrq (wrapReg (modBlt (setRegN s Reg.BLT_CUR 0) fun b => { b with spareNext := true }) Reg.BLT_PASSES 1) 0x48 0 0
  else setRegN s Reg.BLT_CUR (bltRegion s + 1)

/-- The restore ends: the region holds the spare's data again (R416, R417). [DEDUCED: log 106] -/
def restoreDoneRun (s : State) : State :=
  if s.blt.run == .restoring then
    let r := bltRegion s
    let t := if s.blt.redirected == 0 then s.mem.scratch else
      (List.range 65536).foldl (fun t i =>
        tset (fun _ => 0#8) t (r * 65536 + i) (tget (fun _ => 0#8) s.mem.spare i)) s.mem.scratch
    let passed := s.blt.passed
    let s := modBlt { s with mem := { s.mem with scratch := t } } fun b => { b with run := .waiting, redirected := 0 }
    let mark (s : State) (ok : Bool) : State := modBlt s fun b => { b with
      tested := tset (fun _ => false) b.tested r ok
      skipped := tset (fun _ => false) b.skipped r (!ok) }
    if passed then bltNext (mark s true)
    else if 8 ≤ bltAborts s then
      bltNext (raiseIrq (bumpReg (mark s false) Reg.BLT_CNT_SKIP 1) 0x48 0 3)
    else s
  else s

/-- The spare's own test ends (R416, R418). -/
def spareTestRun (s : State) (bad : Bool) : State :=
  if bltRuns s && s.blt.spareNext then
    if bad then bltFail (orReg s Reg.BLT_REPAIR 0x10000#32)
    else modBlt s fun b => { b with spareNext := false }
  else s

/-- `BLT.PAGE_STAT[7:0]`. -/
def bltState (s : State) : Nat :=
  match s.blt.run with
  | .repaired => 0x15
  | .copying => 0x12
  | .testing => 0x13
  | .restoring => 0x14
  | .waiting => if enOf s 0x48 0 && !holdOf s 0x48 0 then 0x11 else 0x10

/-! ## CRC scan engines (R411 to R413) -/

def setCrc (s : State) (i : Nat) (x : Crc) : State := { s with crc := tset (fun _ => {}) s.crc i x }

def crcStartAt (s : State) (i : Nat) : Nat :=
  getRegN s (Reg.at Reg.CRC_START_LO i) + getRegN s (Reg.at Reg.CRC_START_HI i) % 4096 * 2 ^ 32

def crcLen (s : State) (i : Nat) : Nat := getRegN s (Reg.at Reg.CRC_LENGTH i)

/-- The end of the tier in which a start address lies, for an instance that reaches it. -/
def crcTierEnd (i a : Nat) : Option Nat :=
  if i == 4 then (if a < 0x1000000 then some 0x1000000 else none)
  else
    match tierOf a with
    | .staging d => if d == i then some (stagingBase + (d + 1) * 0x10000000) else none
    | .stack k => if k / 2 == i then some ((k + 1) * stackSize) else none
    | _ => none

/-- The end of the tier of any address, for the crossing check. -/
def anyTierEnd (i a : Nat) : Option Nat :=
  if i == 4 then (if a < 0x1000000 then some 0x1000000 else none)
  else
    match tierOf a with
    | .staging d => some (stagingBase + (d + 1) * 0x10000000)
    | .stack k => some ((k + 1) * stackSize)
    | .ddr => some (2 * ddrBase)
    | _ => none

/-- A pass starts; a die in IDLE or OFF is woken for it (R413). -/
def crcBegin (s : State) (i : Nat) (learn : Bool) : State :=
  let s := setCrc s i { crcOf s i with run := .running, learn := learn }
  if i < 4 && !isOn s i then wakeDie s i else s

/-- `CTL.GO` and `CTL.LEARN`: status, detail, state (R411). [DEDUCED: log 105] -/
def crcStartCmd (s : State) (i : Nat) (learn : Bool) : Nat × Nat × State :=
  let a := crcStartAt s i
  let n := crcLen s i
  if a % 64 != 0 || n % 64 != 0 || n == 0 || (match anyTierEnd i a with | some e => e < a + n | none => false) then
    (stRANGE, 0x02, s)
  else if (crcTierEnd i a).isNone then (stRANGE, 0x04, s)
  else if (crcOf s i).run == .running then (stSTATE, 0, s)
  else (stOK, 0, crcBegin s i learn)

/-- `RESULT`. -/
def crcResult (s : State) (i st det flags : Nat) : State :=
  setRegN s (Reg.at Reg.CRC_RESULT i) (st + det * 2 ^ 16 + flags * 2 ^ 24)

/-- `CTL.STOP` (R411). [DEDUCED: log 105] -/
def crcStopCmd (s : State) (i : Nat) : Nat × State :=
  let x := crcOf s i
  if x.run == .idle then (stSTATE, s)
  else
    let s := crcResult (setCrc s i { x with run := .idle, learn := false }) i stABORTED 0 0
    (stOK, if x.run == .running then raiseIrqArgs s 0x08 i 0 stABORTED [] else s)

/-- The judgement of a data CRC (R412): status, detail, flags DATAF, REFF, MATCH_A, MATCH_B in bits 0 to 3. -/
def crcJudge (c a b : Word) (va vb : Bool) : Nat × Nat × Nat :=
  if va && vb && a == b then (if c == a then (stOK, 0, 12) else (stCHECK, 0x10, 1))
  else if !va && !vb then (stREFFAULT, 0x12, 2)
  else
    let ma := va && c == a
    let mb := vb && c == b
    if ma || mb then (stREFFAULT, 0x11, 2 + 4 * b2n ma + 8 * b2n mb) else (stCHECK, 0x10, 3)

/-- An upset of an expected register: its parity is bad, and its value is no longer known. [DEDUCED: log 105] -/
def crcUpset (s : State) (i : Nat) (isB : Bool) : State :=
  let x := crcOf s i
  let (v, s) := freeNat 32 s
  setRegN (setCrc s i (if isB then { x with parB := false } else { x with parA := false }))
    (Reg.at (if isB then Reg.CRC_EXP_B else Reg.CRC_EXP_A) i) v

/-- The bytes of a pass, or the status that ends it early. -/
def crcData (s : State) (i : Nat) (ecc : List EccHit) : Nat × List Byte × State :=
  let a := crcStartAt s i
  let n := crcLen s i
  if i == 4 then
    let s := ecc.foldl (fun s h => if a ≤ h.addr && h.addr < a + n then (if h.bad then scratchBad s h.addr else scratchFixed s) else s) s
    let bad := ecc.any fun h => h.bad && a ≤ h.addr && h.addr < a + n
    let (bs, s) := scratchRead s a n
    if bad then (stCHECK, [], s) else (stOK, bs, s)
  else readMem s ecc a n

/-- The record and the interrupt bits of a pass that has ended (R412). [DEDUCED: log 105] -/
def crcNote (s : State) (i st flags : Nat) : State :=
  let args := [getRegN s (Reg.at Reg.CRC_LAST_CRC i), getRegN s (Reg.at Reg.CRC_EXP_A i), getRegN s (Reg.at Reg.CRC_EXP_B i)]
  let args := if st == stOK then [] else args
  let s := raiseIrqArgs s 0x08 i 0 st args
  let s := if flags.testBit 0 then raiseIrqArgs (bumpReg s (Reg.at Reg.CRC_CNT_CHECK i) 1) 0x08 i 1 st args else s
  if flags.testBit 1 then raiseIrqArgs (bumpReg s (Reg.at Reg.CRC_CNT_REFFAULT i) 1) 0x08 i 2 st args else s

/-- A pass ends (R412, R413). -/
def crcEndRun (s : State) (i : Nat) (upsetA upsetB : Bool) (ecc : List EccHit) : State :=
  let x := crcOf s i
  if x.run == .running && (if i < 4 then isOn s i else isOn s dieSTE) then
    let s := if upsetA then crcUpset s i false else s
    let s := if upsetB then crcUpset s i true else s
    let (st, bs, s) := crcData s i ecc
    let next : CrcRun := if x.learn || fld (getReg s (Reg.at Reg.CRC_PERIOD_MS i)) 0 16 == 0 then .idle else .waiting
    let s := wrapReg (setCrc s i { crcOf s i with run := next, learn := false }) (Reg.at Reg.CRC_PASSES i) 1
    if st != stOK then crcNote (crcResult s i st (if st == stCHECK then 0x13 else 0) 0) i st 0
    else
      let c := crc32c bs
      let s := setReg s (Reg.at Reg.CRC_LAST_CRC i) c
      if x.learn then
        let s := setReg (setReg s (Reg.at Reg.CRC_EXP_A i) c) (Reg.at Reg.CRC_EXP_B i) c
        crcNote (crcResult (setCrc s i { crcOf s i with parA := true, parB := true }) i stOK 0 0) i stOK 0
      else
        let y := crcOf s i
        let (st, det, fl) := crcJudge c (getReg s (Reg.at Reg.CRC_EXP_A i)) (getReg s (Reg.at Reg.CRC_EXP_B i)) y.parA y.parB
        crcNote (crcResult s i st det fl) i st fl
  else s

/-- The next pass of a series (R413). -/
def crcPeriodRun (s : State) (i : Nat) : State :=
  if (crcOf s i).run == .waiting then crcBegin s i false else s

/-- `CRC.PAGE_STAT[7:0]` while the die is ON. -/
def crcState (s : State) (i : Nat) : Nat :=
  match (crcOf s i).run with | .idle => 0x10 | .running => 0x11 | .waiting => 0x12

end Sys2Proof.Machine
end

