-- ==== Sys2Proof/Machine/BootOps.lean ====
section
/-!
DEFINITION. Boot, identity and protection (R90 to R111): flash headers, the checks of a boot slot, the choice of
slot and site record, the set-up that stage 1 loads and seals, and restarts of the management domain.
-/

namespace Sys2Proof.Machine

def modBoot (s : State) (f : Boot → Boot) : State := { s with boot := f s.boot }

/-! ## The flash header (R92, R96) -/

def headerBytes (s : State) (copy : Nat) : List Byte := flashRead s (65536 * copy) 16

def headerGood (b : List Byte) : Bool :=
  slice b 0 4 == [0x4B#8, 0x46#8, 0x48#8, 0x31#8] && leAt b 12 4 == (crc32c (b.take 9)).toNat

/-- The header in force: the valid copy with the highest SEQ, with its number. -/
def headerInForce (s : State) : Option (Nat × List Byte) :=
  let a := headerBytes s 0
  let b := headerBytes s 1
  match headerGood a, headerGood b with
  | true, true => if leAt a 4 4 < leAt b 4 4 then some (1, b) else some (0, a)
  | true, false => some (0, a)
  | false, true => some (1, b)
  | false, false => none

def hdrPref (b : List Byte) : Nat := leAt b 8 1 % 2
/-- [DEDUCED: log 108] -/
def hdrTrial (b : List Byte) : Nat := leAt b 9 1

abbrev trialNone : Nat := 0xFF
abbrev trialArmed : Nat := 0x0F

/-- Firmware writes a header into the other copy with SEQ + 1. -/
def writeHeader (s : State) (pref trial : Nat) : State :=
  let (copy, seq) := match headerInForce s with
    | some (k, b) => (1 - k, leAt b 4 4 + 1)
    | none => (0, 1)
  let h := [0x4B#8, 0x46#8, 0x48#8, 0x31#8] ++ leBytes 4 seq ++ leBytes 1 pref
  flashWrite (flashErase s (65536 * copy) 65536) (65536 * copy) (h ++ leBytes 1 trial ++ zeros 2 ++ leBytes 4 (crc32c h).toNat)

/-! ## Boot images (R93, R94) -/

def slotBase (slot : Nat) : Nat := if slot == 0 then 0x100000 else 0x1900000

abbrev slotSize : Nat := 0x1800000

def manifest (s : State) (slot : Nat) : List Byte := flashRead s (slotBase slot) 640

/-- A component entry: TYPE, OFFSET, LENGTH, digest. -/
def compEntry (m : List Byte) (k : Nat) : Nat × Nat × Nat × Nat :=
  (leAt m (128 + 64 * k) 4, leAt m (132 + 64 * k) 4, leAt m (136 + 64 * k) 4, beAt m (144 + 64 * k) 48)

def compLimit (ty : Nat) : Nat := match ty with | 1 => 0x80000 | 2 => 0x780000 | 3 => 0x40000 | _ => 0

/-- The components of a manifest. -/
def comps (m : List Byte) : List (Nat × Nat × Nat × Nat) := (List.range (min (leAt m 8 4) 8)).map (compEntry m)

def manifestSvn (m : List Byte) : Nat := leAt m 6 1

/-- Check 0x10. -/
def manifestShape (m : List Byte) : Bool :=
  let l : List (Nat × Nat × Nat × Nat) := comps m
  let tys : List Nat := l.map fun (c : Nat × Nat × Nat × Nat) => c.1
  slice m 0 4 == [0x4B#8, 0x4D#8, 0x46#8, 0x31#8] && leAt m 4 2 == 1 && manifestSvn m ≤ 64 &&
    (leAt m 8 4 == 2 || leAt m 8 4 == 3) && decide tys.Nodup && tys.contains 1 && tys.contains 2 &&
    l.all fun c => c.2.2.1 ≤ compLimit c.1 && c.2.1 + c.2.2.1 ≤ slotSize && 1 ≤ c.1 && c.1 ≤ 3

/-- The SHA-384 of a component as it lies in flash. -/
def compDigest (s : State) (slot : Nat) (c : Nat × Nat × Nat × Nat) : BitVec 384 :=
  Config.sha384 (flashRead s (slotBase slot + c.2.1) c.2.2.1)

/-- The checks of R94 in order: status and detail. -/
def slotCheck (s : State) (slot : Nat) : Nat × Nat :=
  let m := manifest s slot
  let key := slice m 16 97
  if !manifestShape m then (stRANGE, 0x10)
  else if Config.sha384 key != Config.kelienKeyHash then (stAUTH, 0x11)
  else if !Config.ecdsaVerify key m (flashRead s (slotBase slot + 640) 96) then (stAUTH, 0x12)
  else if manifestSvn m < s.otp.floor then (stAUTH, 0x13)
  else if (comps m).all fun c => (compDigest s slot c).toNat == c.2.2.2 then (stOK, 0)
  else (stCHECK, 0x14)

/-- `SLOT_RES` and `SLOT_DET`. -/
def slotResult (s : State) (slot st det : Nat) : State :=
  setRegFld (setRegFld s Reg.BOOT_SLOT_RES (16 * slot) 16 st) Reg.BOOT_SLOT_DET (8 * slot) 8 det

/-! ## Site records and the set-up (R98 to R104) -/

def siteBase (slot : Nat) : Nat := 0x20000 + 0x10000 * slot

def siteBytes (s : State) (slot : Nat) : List Byte := flashRead s (siteBase slot) 1520

/-- An owner key slot's hash, none where it is not blown or revoked (R98). -/
def ownerHash (s : State) (o : Nat) : Option (BitVec 384) :=
  if o == 0 then (if s.otp.owner0Revoked then none else some Config.owner0Hash)
  else if o == 1 then s.otp.owner1 else none

/-- The checks of R100. -/
def siteGood (s : State) (b : List Byte) : Bool :=
  slice b 0 4 == [0x4B#8, 0x53#8, 0x52#8, 0x31#8] &&
    ownerHash s (leAt b 8 1) == some (Config.sha384 (slice b 16 97)) &&
    Config.ecdsaVerify (slice b 16 97) (b.take 1424) (slice b 1424 96)

/-- The record that stage 1 uses: the highest SEQ that passes every check. -/
def siteChoice (s : State) : Option (Nat × List Byte) :=
  let a := siteBytes s 0
  let b := siteBytes s 1
  match siteGood s a, siteGood s b with
  | true, true => if leAt a 4 4 < leAt b 4 4 then some (1, b) else some (0, a)
  | true, false => some (0, a)
  | false, true => some (1, b)
  | false, false => none

/-- The rights that stage 1 loads for a page type (R101): classes 0 to 2 from the record, TELEMETRY without
writes, firmware everywhere, flow programs on SCH. -/
def rightsFor (site : Nat) (ty : Nat) : BitVec 10 :=
  BitVec.ofNat 10 (site % 32 + 0xC0 + (if ty == 0x10 then 0x300 else 0))

/-- A host key entry of a site record. -/
def siteKey (b : List Byte) (k : Nat) : HostKey :=
  let e := slice b (640 + 98 * k) 98
  if leAt e 0 1 ≤ 2 then { maxClass := BitVec.ofNat 2 (leAt e 0 1), valid := true, key := slice e 1 97 } else {}

/-- The set-up of a site record, or of none. -/
def siteSetup (b : Option (List Byte)) : Setup :=
  let rights := (List.range 256).foldl (fun t ty =>
    tset (fun _ => 0#10) t ty (rightsFor (match b with | some r => leAt r (128 + 2 * ty) 2 % 64 | none => 0) ty)) []
  let keys := match b with
    | some r => (List.range 8).foldl (fun t k => tset (fun _ => {}) t k (siteKey r k)) []
    | none => []
  { rights := rights, keys := keys }

def setupKey (u : Setup) (k : Nat) : HostKey := tget (fun _ => {}) u.keys k

/-- The bytes of a host key entry in the layout of R99. -/
def keyEntry (k : HostKey) : List Byte :=
  if k.valid then leBytes 1 k.maxClass.toNat ++ k.key.take 97 ++ zeros (97 - k.key.length) else 0xFF#8 :: zeros 97

/-- The set-up hash (R104). -/
def setupHash (u : Setup) : BitVec 384 :=
  Config.sha384 (((List.range 256).flatMap fun ty => leBytes 2 (tget (fun _ => 0#10) u.rights ty).toNat) ++
    (List.range 8).flatMap fun k => keyEntry (setupKey u k))

/-- `PROT.PAGE_STAT[7:0]`. -/
def protState (s : State) : Nat := if s.boot.staged then 0x12 else if s.boot.sealOn then 0x11 else 0x10

/-- `BOOT.PAGE_STAT[7:0]`. -/
def bootState (s : State) : Nat :=
  match s.boot.phase with | .off => 0x10 | .rom => 0x10 | .stage1 => 0x11 | .firmware => 0x12 | .recovery => 0x13

/-! ## Boot (R94 to R100) -/

/-- Stage 1 runs: the digests, the site record, and the set that it loads. [DEDUCED: log 109] -/
def stage1 (s : State) (slot : Nat) (second fallback trial : Bool) : State :=
  let m := manifest s slot
  let meas := (comps m).foldl (fun t c => tset (fun _ => 0#384) t (c.1 - 1) (compDigest s slot c)) []
  let site := siteChoice s
  let s := setRegN s Reg.BOOT_BOOT_STAT
    (slot + 2 * b2n fallback + 4 * b2n trial + (getRegN s Reg.BOOT_BOOT_STAT / 8 % 8) * 8)
  let s := setRegFld s Reg.BOOT_SVN 0 8 (manifestSvn m)
  let rec_ : Option SiteRec := site.map fun x =>
    { slot := x.1, seq := toWord (leAt x.2 4 4), owner := leAt x.2 8 1 }
  let set_ := siteSetup (site.map Prod.snd)
  let s := modBoot s fun b => { b with
    phase := .stage1
    slot := slot
    staged := b.sealOn
    loading := set_
    keyPtr := 0
    siteNew := rec_
    measNew := meas }
  let s := if second then raiseIrq s 0x04 0 0 else s
  if site.isNone then raiseIrq s 0x04 0 4 else s

/-- The ROM's choice and check of a slot (R96, R97). -/
def romBoot (s : State) : State :=
  let s := giveBase s
  let h := headerInForce s
  let pref := match h with | some (_, b) => hdrPref b | none => 0
  let trial := match h with | some (_, b) => hdrTrial b | none => trialNone
  let armed := trial == trialArmed
  let taken := trial != trialNone && !armed
  let first := if taken then 1 - pref else pref
  let s := match h with
    | some (k, _) => if armed then flashWrite s (65536 * k + 9) [0x00#8] else s
    | none => s
  let (st, det) := slotCheck s first
  let s := slotResult s first st det
  if st == stOK then stage1 s first false taken (armed && first == pref)
  else
    let other := 1 - first
    let (st, det) := slotCheck s other
    let s := slotResult s other st det
    if st == stOK then stage1 s other true true (taken && other == pref)
    else raiseIrq (modBoot s fun b => { b with phase := .recovery }) 0x04 0 3

/-- The boot ROM runs once its die is ON. [DEDUCED: log 108, 109] -/
def romRun (s : State) : State :=
  if s.boot.phase == .rom && isOn s dieSTE then romBoot s else s

/-- In RECOVERY both slots are tried again (R97). -/
def recoveryRun (s : State) (rewritten : List (Nat × Byte)) : State :=
  if s.boot.phase == .recovery then
    romBoot (rewritten.foldl (fun s x => if x.1 < 0x4000000 then flashWrite s x.1 [x.2] else s) s)
  else s

/-! ## The set being loaded (R103) -/

/-- PROT accepts set-up writes. -/
def protLoading (s : State) : Bool := !s.boot.sealOn || s.boot.staged

/-- `PROT.RIGHTS`: status and state. -/
def rightsCmd (s : State) (r : BitVec 10) : Nat × State :=
  if !protLoading s then (stSEALED, s)
  else
    let ty := fld (getReg s Reg.PROT_RIGHTS_SEL) 0 8
    (stOK, modBoot s fun b => { b with loading := { b.loading with rights := tset (fun _ => 0#10) b.loading.rights ty r } })

/-- `PROT.KEY_SEL`: a write resets the `KEY_LOAD` pointer. -/
def keySelCmd (s : State) (slot : Nat) : State :=
  modBoot (setRegN s Reg.PROT_KEY_SEL slot) fun b => { b with keyPtr := 0 }

def modKey (s : State) (f : HostKey → HostKey) : State :=
  let k := fld (getReg s Reg.PROT_KEY_SEL) 0 3
  modBoot s fun b => { b with loading := { b.loading with keys := tmod (fun _ => {}) b.loading.keys k f } }

/-- `PROT.KEY_INFO`. [DEDUCED: log 121] -/
def keyInfoCmd (s : State) (v : Word) : Nat × State :=
  if !protLoading s then (stSEALED, s)
  else (stOK, modKey s fun k => { k with maxClass := BitVec.ofNat 2 (fld v 0 2), valid := bitOf v 2 })

/-- `PROT.KEY_LOAD`: 25 words, most significant byte first; a 26th is RANGE. -/
def keyLoadCmd (s : State) (w : Word) : Nat × State :=
  if !protLoading s then (stSEALED, s)
  else if 25 ≤ s.boot.keyPtr then (stRANGE, s)
  else
    let p := s.boot.keyPtr
    let s := modKey s fun k =>
      let old := k.key.take 97 ++ zeros (97 - k.key.length)
      { k with key := (old.take (4 * p) ++ beBytes 4 w.toNat ++ old.drop (4 * p + 4)).take 97 }
    (stOK, modBoot s fun b => { b with keyPtr := p + 1 })

/-- A session closes: its keys, notifications and mailbox hold go (R79, R83). -/
def closeSession (s : State) (i : Nat) : State :=
  let x := sessOf s i
  let s := if x.isOpen && fld (getReg s Reg.HST_MBX_LOCK) 0 16 == x.sid.toNat then setRegFld s Reg.HST_MBX_LOCK 0 16 0 else s
  setSess s i {}

/-- Firmware acts on the header once its slot has sealed (R96). -/
def headerSettle (s : State) : State :=
  match headerInForce s with
  | some (_, b) => if hdrPref b != s.boot.slot then writeHeader s s.boot.slot trialNone else s
  | none => writeHeader s s.boot.slot trialNone

/-- Stage 1 seals: the new set replaces the old in one step (R98, R107, R111), and MGMT starts. [DEDUCED: log 109] -/
def sealCmd (s : State) : Nat × State :=
  if !protLoading s then (stSEALED, s)
  else if s.boot.phase != .stage1 then (stSTATE, s)
  else
    let old := s.boot.inForce
    let new := s.boot.loading
    let s := (List.range 8).foldl (fun s i =>
      let x := sessOf s i
      if x.isOpen && setupKey old x.keySlot != setupKey new x.keySlot then closeSession s i else s) s
    let site := s.boot.siteNew
    let s := match site with
      | some r => if r.owner == 1 then { s with otp := { s.otp with owner0Revoked := true } } else s
      | none => s
    let s := setReg s Reg.BOOT_SITE_SEQ (match site with | some r => r.seq | none => 0#32)
    let s := setRegFld s Reg.BOOT_BOOT_STAT 3 3
      (match site with | some r => b2n (r.owner == 1) + 2 + 4 * (r.slot % 2) | none => 0)
    let s := modBoot s fun b => { b with
      phase := .firmware
      sealOn := true
      staged := false
      inForce := new
      loading := {}
      siteNew := none
      meas := b.measNew }
    let s := { s with hst := { s.hst with ready := true } }
    (stOK, headerSettle s)

/-! ## Restarts (R109 to R111) -/

def restartAsk (s : State) : State := modBoot s fun b => { b with restart := true }

/-- `BOOT.RESTART_CMD`. -/
def restartCmdRun (s : State) : Nat × State :=
  if s.boot.phase == .firmware then (stOK, restartAsk s) else (stSTATE, s)

/-- The watchdog period runs out in FIRMWARE. -/
def watchdogRun (s : State) : State :=
  if s.boot.phase == .firmware && !s.boot.restart then raiseIrq (restartAsk s) 0x04 0 2 else s

/-- A restart begins when no flash operation is in progress. -/
def restartBegin (s : State) : State :=
  if s.boot.restart && s.boot.phase == .firmware && !s.boot.flashBusy then
    let s := modBoot s fun b => { b with phase := .rom, restart := false }
    let n := getRegN s Reg.BOOT_RESTARTS
    raiseIrq (setRegN s Reg.BOOT_RESTARTS (min (n + 1) 0xFFFF)) 0x04 0 1
  else s

end Sys2Proof.Machine
end

