-- ==== Sys2Proof/Machine/FetchOps.lean ====
section
/-!
DEFINITION. The fetch of a descriptor with its checks (R152, R153, R174, R230, R243, R431, R432), and its
release (R160, R161, R164, R165, R169, R202, R232).
-/

namespace Sys2Proof.Machine

/-! ## Addresses and reach (R134, R432) -/

/-- What an address field may name: staging of the die, staging or a stack of the die, what an optimizer engine
reaches, what a copy engine reaches. -/
inductive Reach where
  | staging | local_ | optim | copy
  deriving DecidableEq, Repr

/-- An address range of a descriptor; `board` says that it holds a board address. -/
structure Span where
  addr : Nat
  len : Nat
  reach : Reach
  board : Bool := false
  deriving DecidableEq, Repr

/-- A local range lies in the local space and in reach of an engine of Flow die `die`. -/
def localReach (s : State) (die : Nat) (r : Reach) (a n : Nat) : Bool :=
  let z := a + n - 1
  addrExists s a && addrExists s (max a z) &&
  match tierOf a, tierOf (max a z) with
  | .staging x, .staging y => r == .copy || (x == die && y == die)
  | .stack x, .stack y =>
    match r with
    | .staging => false
    | .copy => true
    | _ => x / 2 == die && y / 2 == die
  | .ddr, .ddr => r == .optim || r == .copy
  | _, _ => false

/-- R152 step 4 for one range. -/
def spanReach (s : State) (die : Nat) (x : Span) : Bool :=
  if x.board then
    x.addr < 2 ^ 48 && posOf x.addr < boardSize s &&
      (posOf x.addr != ownPos s || localReach s die x.reach (locOf x.addr) x.len)
  else localReach s die x.reach x.addr x.len

/-- R152 step 5 for one range. -/
def spanAdmitted (s : State) (dom : Nat) (x : Span) : Bool :=
  if x.board then posOf x.addr != ownPos s || inRegion s dom (locOf x.addr) x.len
  else inRegion s dom x.addr x.len

/-- A local range that the fetch may read: within reach and admitted to the descriptor's domain. [DEDUCED: log 98] -/
def fetchable (s : State) (q : Nat) (d : Desc) (r : Reach) (a n : Nat) : Bool :=
  localReach s (q / 16) r a n && inRegion s (dDomain d) a n

/-! ## Step 1: header and body fields -/

/-- Body bytes that a type does not list are 0. -/
def zeroAt (d : Desc) (l : List (Nat × Nat)) : Bool := l.all fun x => leAt d.raw x.1 x.2 == 0

/-- The header (R148, R149) and the increment limit of a remote signal (R157). [DEDUCED: log 98] -/
def headerOk (d : Desc) : Bool :=
  1 ≤ dType d && dType d ≤ tyACCORD && dFlags d < 128 && leAt d.raw 2 2 < 4096 && leAt d.raw 4 2 < 4096 &&
    zeroAt d [(20, 4)] && (!dAlt d || dWaits d) && (!(dSigs d && dRemote d) || dInc d ≤ 0xFFFFF)

/-- A FORMAT code of R151. [DEDUCED: log 98] -/
def formatOk (c : Nat) : Bool := c ≤ 9 || c == 0x10

/-- A body token field: bits 14:12 are 0. [DEDUCED: log 101] -/
def bodyTokOk (t : Nat) : Bool := t / 4096 % 8 == 0

def copyOk (d : Desc) : Bool :=
  zeroAt d [(46, 2), (56, 8)] && copySrc d < 2 ^ 48 && copyDst d < 2 ^ 48 && 1 ≤ copyRows d && 64 ≤ copyLen d &&
    copyLen d * copyRows d ≤ 0xFFFFFFC0 &&
    [copySrc d, copyDst d, copyLen d, copySrcStride d, copyDstStride d].all fun v => v % 64 == 0

def recvPort (d : Desc) : Nat := leAt d.raw 24 1
def recvStream (d : Desc) : Nat := leAt d.raw 26 3
def recvFormat (d : Desc) : Nat := leAt d.raw 29 1
def recvShift (d : Desc) : Nat := leAt d.raw 30 1
/-- [DEDUCED: log 100] -/
def recvDst (d : Desc) : Nat := leAt d.raw 32 8
def recvBase (d : Desc) : Nat := leAt d.raw 40 8
def recvLen (d : Desc) : Nat := leAt d.raw 48 4
def recvTok (d : Desc) : Nat := leAt d.raw 52 2

/-- [DEDUCED: log 100] -/
def recvOk (d : Desc) : Bool :=
  zeroAt d [(25, 1), (31, 1), (54, 8), (62, 2)] && (recvPort d < 32 || recvPort d == 0xFF) && formatOk (recvFormat d) &&
    12 ≤ recvShift d && recvShift d ≤ 24 && recvDst d < 2 ^ 48 && recvBase d < 2 ^ 48 && 1 ≤ recvLen d &&
    bodyTokOk (recvTok d)

/-- REDUCE: the pairs of R193 and the alignments of R192. -/
def reduceOk (d : Desc) : Bool :=
  zeroAt d [(50, 8), (58, 6)] && redSrc d < 2 ^ 48 && redAcc d < 2 ^ 48 && 1 ≤ redCount d && redCount d ≤ 0x4000000 &&
    formatOk (redFormat d) && redOp d ≤ (if redInt d then 4 else 2) && 1 ≤ redExpect d && bodyTokOk (redDone d) &&
    redSrc d % 64 == 0 && redAcc d % 64 == 0 && (!isMx (redFormat d) || redCount d % 32 == 0)

/-- EMIT: the modes of R206 and the alignments of R192. -/
def emitOk (d : Desc) : Bool :=
  let sr := modeBit d 0
  let ef := modeBit d 1
  let keep := modeBit d 2
  let drop := modeBit d 3
  let sat := modeBit d 4
  let r16 := modeBit d 5
  zeroAt d [(46, 2), (60, 4)] && emitAcc d < 2 ^ 48 && emitDst d < 2 ^ 48 && emitResid d < 2 ^ 48 &&
    1 ≤ emitCount d && emitCount d ≤ 0x4000000 && emitMode d < 64 && formatOk (emitFormat d) &&
    ef == (emitResid d != 0) && (!r16 || ef) && !(keep && drop) &&
    !(drop && (sr || ef || sat || r16 || emitDst d != 0)) &&
    !((emitFormat d == 0 || emitFormat d == 0x10) && (sr || ef || sat || r16)) &&
    emitAcc d % 64 == 0 && emitDst d % 64 == 0 && emitResid d % 64 == 0 &&
    (!isMx (emitFormat d) || emitCount d % 32 == 0)

def atmList (d : Desc) : Nat := leAt d.raw 40 8

def atomizeOk (d : Desc) : Bool :=
  zeroAt d [(38, 2), (48, 8), (56, 8)] && atmSrc d < 2 ^ 48 && atmList d < 2 ^ 48 && atmLength d % 64 == 0 &&
    1 ≤ atmDests d && atmDests d ≤ 64

/-- An ATOMIZE destination entry (R173, R174). [DEDUCED: log 93] -/
def entryOk (e : List Byte) : Bool :=
  if leAt e 0 1 == 1 then
    leAt e 1 1 ≤ 1 && leAt e 2 2 < 4096 && leAt e 4 4 ≤ 0xFFFFF && leAt e 8 8 < 2 ^ 48
  else
    leAt e 0 1 == 2 && leAt e 1 1 < 32 && formatOk (leAt e 5 1) && leAt e 6 2 == 0 && leAt e 14 2 == 0

def branchOk (d : Desc) : Bool :=
  zeroAt d [(27, 8), (35, 8), (43, 8), (51, 8), (59, 5)] && brPort d < 32 && brBranch d < 4 && 1 ≤ brDir d && brDir d ≤ 3

def tokenOk (d : Desc) : Bool :=
  let remote := (tokPos d).testBit 7
  zeroAt d [(25, 1), (31, 1), (36, 8), (44, 8), (52, 8), (60, 4)] && 1 ≤ tokOp d && tokOp d ≤ 3 &&
    1 ≤ tokCount d && tokCount d ≤ 64 && tokPos d / 16 % 8 == 0 &&
    tokTarget d + tokCount d ≤ (if tokOp d == 3 then 64 else 4096) &&
    (!remote || tokValue d ≤ (if tokOp d == 3 then 0xFFFFFF else 0xFFFFF))

/-- Step 1 for the body's own fields. -/
def bodyOk (d : Desc) : Bool :=
  match dType d with
  | 0x01 => copyOk d
  | 0x02 => recvOk d
  | 0x03 => reduceOk d
  | 0x04 => emitOk d
  | 0x05 => atomizeOk d
  | 0x06 => zeroAt d [(60, 4)]
  | 0x07 => zeroAt d [(40, 8), (48, 8), (56, 8)]
  | 0x08 => branchOk d
  | 0x09 => tokenOk d
  | 0x0A => leAt d.raw 24 1 ≤ 2 && zeroAt d [(25, 8), (33, 8), (41, 8), (49, 8), (57, 7)]
  | _ => leAt d.raw 28 1 ≤ 1 && zeroAt d [(29, 8), (37, 8), (45, 8), (53, 8), (61, 3)]

/-! ## Step 1 of OPTIM (R220, R226, R227, R230) -/

/-- The range fields, detail 0x14. [DEDUCED: log 99] -/
def optRangeOk (d : Desc) : Bool :=
  let sh := d.shard
  let row := rowLen sh
  optShard d % 64 == 0 && optGrad d % 64 == 0 && optOut d % 64 == 0 && 1 ≤ optCount d && optFirst d % 64 == 0 &&
    (sh.isEmpty || (optFirst d + optCount d ≤ shElems sh &&
      (optCount d % 64 == 0 || optFirst d + optCount d == shElems sh) &&
      (row == 0 || (optFirst d % row == 0 && optCount d % row == 0)) &&
      !(shPasses sh == 2 && optOut d == 0) && !(shPasses sh == 3 && shStat sh == 0)))

/-- The header of the shard descriptor, detail 0x10. -/
def shardOk (b : List Byte) : Bool :=
  leAt b 0 4 == 0x3144534B && leAt b 4 2 < 4096 &&
    ((shResidency b == 0 && shStack b < 8) || (shResidency b == 1 && shStack b == 0xFF)) &&
    1 ≤ shElems b && shElems b ≤ 2 ^ 37 && shProg b < 2 ^ 48 && shProg b % 64 == 0 &&
    3 ≤ shProgLen b && shProgLen b ≤ 256 && shPasses b ≤ 3 && shMirror b ≤ 2 && leAt b 30 2 == 0 &&
    (shMirror b != 0 || (shRegionBase b == 0 && shMirrorBase b == 0)) && shRegionBase b < 2 ^ 48 &&
    shMirrorBase b < 2 ^ 48 && shStat b < 2 ^ 48 && shStat b % 64 == 0 && (shPasses b == 3 || shStat b == 0) &&
    leAt b 56 8 == 0 && (shRowTiles b == 0 || shElems b % rowLen b == 0)

/-- Stream entries, detail 0x12: `k` is 0 to 7 for inputs and 8 to 15 for outputs. -/
def streamOk (b : List Byte) (k : Nat) : Bool :=
  let e := shEntry b k
  let f := leAt e 2 1
  let kind := enKind e
  if kind == 0 then leAt e 0 8 == 0 && leAt e 8 8 == 0
  else if k < 8 then
    kind ≤ 4 && enFormat e ≤ 4 && (kind != skGRAD || enFormat e == 0) && (f == 0 || (f == 4 && kind == skGRAD)) &&
      enAcc e == 0 && enSeed e == 0 &&
      (if kind == skGRAD then enBase e == 0 else enBase e < 2 ^ 48 && enBase e % 64 == 0)
  else
    kind ≤ 4 && enFormat e ≤ 4 && (kind != skCOL || enFormat e == 0) && f < 32 && !enFlag e 2 && enRole e ≤ 2 &&
      (kind == skPLANE || enRole e == 0) && (if kind == skROW then enAcc e ≤ 3 else enAcc e == 0) &&
      (enFlag e 1 || enSeed e == 0) &&
      (if kind == skOUT then enBase e == 0 else enBase e < 2 ^ 48 && enBase e % 64 == 0)

def streamsOk (b : List Byte) : Bool := (List.range 16).all (streamOk b)

/-- The words of a fetched program. -/
def progWords (d : Desc) : List Word := (List.range (shProgLen d.shard)).map (progWord d)

/-- Where an opcode may stand. -/
def inPrologue (o : Nat) : Bool := o == 0 || (0x20 ≤ o && o ≤ 0x2C)
def inBody (o : Nat) : Bool := o ≤ 0x0E || (0x10 ≤ o && o ≤ 0x17) || (0x30 ≤ o && o ≤ 0x33)

/-- The fields of one instruction: the 0 fields of R216 and R217, SD at most 55, SK of VAXPB at most 62. -/
def instrOk (w : Word) : Bool :=
  let o := opOf w
  if o == 0 || o == 0x38 || o == 0x39 || o == 0x3F then fld w 0 26 == 0
  else if o ≤ 0x07 then fld w 0 11 == 0
  else if o ≤ 0x0E then fld w 0 10 == 0 && (o != 0x0B || fld w 10 6 ≤ 62) && (o != 0x0E || fld w 16 5 == 0)
  else if 0x10 ≤ o && o ≤ 0x17 then fld w 0 16 == 0
  else if 0x20 ≤ o && o ≤ 0x2B then fld w 0 8 == 0 && fld w 20 6 ≤ 55 && (o < 0x26 || fld w 8 6 == 0)
  else if o == 0x2C then fld w 16 4 == 0 && fld w 20 6 ≤ 55
  else if o == 0x30 || o == 0x31 then fld w 19 2 == 0 && fld w 0 16 == 0
  else if o == 0x32 || o == 0x33 then fld w 23 3 == 0 && fld w 0 16 == 0
  else false

/-- Split a program at a marker; none where the marker does not stand. -/
def splitAt (m : Nat) (l : List Word) : Option (List Word × List Word) :=
  match l.findIdx? fun w => opOf w == m with
  | some i => some (l.take i, l.drop (i + 1))
  | none => none

/-- Prologue, TILE, body. -/
def partOk (l : List Word) : Option (List Word) :=
  match splitAt 0x39 l with
  | some (p, b) =>
    if p.all (fun w => inPrologue (opOf w)) && b.all (fun w => inBody (opOf w)) && !b.isEmpty then some b else none
  | none => none

/-- The bodies of a program, first and second, by PASSES. -/
def bodiesOf (d : Desc) : Option (List Word × List Word) :=
  let l := progWords d
  if opOf (l.getLastD 0#32) != 0x3F then none
  else
    let l := l.dropLast
    if shPasses d.shard == 0 then (partOk l).map fun b => (b, [])
    else
      match splitAt 0x38 l with
      | some (p1, p2) => match partOk p1, partOk p2 with | some a, some b => some (a, b) | _, _ => none
      | none => none

/-- Stream and accumulator rules of R220 over the bodies. -/
def bodyRules (b : List Byte) (b1 b2 : List Word) : Bool :=
  let stores (l : List Word) : List Nat := (l.filter fun w => opOf w == 0x31).map fun w => fld w 16 3
  let uses (l : List Word) (o : Nat) : List Word := l.filter fun w => opOf w == o
  let hacc (l : List Word) : List Nat := (uses l 0x33).map fun w => fld w 21 2
  let kin (k : Nat) : Nat := enKind (shEntry b k)
  let kout (k : Nat) : Nat := enKind (shEntry b (8 + k))
  (uses (b1 ++ b2) 0x30).all (fun w => kin (fld w 16 3) != 0) &&
    (stores (b1 ++ b2)).all (fun k => kout k != 0 && kout k != skROW) && (stores (b1 ++ b2)).Nodup &&
    (uses b2 0x32).isEmpty && (shPasses b != 0 || (uses b1 0x32).isEmpty) &&
    (hacc b1).all (fun k => !(hacc b2).contains k) &&
    (shRowTiles b != 0 || ((hacc (b1 ++ b2)).isEmpty &&
      (List.range 8).all fun k => kin k != skROW && kin k != skCOL && kout k != skROW && kout k != skCOL)) &&
    (shPasses b != 2 || (stores b1).all fun k => kout k != skOUT)

/-- The program, detail 0x11. [DEDUCED: log 99] -/
def programOk (d : Desc) : Bool :=
  (progWords d).all instrOk &&
    match bodiesOf d with
    | some (b1, b2) => bodyRules d.shard b1 b2
    | none => false

/-! ## Step 1 of PLAN (R242, R243, R250, R256, R261) -/

/-- An FP32 code above 0, NaN apart. -/
def fpPos (c : Nat) : Bool := 0 < c && c ≤ 0x7F800000

/-- An FP32 code that is finite and 0 or above. -/
def fpNonNeg (c : Nat) : Bool := c < 0x7F800000 || c == 0x80000000

def paramZero (d : Desc) (a n : Nat) : Bool := leAt d.param a n == 0

/-- The fields of a parameter block, detail 0x10. [DEDUCED: log 99] -/
def planFieldsOk (d : Desc) : Bool :=
  let m := pMode d
  if m == mGEMM then
    (gAf d == 1 || gAf d == 3 || gAf d == 4) && (if gAf d == 1 then gBf d == 1 else gBf d == 3 || gBf d == 4) &&
      gCf d ≤ 1 && gEpi d ≤ 1 && paramZero d 5 3 && paramZero d 26 6 && paramZero d 72 56 &&
      [gM d, gN d, gK d].all fun v => 1 ≤ v && v ≤ 65536
  else if m == mVALIDATE then paramZero d 1 7 && paramZero d 16 112
  else
    let k := pK d
    let common := (pDfmt d == 0 || pDfmt d == 1 || pDfmt d == 0x10) && 2 ≤ k && k ≤ 1152 && paramZero d 7 1
    if m == mSNAPSHOT then common && pDfmt d != 1 && paramZero d 6 1 && paramZero d 24 104
    else
      let auc := 0x35800000 ≤ pEps d && pEps d ≤ 0x3E800000 && 1024 ≤ pBids d && pBids d ≤ 1048576
      let scaled := common && pNpins d + 2 ≤ k && (pNpins d != 0 || pPins d == 0) && paramZero d 42 2 &&
        pIter d ≤ 1024 && fpPos (pTol d) && fpNonNeg (pFloor d) && (pIter d == 0 || (fpPos (pFloor d))) &&
        1 ≤ pBudget d && pBudget d ≤ 950 && paramZero d 80 48
      if m == mSCHEDULE then
        scaled && auc && 1 ≤ pPmax d && pPmax d ≤ 64 && 1 ≤ pIter d && fpPos (pMinW d) &&
          (pStop d < 0x3F800000 || pStop d == 0x80000000)
      else if m == mASSIGN then scaled && auc && pPmax d == 1 && pMinW d == 0 && pStop d == 0
      else if m == mSINKHORN then scaled && pPmax d == 0 && paramZero d 56 16 && paramZero d 76 4
      else false

/-- The ranges of a PLAN (R243): the result, then what the mode names. [DEDUCED: log 99] -/
def planRanges (d : Desc) : List (Nat × Nat) :=
  let es := if pDfmt d == 1 then 2 else 4
  let gs (f : Nat) : Nat := if f == 0 then 4 else if f == 1 then 2 else 1
  let m := pMode d
  let mat := [(pDemand d, (pK d - 1) * pStride d * 64 + pK d * es), (pPorts d, 2 * pK d)]
  (planOut d, outBytesNeeded d) ::
    (if m == mGEMM then
      [(gA d, (gM d - 1) * gLda d * 64 + gK d * gs (gAf d)), (gB d, (gK d - 1) * gLdb d * 64 + gN d * gs (gBf d)),
       (gC d, (gM d - 1) * gLdc d * 64 + gN d * gs (gCf d))] ++ (if gBias d == 0 then [] else [(gBias d, 4 * gN d)])
     else if m == mVALIDATE then [(pDemand d, 4672)]
     else if m == mSNAPSHOT then mat
     else mat ++ [(pWork d, workBytes (pK d))] ++ (if pNpins d == 0 then [] else [(pPins d, 2 * pNpins d)]))

/-- Alignment and strides, detail 0x11. -/
def planShapeOk (d : Desc) : Bool :=
  let es := if pDfmt d == 1 then 2 else 4
  let gs (f : Nat) : Nat := if f == 0 then 4 else if f == 1 then 2 else 1
  (planRanges d).all (fun r => r.1 % 64 == 0) &&
    (if pMode d == mGEMM then gK d * gs (gAf d) ≤ gLda d * 64 && gN d * gs (gBf d) ≤ gLdb d * 64 && gN d * gs (gCf d) ≤ gLdc d * 64
     else if pMode d == mVALIDATE then true
     else pK d * es ≤ pStride d * 64)

/-- The mandatory path fits the budget, detail 0x12. -/
def planBudgetOk (s : State) (die : Nat) (d : Desc) : Bool :=
  3 < pMode d || planFactor s die * planPath d ≤ pBudget d * 1600

/-! ## Steps 3 to 6 -/

/-- The local tokens that a descriptor names (step 3). -/
def localToks (s : State) (d : Desc) : List Nat :=
  (if dWaits d then [dWaitTok d] else []) ++ (if sigLocal s d then [dSigTok d] else []) ++
    (if dType d == tyRECV && (recvTok d).testBit 15 then [recvTok d % 4096] else []) ++
    (if dType d == tyREDUCE && (redDone d).testBit 15 then [redDone d % 4096] else []) ++
    (if dType d == tyTOKEN && tokOp d != 3 && !tokIsRemote s d then
      (List.range (tokCount d)).map (tokTarget d + ·) else [])

/-- Every queue that a local DOORBELL names is bound to the domain. -/
def queuesBound (s : State) (d : Desc) : Bool :=
  !(dType d == tyTOKEN && tokOp d == 3 && !tokIsRemote s d) ||
    (List.range (tokCount d)).all fun i =>
      let x := queueOf s (tokTarget d + i)
      x.state != .unbound && x.state != .failed && x.domain.toNat == dDomain d

/-- The range of a stream of an OPTIM (R228), none for GRAD and OUT. -/
def streamSpan (d : Desc) (k : Nat) : Option Span :=
  let b := d.shard
  let e := shEntry b k
  let sz := elemBytes (enFormat e)
  let row := max (rowLen b) 1
  if enKind e == skPLANE then
    some { addr := enBase e + sz * optFirst d, len := sz * optCount d, reach := .optim }
  else if enKind e == skROW then
    some { addr := enBase e + sz * (optFirst d / row), len := sz * (optCount d / row), reach := .optim }
  else if enKind e == skCOL then some { addr := enBase e, len := sz * rowLen b, reach := .optim }
  else none

/-- Bytes that an OPTIM writes at OUT. -/
def optOutBytes (d : Desc) : Nat :=
  let l := (List.range 8).map fun k =>
    let e := shEntry d.shard (8 + k)
    if enKind e == skOUT then elemBytes (enFormat e) * optCount d else 0
  l.foldl max (if shPasses d.shard == 2 then 64 else 0)

/-- Every address range of a descriptor with its reach. -/
def spansOf (d : Desc) : List Span :=
  match dType d with
  | 0x01 =>
    [{ addr := copySrc d, len := copySpan (copyLen d) (copyRows d) (copySrcStride d), reach := .copy, board := true },
     { addr := copyDst d, len := copySpan (copyLen d) (copyRows d) (copyDstStride d), reach := .copy, board := true }]
  | 0x02 => [{ addr := recvDst d, len := recvLen d, reach := .local_ }]
  | 0x03 =>
    [{ addr := redSrc d, len := arrayBytes (redFormat d) (redCount d), reach := .staging },
     { addr := redAcc d, len := 4 * redCount d, reach := .staging }]
  | 0x04 =>
    [{ addr := emitAcc d, len := 4 * emitCount d, reach := .staging }] ++
      (if modeBit d 3 then [] else
        [{ addr := emitDst d, len := arrayBytes (emitFormat d) (emitCount d), reach := .staging }]) ++
      (if modeBit d 1 then
        [{ addr := emitResid d, len := (if modeBit d 5 then 2 else 4) * emitCount d, reach := .staging }] else [])
  | 0x05 =>
    [{ addr := atmSrc d, len := atmLength d, reach := .staging }, { addr := atmList d, len := 16 * atmDests d, reach := .staging }] ++
      (if d.dlist.isEmpty then [] else (List.range (atmDests d)).flatMap fun i =>
        let e := atmEntry d i
        if leAt e 0 1 == 1 then
          [{ addr := leAt e 8 8, len := atmLength d, reach := .copy, board := true }] else [])
  | 0x06 =>
    [{ addr := optShard d, len := 512, reach := .local_ }] ++
      (if d.shard.isEmpty then [] else
        [{ addr := shProg d.shard, len := 4 * shProgLen d.shard, reach := .local_ },
         { addr := optGrad d, len := 4 * optCount d, reach := .staging }] ++
        (if optOut d == 0 then [] else [{ addr := optOut d, len := optOutBytes d, reach := .staging }]) ++
        (if shStat d.shard == 0 then [] else [{ addr := shStat d.shard, len := 64, reach := .staging }]) ++
        (List.range 16).filterMap (streamSpan d))
  | 0x07 =>
    { addr := planParam d, len := 128, reach := .staging } ::
      (if d.param.isEmpty then [] else
        (planRanges d).map fun r => ({ addr := r.1, len := r.2, reach := .staging } : Span))
  | _ => []

/-- Positions below the board size that the fields beside the address ranges name; an ATOMIZE has no reach
to its own module (R134), and a mirror lies on another one (R230). -/
def placesOk (s : State) (d : Desc) : Bool :=
  (!(dSigs d && dRemote d) || dSigPos d < boardSize s) &&
  (!(dType d == tyTOKEN && (tokPos d).testBit 7) || tokPos d % 16 < boardSize s) &&
  (dType d != tyATOMIZE || d.dlist.isEmpty || (List.range (atmDests d)).all fun i =>
    let e := atmEntry d i
    leAt e 0 1 != 1 || posOf (leAt e 8 8) != ownPos s) &&
  (dType d != tyOPTIM || d.shard.isEmpty || shMirror d.shard == 0 ||
    (posOf (shMirrorBase d.shard) < boardSize s && posOf (shMirrorBase d.shard) != ownPos s))

/-- Step 6: every PLANE range lies in the tier that RESIDENCY names, and in stack STACK. -/
def residencyOk (d : Desc) : Bool :=
  d.shard.isEmpty || (List.range 16).all fun k =>
    if enKind (shEntry d.shard k) == skPLANE then
      match streamSpan d k with
      | some x =>
        let z := x.addr + (x.len - 1)
        if shResidency d.shard == 0 then
          tierOf x.addr == .stack (shStack d.shard) && tierOf z == .stack (shStack d.shard)
        else tierOf x.addr == .ddr && tierOf z == .ddr
      | none => true
    else true

/-- The first check that fails: status and detail. -/
def firstFail : List (Bool × Nat × Nat) → Nat × Nat
  | [] => (stOK, 0)
  | (ok, st, det) :: t => if ok then firstFail t else (st, det)

/-- The checks of R152 in order, on a descriptor with its fetched copies. -/
def fetchChecks (s : State) (q : Nat) (d : Desc) : Nat × Nat :=
  let die := q / 16
  let isOpt := dType d == tyOPTIM
  let sh := isOpt && !d.shard.isEmpty
  let pl := dType d == tyPLAN && !d.param.isEmpty
  firstFail [
    (headerOk d && bodyOk d, stRANGE, 0x02),
    (dType d != tyATOMIZE || d.dlist.isEmpty || (List.range (atmDests d)).all fun i => entryOk (atmEntry d i), stRANGE, 0x02),
    (!isOpt || optRangeOk d, stRANGE, 0x14),
    (!sh || shardOk d.shard, stRANGE, 0x10),
    (!sh || d.prog.isEmpty || programOk d, stRANGE, 0x11),
    (!sh || streamsOk d.shard, stRANGE, 0x12),
    (!pl || planFieldsOk d, stRANGE, 0x10),
    (dType d != tyPLAN || (planParam d % 64 == 0 && planOut d % 64 == 0), stRANGE, 0x11),
    (!pl || planShapeOk d, stRANGE, 0x11),
    (!pl || planBudgetOk s die d, stRANGE, 0x12),
    (dDomain d == (queueOf s q).domain.toNat, stAUTH, 0),
    (!sh || leAt d.shard 4 2 == dDomain d, stAUTH, 0),
    ((localToks s d).all fun t => tokBound s t (dDomain d), stAUTH, 0),
    (queuesBound s d, stAUTH, 0),
    (placesOk s d && (spansOf d).all (spanReach s die), stRANGE, 0x04),
    ((spansOf d).all (spanAdmitted s (dDomain d)), stAUTH, 0),
    (!isOpt || residencyOk d, stRANGE, 0x13)]

/-! ## Fetch -/

/-- Read a copy that the fetch keeps, where the checks let it be read. -/
def fetchCopy (s : State) (q : Nat) (d : Desc) (ecc : List EccHit) (r : Reach) (a n : Nat) : Nat × List Byte × State :=
  if a % 64 == 0 && fetchable s q d r a n then
    let (st, bs, s) := readMem s ecc a n
    (st, if st == stOK then bs else [], s)
  else (stOK, [], s)

/-- The copies fetched with a descriptor: the destination list, the shard descriptor and its program, the parameter
block (R174, R230, R243). The status is that of a read that failed (R153). [DEDUCED: log 98] -/
def fetchCopies (s : State) (q : Nat) (d : Desc) (ecc : List EccHit) : Nat × Desc × State :=
  if !(headerOk d && bodyOk d) then (stOK, d, s)
  else if dType d == tyATOMIZE then
    let (st, bs, s) :=
      if fetchable s q d .staging (atmList d) (16 * atmDests d) then readMem s ecc (atmList d) (16 * atmDests d)
      else (stOK, [], s)
    (st, { d with dlist := if st == stOK then bs else [] }, s)
  else if dType d == tyOPTIM then
    let (st, bs, s) := fetchCopy s q d ecc .local_ (optShard d) 512
    let d := { d with shard := bs }
    if st != stOK || bs.isEmpty || !shardOk bs then (st, d, s)
    else
      let (st, bs, s) := fetchCopy s q d ecc .local_ (shProg bs) (4 * shProgLen bs)
      (st, { d with prog := bs }, s)
  else if dType d == tyPLAN then
    let (st, bs, s) := fetchCopy s q d ecc .staging (planParam d) 128
    (st, { d with param := bs }, s)
  else (stOK, d, s)

/-- A slot that cannot be read yields no descriptor (R431). -/
def slotFailed (s : State) (q : Nat) (d : Desc) (st : Nat) : State :=
  dropDesc (noteFailure (recordOf s q d st 0 0) q st 0 0 0 d.idx true) q d.idx

/-- Fetch the next descriptor of a queue (R146, R152, R153). [DEDUCED: log 71, 98] -/
def fetchRun (s : State) (q : Nat) (ecc : List EccHit) : State :=
  let x := queueOf s q
  if x.state == .running && x.head != x.tail && isOn s (q / 16) then
    let (st, raw, s) := readMem s ecc (slotAddr x x.head) 64
    let d : Desc := { raw := if st == stOK then raw else zeros 64, idx := x.head, woke := 0 < x.wokeLeft }
    let x := queueOf s q
    let s := setQueue s q { x with head := x.head + 1#32, descs := x.descs ++ [d], wokeLeft := x.wokeLeft - 1 }
    if st != stOK then slotFailed s q d st
    else
      let (st, d, s) := fetchCopies s q d ecc
      let s := setDesc s q d
      if st != stOK then failDesc s q d st 0 true false
      else
        let c := fetchChecks s q d
        if c.1 == stOK then s else failDesc s q d c.1 c.2 true false
  else s

/-! ## Release -/

/-- The wait of a descriptor lets it run (R155, R161). -/
def waitOk (s : State) (d : Desc) : Bool :=
  !dWaits d || (if dAlt d then (tokOf s (dWaitTok d)).poison else waitMet s (dWaitTok d) (dThr d))

/-- A mirrored OPTIM also needs a copy engine (R232). -/
def wantsCopy (d : Desc) : Bool := dType d == tyOPTIM && shMirror d.shard != 0

/-- The kinds of engine for which queues compete (R165). -/
def engineKind (d : Desc) : Nat :=
  match enginePage (dType d) with | some (pg, _) => pg | none => 256 + dType d

/-- An engine of its kind is free: its number, or 0 for a type that needs none (R164 condition 4). -/
def engineFor (s : State) (q : Nat) (d : Desc) : Option Nat :=
  let die := q / 16
  match enginePage (dType d) with
  | some (pg, _) =>
    match freeEngine s pg die with
    | some e => if wantsCopy d && (freeEngine s 0x13 die).isNone then none else some e
    | none => none
  | none =>
    if dType d == tyRECV then (if (s.flow.windows.filter fun w => w.die == die).length < 256 then some 0 else none)
    else if dType d == tyBRANCH then
      let busy := (portOf s (brPort d)).change.isSome || s.flow.queues.any fun x =>
        x.2.descs.any fun e => e.stage == .released && dType e == tyBRANCH && brPort e == brPort d
      if busy then none else some 0
    else some 0

/-- The descriptor of a queue that conditions 1 to 6 of R164 release. [DEDUCED: log 102] -/
def releasable (s : State) (q : Nat) : Option (Desc × Nat) :=
  let x := queueOf s q
  if x.state == .running && isOn s (q / 16) && !holdOf s 0x10 (q / 16) then
    match oldestWaiting s q with
    | some d =>
      if waitOk s d && (!dOrdered d || (x.descs.takeWhile fun e => e.idx != d.idx).isEmpty) then
        (engineFor s q d).map fun e => (d, e)
      else none
    | none => none
  else none

/-- A ready queue of high priority goes first for the same kind of engine (R165). [DEDUCED: log 102] -/
def outranked (s : State) (q : Nat) (d : Desc) : Bool :=
  !(queueOf s q).prio && (List.range 16).any fun i =>
    let p := 16 * (q / 16) + i
    (queueOf s p).prio && match releasable s p with | some (e, _) => engineKind e == engineKind d | none => false

/-- A released RECV opens its window, or completes RESOURCE over an open one (R169, R170). -/
def openWindow (s : State) (q : Nat) (d : Desc) : State :=
  let clash := s.flow.windows.any fun w =>
    w.domain.toNat == dDomain d && w.stream == recvStream d && w.base < recvBase d + recvLen d && recvBase d < w.base + w.len
  if clash then failDesc s q d stRESOURCE 0 true false
  else
    let t := recvTok d
    let w : Window :=
      { die := q / 16, queue := q, idx := d.idx, domain := BitVec.ofNat 12 (dDomain d), port := recvPort d,
        stream := recvStream d, format := recvFormat d, shift := recvShift d, dst := recvDst d, base := recvBase d,
        len := recvLen d, tok := if t.testBit 15 then some (t % 4096) else none, placed := [], chunks := 0 }
    creditSources { s with flow := { s.flow with windows := s.flow.windows ++ [w] } } w

/-- A planning array in IDLE wakes through its own clock-ungate steps (R50). -/
def wakeArray (s : State) (die : Nat) : State :=
  if tget (fun _ => false) s.pwr.engOn (256 * 0x47 + die) || phaseOf s die .plnUngate then s
  else queuePhase s die .plnUngate

/-- What the release of a descriptor starts, by type. -/
def startRelease (s : State) (q : Nat) (d : Desc) : State :=
  let die := q / 16
  if dType d == tyRECV then openWindow s q d
  else if dType d == tyREDUCE then
    match ctMeet s die d with
    | (.runs i, s) => setDesc s q { d with entry := some i, entryGen := (ctOf s i).gen }
    | (.ends st, s) => failDesc s q { d with engine := none } st 0 true false
  else if dType d == tyOPTIM then
    let s := setDesc s q { d with copyEng := if wantsCopy d then freeEngine s 0x13 die else none }
    optStart s d (16 * die + d.engine.getD 0)
  else if dType d == tyPLAN then wakeArray s die
  else if dType d == tyFENCE then setDesc s q { d with fence := fenceScope s q d }
  else if dType d == tyACCORD && service s ≤ 1 then accordWaitRun s q d
  else s

/-- Release a descriptor. -/
def releaseDesc (s : State) (q : Nat) (d : Desc) (e : Nat) : State :=
  let pg := enginePage (dType d)
  let d := { d with stage := .released
                    engine := if pg.isSome then some e else none
                    start := s.ns.setWidth 32
                    waitPois := dWaits d && dAlt d }
  let s := setDesc s q d
  let s := match pg with
    | some (p, n) => if p == 0x47 then s else setEngOn s p (n * (q / 16) + e) true
    | none => s
  startRelease s q d

/-- The scheduler examines the oldest unreleased descriptor of a queue: it ends a poisoned wait or an ALT that is
not needed (R160, R161), or releases it (R164). [DEDUCED: log 102] -/
def releaseRun (s : State) (q : Nat) : State :=
  let x := queueOf s q
  if x.state == .running && isOn s (q / 16) && !holdOf s 0x10 (q / 16) then
    match oldestWaiting s q with
    | some d =>
      let t := tokOf s (dWaitTok d)
      if dWaits d && !dAlt d && t.poison then failDesc s q d stABORTED 0 true true
      else if dWaits d && dAlt d && !t.poison && dThr d ≤ t.value.toNat then failDesc s q d stABORTED 0 false false
      else
        match releasable s q with
        | some (d, e) => if outranked s q d then s else releaseDesc s q d e
        | none => s
    | none => s
  else s

end Sys2Proof.Machine
end

