-- ==== Sys2Proof/Machine/PwrOps.lean ====
section
/-!
DEFINITION. Power, reset, clocks and board test (R27 to R57, R429, R430): rails, module reset and its release,
the power-up order, step phases, Flow die commands, failed units, power and thermal limits, clocks and JTAG.
-/

namespace Sys2Proof.Machine

def modPwr (s : State) (f : Pwr → Pwr) : State := { s with pwr := f s.pwr }

/-! ## Failed units (R14, R15, R18, R30, R56, R187) -/

/-- The waiting descriptors of other dies that wait on a token of die `d`. -/
def waitersOnDie (s : State) (d : Nat) : List (Nat × Desc) :=
  s.flow.queues.flatMap fun (x : Nat × Queue) =>
    if x.1 / 16 == d then []
    else (x.2.descs.filter fun e => e.stage == .waiting && dWaits e && tokDie (dWaitTok e) == d).map fun e => (x.1, e)

/-- What a Flow die held is lost: its queues, engines, windows, tokens, accumulators and pins (R187). [DEDUCED: log 19] -/
def dropDie (s : State) (d : Nat) : State :=
  let s := (List.range 16).foldl (fun s i => setQueue s (16 * d + i) { state := .failed }) s
  let s := { s with flow := { s.flow with
    windows := s.flow.windows.filter fun w => w.die != d
    tokens := s.flow.tokens.filter fun t => tokDie t.1 != d } }
  let s := { s with kft := { s.kft with transfers := s.kft.transfers.filter fun t => t.queue / 16 != d } }
  let s := { s with
    ct := s.ct.filter fun e => e.1 / 2048 != d
    opt := s.opt.filter fun e => e.1 / 16 != d
    crc := terase s.crc d
    mem := { s.mem with
      pins := s.mem.pins.filter fun e => e.1 / 16 != d
      held := s.mem.held.filter fun h => h.queue / 16 != d } }
  dropTracks (modWake (clearStaging s d) d fun _ => {})

/-- A Flow die goes to FAILED: its work is lost, and those who wait on its tokens complete ABORTED (R187). [DEDUCED: log 19] -/
def failFlow (s : State) (d : Nat) : State :=
  if unitSt s d == .failed then s
  else
    let s := dropDie (failUnit s d) d
    (waitersOnDie s d).foldl (fun s x => failDesc s x.1 x.2 stABORTED 0 true false) s

/-- A hub die fails: its Flow die loses its only hub port (R18). [DEDUCED: log 17] -/
def failHub (s : State) (h : Nat) : State := failFlow (failUnit s (dieHUB + h)) h

/-- The host-port lanes that an I/O die carries (R15). [DEDUCED: log 110] -/
def hostLanes (i : Nat) : BitVec 4 := match i with | 4 => 3#4 | 5 => 4#4 | 6 => 8#4 | _ => 0#4

/-- The trained host-port lanes. -/
def portLanes (s : State) : BitVec 4 := BitVec.ofNat 4 (fld (getReg s Reg.HST_PORT_STAT) 2 4)

/-- The host-port width of trained lanes: 2 on four, 1 on two or three, else down (R15, R70). [DEDUCED: log 110] -/
def hostWidth (l : BitVec 4) : Nat := if laneCount l == 4 then 2 else if 2 ≤ laneCount l then 1 else 0

/-- The host port takes the lanes given; a change of width raises WIDTH. [DEDUCED: log 110] -/
def setHostLanes (s : State) (l : BitVec 4) : State :=
  let was := fld (getReg s Reg.HST_PORT_STAT) 0 2
  let w := hostWidth l
  let s := setRegN s Reg.HST_PORT_STAT (if w == 0 then 0 else w + 4 * l.toNat)
  if w == was then s else raiseIrq s 0x06 0 4

/-- An I/O die fails: its ports, links and lanes are lost (R14, R15, R423). -/
def failIod (s : State) (i : Nat) : State :=
  if unitSt s (dieIOD + i) == .failed then s
  else
    let s := failUnit s (dieIOD + i)
    let s := if i < 4 then
        (List.range 8).foldl (fun s k => portLeave s (8 * i + k)
          (if (portOf s (8 * i + k)).st == .disabled then .disabled else .down)) s
      else (List.range 16).foldl (fun s k => linkLossRun s (16 * (i - 4) + k)) s
    let s := if portLanes s &&& hostLanes i != 0#4 then setHostLanes s 0#4 else s
    if i == 7 && planeUp s then planeDown s else s

/-- A unit enters FAILED, by die index. [DEDUCED: log 19] -/
def failDie (s : State) (u : Nat) : State :=
  if u < 4 then failFlow s u
  else if dieIOD ≤ u && u < dieHUB then failIod s (u - dieIOD)
  else if dieHUB ≤ u && u < dieDMC then failHub s (u - dieHUB)
  else failUnit s u

/-! ## Module reset and its release (R30 to R33, R37, R38, R429) -/

/-- Bits of `RESET_CAUSE`. -/
abbrev causePin : Nat := 1
abbrev causeTrip : Nat := 2
abbrev causeRail : Nat := 3

/-- The module goes into reset: every unit outside the AON domain is OFF and loses what it holds. The AON domain
keeps its registers, its counters and Sillage; the severity map takes its defaults (R32, R39, R400, R406).
[DEDUCED: log 12, 13, 31] -/
def moduleReset (s : State) (cause : Nat) : State :=
  let kept (k : Nat) : Bool := k / 0x100000 == 0x02 || k / 0x100000 == 0x07
  let p : Pwr := {
    inReset := true
    resetN := s.pwr.resetN
    pwrgd := s.pwr.pwrgd
    rails := s.pwr.rails
    tripped := s.pwr.tripped
    strapPins := s.pwr.strapPins
    optime := s.pwr.optime
    pcycle := s.pwr.pcycle
    latch := s.pwr.latch.filter fun x => kept x.1
    ref156 := s.pwr.ref156
    jtag := s.pwr.jtag
    jtagCells := s.pwr.jtagCells
    jtagDrive := s.pwr.jtagDrive }
  let t : State := {
    pending := s.pending
    out := s.out
    fresh := s.fresh
    regs := s.regs.filter fun x => kept x.1
    pwr := p
    otp := s.otp
    evr := { s.evr with sevMap := [] }
    mem := { flash := s.mem.flash } }
  orReg t Reg.PWR_RESET_CAUSE (toWord (2 ^ cause))

/-- The check of the sampled straps (R38): `STRAP_ERR`. -/
def strapErr (s : State) : Nat :=
  if boardSize s ≤ ownPos s then 1 else if strapPlan s == 3 then 2 else 0

/-- The severity of the record of a reset release: CRITICAL after a trip or a rail fault (R400). [DEDUCED: log 15] -/
def resetSev (s : State) : Nat := if fld (getReg s Reg.PWR_RESET_CAUSE) 2 2 != 0 then 5 else 2

/-- The reset releases: straps are sampled and checked, the RESET record is written, and power-up begins. [DEDUCED: log 15] -/
def releaseReset (s : State) : State :=
  let s := { s with ns := 0#64 }
  let s := modPwr s fun p => { p with
    inReset := false
    upStep := 0
    jtag := if p.jtag == .idcode then .idcode else .bypass
    jtagDrive := none }
  let s := setRegN s Reg.PWR_STRAPS s.pwr.strapPins.toNat
  let s := setRegN s Reg.PWR_STRAP_ERR (strapErr s)
  let s := if strapErr s == 0 then s else event s 0x0221 0x02 0 0 [strapErr s]
  evrAdmit s (newRec s 0x05 (sevOf s 0x0220 (resetSev s)) 0x0220 0x02 0 0
    [getReg s Reg.PWR_RESET_CAUSE, getReg s Reg.PWR_STRAPS])

/-- A release takes effect once `PWRGD` is high, `RESET_N` is released, every rail is in tolerance, and no thermal
trip holds the module (R33, R56, R429). [DEDUCED: log 111] -/
def tryRelease (s : State) : State :=
  let p := s.pwr
  if p.inReset && p.pwrgd && !p.resetN && p.rails == 0x7FFFF#19 && !p.tripped then releaseReset s else s

/-- `VDD_AON` rises into tolerance: the whole AON domain restarts and a new power cycle begins (R30, R39, R408).
[DEDUCED: log 12, 111] -/
def vddAonRise (s : State) : State :=
  let p : Pwr := {
    resetN := s.pwr.resetN
    pwrgd := s.pwr.pwrgd
    rails := s.pwr.rails ||| 1#19
    strapPins := s.pwr.strapPins }
  let t : State := {
    pending := s.pending
    out := s.out
    fresh := s.fresh
    pwr := p
    otp := s.otp
    mem := { flash := s.mem.flash } }
  tryRelease t

/-- Latch rails that are out of tolerance. -/
def latchRails (s : State) (bad : BitVec 19) : State := orReg s Reg.PWR_RAIL_FAULT (bad.setWidth 32)

/-- The units that a rail feeds, where its loss fails them rather than resetting the module (R27, R30). -/
def railUnits (rail : Nat) : List Nat :=
  if 6 ≤ rail && rail ≤ 9 then [rail - 6]
  else if rail == 10 then (List.range 4).map (dieHUB + ·)
  else if rail == 11 || rail == 15 || rail == 18 then (List.range 8).map (dieIOD + ·)
  else if rail == 12 || rail == 16 then (List.range 8).map (dieSTK + ·)
  else if rail == 13 || rail == 17 then (List.range 2).map (dieDMC + ·)
  else []

/-- A rail leaves tolerance for more than 10 µs. -/
def railFaultRun (s : State) (rail : Nat) : State :=
  let s := modPwr s fun p => { p with rails := p.rails &&& ~~~ (BitVec.ofNat 19 (2 ^ rail)) }
  let s := raiseIrqArgs (latchRails s (BitVec.ofNat 19 (2 ^ rail))) 0x02 0 0 0 [rail]
  if s.pwr.inReset then s
  else if (railUnits rail).isEmpty then moduleReset s causeRail
  else (railUnits rail).foldl failDie s

/-- Every rail but `VDD_AON` is back in tolerance; `VDD_AON`'s return is its own event. [DEDUCED: log 111] -/
def railRecoveryRun (s : State) : State :=
  tryRelease (modPwr s fun p => { p with rails := p.rails ||| 0x7FFFE#19 })

/-- `RESET_N` is asserted, or `PWRGD` falls. A thermal trip ends with the next reset (R56). -/
def resetAssertRun (s : State) (pwrgdFell : Bool) : State :=
  let s := modPwr s fun p => { p with
    resetN := p.resetN || !pwrgdFell
    pwrgd := p.pwrgd && !pwrgdFell }
  if s.pwr.inReset && !s.pwr.tripped then s
  else moduleReset (modPwr s fun p => { p with tripped := false }) causePin

/-- `PWRGD` rises with the rails given. [DEDUCED: log 111] -/
def pwrgdRun (s : State) (rails : BitVec 19) : State :=
  let s := modPwr s fun p => { p with
    pwrgd := true
    rails := rails ||| (p.rails &&& 1#19) }
  tryRelease (latchRails s (~~~ s.pwr.rails))

/-- `RESET_N` is released with the straps given. -/
def resetReleaseRun (s : State) (straps : BitVec 12) : State :=
  if s.pwr.resetN then
    tryRelease (modPwr s fun p => { p with
      resetN := false
      strapPins := straps })
  else s

/-! ## The power-up order (R52) -/

/-- The dies in power-up order. [DEDUCED: log 33] -/
def upOrder : List Nat :=
  [dieCLK, dieSTE] ++ (List.range 4).map (dieAFE + ·) ++ (List.range 8).map (dieIOD + ·) ++
    (List.range 4).map (dieHUB + ·) ++ (List.range 8).map (dieSTK + ·) ++ (List.range 2).map (dieDMC + ·)

/-- The unit before has come up, so the next may start. [DEDUCED: log 33] -/
def upReady (s : State) : Bool :=
  match s.pwr.upStep with
  | 0 => true
  | n + 1 =>
    match upOrder[n]? with
    | some u => unitSt s u != .off && unitSt s u != .powering && unitSt s u != .zeroing && unitSt s u != .waking
    | none => false

/-- A die of the order starts. `CLK`, `STE`, AFE and hub dies take step phases; an I/O die is ON at once, a stack
ends in RETAIN, and a DDR5 controller is ON with a hub (R43). With `IOD7` the plane link starts training. [DEDUCED: log 33] -/
def startUnit (s : State) (u : Nat) : State :=
  if unitSt s u != .off then s
  else if dieIOD ≤ u && u < dieHUB then
    let s := setUnit s u .on
    if u == dieIOD + 7 then modSte s fun x => { x with training := true } else s
  else if dieSTK ≤ u && u < dieCLK then
    setUnit s u (if isOn s ((u - dieSTK) / 2) then .on else .retain)
  else if u == dieDMC || u == dieDMC + 1 then
    setUnit s u (if (dmcHubs (u - dieDMC)).any fun h => isOn s (dieHUB + h) then .on else .retain)
  else startWake s u

/-- The power controller starts the next unit. [DEDUCED: log 33] -/
def powerupRun (s : State) : State :=
  if s.pwr.inReset || !upReady s then s
  else
    match upOrder[s.pwr.upStep]? with
    | some u => modPwr (startUnit s u) fun p => { p with upStep := p.upStep + 1 }
    | none => s

/-! ## Step phases and power states (R43 to R49) -/

/-- The phase at the head of the wake queue starts. [DEDUCED: log 74] -/
def wakePhaseRun (s : State) : State :=
  match s.pwr.phase, s.pwr.wakeQ with
  | none, p :: rest => modPwr s fun x => { x with
      phase := some p
      wakeQ := rest }
  | _, _ => s

/-- [DEDUCED: log 74] -/
def endPhase (s : State) : State := modPwr s fun x => { x with phase := none }

/-- The power-gate steps of a wake end. A phase ends without effect on a unit that has left its state meanwhile. -/
def powerGateRun (s : State) : State :=
  match s.pwr.phase with
  | some { unit := u, kind := .gateUp } =>
    if unitSt s u != .powering then endPhase s
    else if u < 4 || u == dieSTE then setUnit (endPhase s) u .zeroing
    else startUngate (endPhase s) u
  | _ => s

/-- The zeroing of a woken die ends. A die that an IDLE command woke goes to IDLE (R51). [DEDUCED: log 13] -/
def zeroingRun (s : State) (u : Nat) : State :=
  if unitSt s u != .zeroing then s
  else if u < 4 then
    let s := clearStaging s u
    if (wakeOf s u).stopIdle then enterIdle (stacksOn s u) u else startUngate s u
  else startUngate { s with mem := { s.mem with scratch := [] } } u

/-- `STE` is ON, and the boot ROM starts (R96). -/
def startRom (s : State) : State := modBoot (setUnit s dieSTE .on) fun b => { b with phase := .rom }

/-- The clock-ungate steps of a die or of a planning array end. -/
def clockUngateRun (s : State) : State :=
  match s.pwr.phase with
  | some { unit := u, kind := .ungate } =>
    if unitSt s u != .waking then endPhase s
    else if u < 4 then reachOn (endPhase s) u
    else if u == dieSTE then startRom (endPhase s)
    else dmcFollow (setUnit (endPhase s) u .on)
  | some { unit := d, kind := .plnUngate } => setEngOn (endPhase s) 0x47 d true
  | _ => s

/-- The downward steps of a die end: it is OFF, and a doorbell that came meanwhile wakes it (R46). -/
def offEntryRun (s : State) : State :=
  match s.pwr.phase with
  | some { unit := u, kind := .gateDown } =>
    if unitSt s u != .powering then endPhase s
    else
      let s := setUnit (endPhase s) u .off
      if u < 4 then
        let w := wakeOf s u
        let s := modWake (stacksRetain (clearStaging s u) u) u fun _ => {}
        if w.again then startWake (modWake s u fun x => { x with cmd := w.cmd }) u else s
      else dmcFollow s
  | _ => s

/-- A Flow die has had no descriptor pending for `IDLE_AFTER`. -/
def idleAfterRun (s : State) (d : Nat) : State :=
  if isOn s d && !diePending s d && getRegN s Reg.PWR_IDLE_AFTER != 0 then enterIdle s d else s

/-- `OFF_AFTER` runs out in IDLE (R44). -/
def offAfterRun (s : State) (d : Nat) : State :=
  if unitSt s d == .idle && (wakeOf s d).offTimer && getRegN s Reg.PWR_OFF_AFTER != 0 then
    if isLive s d then modWake s d fun w => { w with offTimer := false } else startOff s d
  else s

/-- The pages of the engine kinds. -/
def kindPage (k : EngineKind) : Nat :=
  match k with | .red => 0x11 | .opt => 0x12 | .cpy => 0x13 | .atm => 0x16 | .pln => 0x47 | .lpe => 0x40

/-- An engine has had no work for 256 cycles (R43). -/
def engineIdleRun (s : State) (k : EngineKind) (n : Nat) : State :=
  let pg := kindPage k
  let per := enginesPer pg
  if pg == 0x40 || 4 * per ≤ n || (engineJob s pg (n / per) (n % per)).isSome ||
      (pg == 0x13 && heldByMirror s (n / per) (n % per)) then s
  else setEngOn s pg n false

/-- Something needs a hub die ON (R43, R117). [DEDUCED: log 17] -/
def hubNeeded (s : State) (h : Nat) : Bool :=
  unitSt s h != .off ||
    ((List.range 64).any fun n => let l := linkOf s n; l.st == .training || l.st == .up || l.st == .retraining) ||
    ((List.range 32).any fun p => let x := portOf s p; x.st == .training || x.st == .up) ||
    (s.mem.nextChan < 16 && s.mem.nextChan / 8 == h / 2) || !s.board.late

/-- A hub die's OFF conditions all hold. A FAILED Flow die is not OFF. [DEDUCED: log 17] -/
def hubOffRun (s : State) (h : Nat) : State :=
  if isOn s (dieHUB + h) && !hubNeeded s h && s.mem.held.isEmpty && s.board.heldLink.isEmpty then
    queuePhase (setUnit s (dieHUB + h) .powering) (dieHUB + h) .gateDown
  else s

/-- An OFF condition stops holding, or an access needs the hub. -/
def hubWakeRun (s : State) (h : Nat) : State :=
  if hubNeeded s h || !s.mem.held.isEmpty || !s.board.heldLink.isEmpty then wakeHub s h else s

/-! ## Flow die commands (R51) -/

/-- WAKE. -/
def flwWakeCmd (s : State) (d : Nat) : Nat × State :=
  match unitSt s d with
  | .failed => (stSTATE, s)
  | .on => (stOK, s)
  | _ => (stOK, modWake (wakeDie s d) d fun w => { w with cmd := true })

/-- IDLE. -/
def flwIdleCmd (s : State) (d : Nat) : Nat × State :=
  match unitSt s d with
  | .off => (stOK, startWake (modWake s d fun w => { w with stopIdle := true }) d)
  | .idle => (stOK, s)
  | .on => if diePending s d then (stSTATE, s) else (stOK, enterIdle s d)
  | _ => (stSTATE, s)

/-- OFF. -/
def flwOffCmd (s : State) (d : Nat) : Nat × State :=
  match unitSt s d with
  | .idle => if isLive s d then (stSTATE, s) else (stOK, startOff s d)
  | .on => if diePending s d || isLive s d then (stSTATE, s) else (stOK, startOff (enterIdle s d) d)
  | _ => (stSTATE, s)

/-- `PWR.FLW_CMD`. [DEDUCED: log 27] -/
def flwCmd (s : State) (d cmd : Nat) : Nat × State :=
  match cmd with
  | 1 => flwWakeCmd s d
  | 2 => flwIdleCmd s d
  | 3 => flwOffCmd s d
  | _ => (stOK, s)

/-! ## Power and temperature (R54, R56) -/

/-- The power is measured. -/
def powerMeasureRun (s : State) (w : BitVec 12) : State :=
  let s := setRegN s Reg.PWR_PWR_MEAS w.toNat
  if getRegN s Reg.PWR_PCAP < w.toNat && !s.pwr.capped then
    raiseIrq (modPwr s fun p => { p with capped := true }) 0x02 0 3
  else s

/-- The power has stayed below 95 % of the cap. -/
def capReleaseRun (s : State) : State :=
  if 100 * getRegN s Reg.PWR_PWR_MEAS < 95 * getRegN s Reg.PWR_PCAP then modPwr s fun p => { p with capped := false } else s

/-- A Flow die's temperature meets THROTTLE; a reading below it ends the throttling. [DEDUCED: log 112] -/
def throttleRun (s : State) (d t : Nat) : State :=
  let s := setTemp s d t
  let was := (getReg s Reg.PWR_THROTTLE).getLsbD d
  if fld (getReg s Reg.PWR_THERM_CFG) 0 8 ≤ t then
    let s := orReg s Reg.PWR_THROTTLE (toWord (2 ^ d))
    if was then s else raiseIrqArgs s 0x02 0 1 0 [d]
  else andNotReg s Reg.PWR_THROTTLE (toWord (2 ^ d))

/-- A Flow die's temperature meets DIE_OFF. -/
def dieOffRun (s : State) (d t : Nat) : State :=
  let s := setTemp s d t
  if fld (getReg s Reg.PWR_THERM_CFG) 8 8 ≤ t && !s.pwr.inReset && unitSt s d != .failed then
    failDie (raiseIrqArgs s 0x02 0 2 0 [d]) d
  else s

/-- A die reaches 115 °C: the module is held as in reset until the next reset. [DEDUCED: log 111] -/
def tripRun (s : State) (u t : Nat) : State :=
  let s := setTemp s u t
  if 115 ≤ t && !s.pwr.inReset then moduleReset (modPwr s fun p => { p with tripped := true }) causeTrip else s

/-! ## Clocks (R35, R36, R39) -/

/-- `REFCLK25` is lost: the internal oscillator and holdover, until the next module reset. -/
def ref25Loss (s : State) : State :=
  if s.pwr.aonInt then s
  else raiseIrq (modPwr s fun p => { p with
    ref25 := false
    aonInt := true }) 0x03 0 0

/-- `SDSREF156` is lost: every lane goes down. -/
def ref156Loss (s : State) : State :=
  if !s.pwr.ref156 then s
  else
    let s := modPwr s fun p => { p with ref156 := false }
    let s := raiseIrq (raiseIrq (orReg s Reg.CLK_PLL_LOL 0xFF#32) 0x03 0 1) 0x03 0 2
    let s := (List.range 64).foldl linkLossRun s
    let s := (List.range 32).foldl (fun s p =>
      if (portOf s p).st == .up || (portOf s p).st == .training then portLeave s p .down else s) s
    let s := setHostLanes s 0#4
    if planeUp s then planeDown s else s

/-- `SDSREF156` returns: the plane link and the enabled ports train again; board links follow their own timers. -/
def ref156Return (s : State) : State :=
  if s.pwr.ref156 then s
  else
    let s := modPwr s fun p => { p with ref156 := true }
    let s := if isOn s (dieIOD + 7) then modSte s fun x => { x with training := true } else s
    (List.range 32).foldl (fun s p => if (portOf s p).st == .down then portTrain s p else s) s

/-- A millisecond of the AON clock. -/
def optimeTickRun (s : State) : State :=
  if s.pwr.rails.getLsbD 0 then modPwr s fun p => { p with optime := p.optime + 1#40 } else s

/-- Training of the host port ends on the lanes given, of those that can run. [DEDUCED: log 129] -/
def usableLanes (s : State) : BitVec 4 :=
  let on (i : Nat) : BitVec 4 := if isOn s (dieIOD + i) then hostLanes i else 0#4
  on 4 ||| on 5 ||| on 6

/-- The host port trains at power-up or retrains after a loss (R15, R70). [DEDUCED: log 129] -/
def hostTrain (s : State) (lanes : BitVec 4) : State :=
  if s.pwr.inReset || !s.pwr.ref156 then s else setHostLanes s (lanes &&& usableLanes s)

/-! ## Board test (R57) -/

/-- The full instruction set is accepted. -/
def jtagFull (s : State) : Bool := s.pwr.resetN && s.pwr.pwrgd

/-- [PRESUMED: log 7] -/
def jtagSet (s : State) (i : JtagInstr) (drive : Option (List Bool)) (shift : List Bool) : State :=
  send (modPwr s fun p => { p with
    jtag := i
    jtagDrive := drive }) (.jtag shift)

/-- [PRESUMED: log 7] -/
def jtagBypass (s : State) : State := jtagSet s .bypass none [false]

/-- IDCODE, least significant bit first. -/
def jtagIdcode (s : State) : State :=
  jtagSet s .idcode none ((List.range 32).map fun b => (0x111520B7 : Nat).testBit b)

def jtagSample (s : State) (pins preload : List Bool) : State :=
  if jtagFull s then
    jtagSet (modPwr s fun p => { p with jtagCells := preload }) .samplePreload none pins
  else jtagBypass s

def jtagExtest (s : State) : State :=
  if jtagFull s then jtagSet s .extest (some s.pwr.jtagCells) s.pwr.jtagCells else jtagBypass s

/-- [PRESUMED: log 7] -/
def jtagClamp (s : State) : State :=
  if jtagFull s then jtagSet s .clamp (some s.pwr.jtagCells) [false] else jtagBypass s

/-- [PRESUMED: log 7] -/
def jtagHighz (s : State) : State := if jtagFull s then jtagSet s .highz none [false] else jtagBypass s

end Sys2Proof.Machine
end

