-- ==== Sys2Proof/Machine/ServiceOps.lean ====
section
/-!
DEFINITION. Firmware services through the mailbox (R89, R112, R113, R138 to R144, R183, R184, R246, R247, R279, R410).
-/

namespace Sys2Proof.Machine

/-! ## Requests and replies -/

/-- [DEDUCED: log 39] -/
def mbxPeek (s : State) (o n : Nat) : List Byte := (List.range n).map fun i => scratchByte s (mbxBase + o + i)

/-- Doorbell bit 0 is set and the request names this service. -/
def asked (s : State) (code : Nat) : Bool :=
  bitOf (getReg s Reg.HST_MBX_H2F_DB) 0 && leNat (mbxPeek s 0 2) == code

/-- The longest body of a request or a reply: half the mailbox less the header. -/
abbrev bodyMax : Nat := 0x7FF0

/-- Firmware takes the request: stated length, tag, body, and the doorbell bit cleared. -/
def takeRequest (s : State) : Nat × List Byte × List Byte × State :=
  let (h, s) := scratchRead s mbxBase 16
  let n := leAt h 4 4
  let (b, s) := scratchRead s (mbxBase + 16) (min n bodyMax)
  (n, slice h 8 8, b, andNotReg s Reg.HST_MBX_H2F_DB 1#32)

/-- Firmware replies and rings host doorbell bit 0. -/
def reply (s : State) (code : Nat) (tag : List Byte) (st : Nat) (body : List Byte) : State :=
  let s := scratchWrite s (mbxBase + 0x8000)
    (leBytes 2 code ++ leBytes 2 st ++ leBytes 4 body.length ++ tag ++ body)
  raiseIrq (orReg s Reg.HST_MBX_F2H_DB 1#32) 0x06 0 3

/-- The classes that a service allows. -/
abbrev clsAny : List Nat := [0, 1, 2, 3]
abbrev clsAdmin : List Nat := [0]
abbrev clsOperator : List Nat := [0, 1]

/-- Firmware serves a request: AUTH for a class that the table does not allow, RANGE for a length that it does not
name, else the service, which replies by itself. [DEDUCED: log 113] -/
def serve (s : State) (code : Nat) (classes : List Nat) (lenOk : Nat → Bool)
    (run : State → List Byte → List Byte → State) : State :=
  if s.boot.phase != .firmware || !asked s code then s
  else
    let cls := fld (getReg s Reg.HST_MBX_DB_SRC) 16 2
    let (n, tag, body, s) := takeRequest s
    if !classes.contains cls then reply s code tag stAUTH []
    else if !lenOk n then reply s code tag stRANGE []
    else run s tag body

/-- A service that answers at once with a status and a body. -/
def serveNow (s : State) (code : Nat) (classes : List Nat) (lenOk : Nat → Bool)
    (run : State → List Byte → Nat × List Byte × State) : State :=
  serve s code classes lenOk fun s tag body =>
    let (st, b, s) := run s body
    reply s code tag st b

/-! ## Identity and images (R107, R112, R113) -/

def identGetRun (s : State) : State :=
  serveNow s 0x0401 clsAny (· == 0) fun s _ => (stOK, Config.identityCert.take 1024, s)

/-- Bytes 0 to 343 of the report (R107). -/
def attestSigned (s : State) (nonce : List Byte) : List Byte :=
  let x := s.sel.fix
  let dig (k : Nat) : List Byte := beBytes 48 (tget (fun _ => 0#384) s.boot.meas k).toNat
  let bs := getReg s Reg.BOOT_BOOT_STAT
  let flags := b2n (!x.none_) + 2 * b2n x.foreign + 4 * b2n (bitOf bs 1) + 8 * b2n (bitOf bs 3)
  [0x4B#8, 0x41#8, 0x52#8, 0x31#8] ++ leBytes 2 1 ++ leBytes 2 344 ++ nonce ++ beBytes 48 identHash.toNat ++
    leBytes 1 (fld bs 0 1) ++ leBytes 1 (fld (getReg s Reg.BOOT_SVN) 0 8) ++
    leBytes 2 (fld (getReg s Reg.PWR_STRAPS) 0 12) ++ leBytes 5 s.pwr.optime.toNat ++ leBytes 3 s.pwr.pcycle.toNat ++
    dig 0 ++ dig 1 ++ dig 2 ++ beBytes 48 (setupHash s.boot.inForce).toNat ++
    (if x.none_ then zeros 48 else beBytes 48 x.hash.toNat) ++ leBytes 4 flags

def attestRun (s : State) : State :=
  serveNow s 0x0402 clsAny (· == 32) fun s nonce =>
    let m := attestSigned s nonce
    (stOK, m ++ beBytes 96 (Config.identitySign m s.fresh).toNat, { s with fresh := s.fresh + 1 })

/-- The slot that is not booted. -/
def otherSlot (s : State) : Nat := 1 - s.boot.slot

/-- IMAGE_WRITE: the bytes go into the slot that is not booted. [DEDUCED: log 113] -/
def imageWriteRun (s : State) : State :=
  serveNow s 0x0403 clsAdmin (fun n => decide (4 ≤ n ∧ n ≤ 32752)) fun s b =>
    let o := leAt b 0 4
    let d := b.drop 4
    if slotSize < o + d.length then (stRANGE, [], s)
    else (stOK, [], flashWrite s (slotBase (otherSlot s) + o) d)

def inTrial (s : State) : Bool := bitOf (getReg s Reg.BOOT_BOOT_STAT) 2

/-- IMAGE_ACTIVATE. [DEDUCED: log 113] -/
def imageActivateRun (s : State) : State :=
  serve s 0x0404 clsAdmin (· == 1) fun s tag b =>
    if inTrial s then reply s 0x0404 tag stSTATE []
    else
      let o := otherSlot s
      let (st, det) := slotCheck s o
      let s := slotResult s o st det
      if st != stOK then reply s 0x0404 tag st []
      else
        let s := reply (writeHeader s o trialArmed) 0x0404 tag stOK []
        if (leAt b 0 1).testBit 0 then restartAsk s else s

/-- BOOT_CONFIRM: the trial ends, and the floor rises when RAISE_FLOOR is set (R95). -/
def bootConfirmRun (s : State) : State :=
  serveNow s 0x0405 clsAdmin (· == 0) fun s _ =>
    if !inTrial s then (stSTATE, [], s)
    else
      let m := manifest s s.boot.slot
      let s := andNotReg (writeHeader s s.boot.slot trialNone) Reg.BOOT_BOOT_STAT 4#32
      let up := (leAt m 7 1).testBit 0
      (stOK, [], if up then { s with otp := { s.otp with floor := max s.otp.floor (manifestSvn m) } } else s)

/-- The site slot with the lower SEQ; a slot without a good record is the lower one. [DEDUCED: log 113] -/
def siteTarget (s : State) : Nat :=
  let a := siteBytes s 0
  let b := siteBytes s 1
  match siteGood s a, siteGood s b with
  | true, true => if leAt b 4 4 < leAt a 4 4 then 1 else 0
  | true, false => 1
  | false, _ => 0

def siteWriteRun (s : State) : State :=
  serveNow s 0x0406 clsAdmin (· == 1520) fun s b =>
    if !siteGood s b then (stAUTH, [], s)
    else
      let t := siteTarget s
      (stOK, [], flashWrite (flashErase s (siteBase t) 65536) (siteBase t) b)

def ownerAddRun (s : State) : State :=
  serveNow s 0x0407 clsAdmin (· == 97) fun s b =>
    if s.otp.owner1.isSome then (stSTATE, [], s)
    else (stOK, [], { s with otp := { s.otp with owner1 := some (Config.sha384 b) } })

def mgmtRestartRun (s : State) : State :=
  serve s 0x0408 clsAdmin (· == 0) fun s tag _ => restartAsk (reply s 0x0408 tag stOK [])

/-! ## Admission of jobs (R138 to R144) -/

/-- A requested region: size, kind, die. -/
structure RegionReq where
  size : Nat
  kind : Nat
  die : Nat
  deriving DecidableEq, Repr

abbrev mib2 : Nat := 0x200000
abbrev kib64 : Nat := 0x10000

/-- The size rule of a kind. -/
def regionSizeOk (r : RegionReq) : Bool :=
  let unit := if r.kind ≤ 3 then mib2 else kib64
  let top := match r.kind with | 1 => stackSize | 2 => stackSize | 3 => 2 ^ 63 | _ => 0x10000000
  1 ≤ r.kind && r.kind ≤ 5 && unit ≤ r.size && r.size % unit == 0 && r.size ≤ top && (r.kind == 3 || r.die < 4)

def admitDomain (b : List Byte) : Nat := leAt b 0 2
def admitCount (b : List Byte) : Nat := leAt b 2 2

def admitReqs (b : List Byte) : List RegionReq :=
  (List.range (admitCount b)).map fun i =>
    { size := leAt b (8 + 16 * i) 8, kind := leAt b (16 + 16 * i) 1, die := leAt b (17 + 16 * i) 1 }

/-- The first check of R141. -/
def admitShape (b : List Byte) : Bool :=
  let n := admitCount b
  admitDomain b < 4096 && 1 ≤ n && n ≤ 256 && b.length == 8 + 16 * n && leAt b 4 4 == 0 &&
    ((List.range n).all fun i => leAt b (18 + 16 * i) 6 == 0) && (admitReqs b).all regionSizeOk

/-- Every region granted, of all domains. [DEDUCED: log 114] -/
def allRegions (s : State) : List Region := s.mem.domains.flatMap fun (x : Nat × Option (List Region)) => x.2.getD []

/-- Pins of a die that no valid pin and no granted region takes. -/
def freePins (s : State) (d : Nat) : List Nat :=
  (List.range 16).filter fun i => !(pinOf s d i).valid &&
    !((allRegions s).any fun r => r.tier == 2 && r.die == d && r.pin == some i)

/-- The lowest base in [lo, hi) where `n` bytes lie free of the ranges given. -/
def fitLow (used : List (Nat × Nat)) (lo hi n : Nat) : Option Nat :=
  let free (a : Nat) : Bool := decide (lo ≤ a) && decide (a + n ≤ hi) &&
    used.all fun u => decide (a + n ≤ u.1) || decide (u.1 + u.2 ≤ a)
  ((lo :: used.map fun u => u.1 + u.2).filter free).foldl
    (fun b a => match b with | some x => some (min x a) | none => some a) none

def fitStack (s : State) (used : List (Nat × Nat)) (d n : Nat) : Option (Nat × Nat) :=
  if unitSt s d == .failed then none
  else
    match fitLow used (2 * d * stackSize) ((2 * d + 1) * stackSize) n with
    | some a => some (a, 2 * d)
    | none => (fitLow used ((2 * d + 1) * stackSize) ((2 * d + 2) * stackSize) n).map fun a => (a, 2 * d + 1)

def fitDdr (s : State) (used : List (Nat × Nat)) (n : Nat) : Option Nat :=
  fitLow used ddrBase (ddrBase + s.mem.ddrGib * 2 ^ 30) n

def fitStaging (s : State) (used : List (Nat × Nat)) (d n : Nat) : Option Nat :=
  if unitSt s d == .failed then none
  else fitLow used (stagingBase + d * 0x10000000) (stagingBase + (d + 1) * 0x10000000) n

/-- Place one region (R140). -/
def placeRegion (s : State) (used : List (Nat × Nat)) (pin : Option Nat) (r : RegionReq) : Option Region :=
  let inDdr (spilled : Bool) : Option Region := (fitDdr s used r.size).map fun a =>
    { base := a, size := r.size, kind := r.kind, die := r.die, tier := 1, spilled := spilled, stack := 0xFF, pin := none }
  let inStack : Option Region := (fitStack s used r.die r.size).map fun x =>
    { base := x.1, size := r.size, kind := r.kind, die := r.die, tier := 0, spilled := false, stack := x.2, pin := none }
  match r.kind with
  | 1 => inStack <|> inDdr true
  | 2 => inStack
  | 3 => inDdr false
  | _ => (fitStaging s used r.die r.size).map fun a =>
    { base := a, size := r.size, kind := r.kind, die := r.die, tier := 2, spilled := false, stack := 0xFF, pin := pin }

/-- Place every region in request order. -/
def placeAll (s : State) : List (Nat × Nat) → List (Nat × Nat) → List RegionReq → Option (List Region)
  | _, _, [] => some []
  | used, pins, r :: rs =>
    let pin := if r.kind == 5 then (pins.find? fun p => p.1 == r.die).map Prod.snd else none
    match placeRegion s used pin r with
    | none => none
    | some g =>
      let pins' := match pin with | some i => pins.filter fun p => !(p.1 == r.die && p.2 == i) | none => pins
      (placeAll s ((g.base, g.size) :: used) pins' rs).map (g :: ·)

/-- The checks of R141: a status, or the regions. -/
def admitCheck (s : State) (b : List Byte) : Nat × List Region :=
  let reqs := admitReqs b
  let need (d : Nat) : Nat := (reqs.filter fun r => r.kind == 5 && r.die == d).length
  if !admitShape b then (stRANGE, [])
  else if (domainOf s (admitDomain b)).isSome then (stSTATE, [])
  else if 64 ≤ (s.mem.domains.filter fun (x : Nat × Option (List Region)) => x.2.isSome).length ||
      (List.range 4).any fun d => (freePins s d).length < need d then (stRESOURCE, [])
  else
    let pins := (List.range 4).flatMap fun d => (freePins s d).map fun i => (d, i)
    match placeAll s ((allRegions s).map fun r => (r.base, r.size)) pins reqs with
    | some l => (stOK, l)
    | none => (stCAPACITY, [])

/-- The reply of a placed job (R139). -/
def admitReply (dom : Nat) (l : List Region) : List Byte :=
  leBytes 2 dom ++ leBytes 2 l.length ++ zeros 4 ++ l.flatMap fun r =>
    leBytes 8 r.base ++ leBytes 1 r.tier ++ leBytes 1 (b2n r.spilled) ++ leBytes 1 r.stack ++ zeros 5

def setDomain (s : State) (dom : Nat) (l : Option (List Region)) : State :=
  { s with mem := { s.mem with domains := tset (fun _ => none) s.mem.domains dom l } }

/-- The dies on which regions take pins. -/
def pinDies (l : List Region) : List Nat := (l.filter fun r => r.pin.isSome).map Region.die

/-- The pin of a region is written. -/
def writePin (dom : Nat) (s : State) (r : Region) : State :=
  match r.pin with
  | some i =>
    let p : Pin := {
      base := (r.base - stagingBase - r.die * 0x10000000) / kib64
      size := r.size / kib64
      valid := true
      domain := BitVec.ofNat 12 dom }
    { s with mem := { s.mem with pins := tset (fun _ => {}) s.mem.pins (16 * r.die + i) p } }
  | none => s

/-- A granted range is still being zeroed. -/
def stillZeroing (s : State) (l : List Region) : Bool :=
  l.any fun r => s.mem.zeroing.any fun z => decide (z.1 < r.base + r.size) && decide (r.base < z.1 + z.2)

/-- A JOB_ADMIT goes on: placed once the channel set is chosen, pins written once their dies are ON, answered once
its ranges are zeroed. None means that it has been answered. [DEDUCED: log 114] -/
def admitStep (s : State) (a : Admit) : Option Admit × State :=
  match a.regions with
  | none =>
    if !s.mem.ddrChosen then (some a, s)
    else
      let (st, l) := admitCheck s a.body
      if st != stOK then (none, reply s 0x0501 a.tag st [])
      else
        let s := setDomain s a.domain (some l)
        let s := (pinDies l).foldl (fun s d => if isOn s d then s else (flwWakeCmd s d).2) s
        (some { a with regions := some l }, s)
  | some l =>
    if (pinDies l).any fun d => unitSt s d == .failed then
      (none, reply (setDomain s a.domain none) 0x0501 a.tag stCAPACITY [])
    else if ((pinDies l).all fun d => isOn s d) then
      let s := l.foldl (writePin a.domain) s
      if stillZeroing s l then (some a, s)
      else (none, reply s 0x0501 a.tag stOK (admitReply a.domain l))
    else (some a, s)

/-- Run a JOB_ADMIT as far as it goes: placing it, then pins and the answer. [DEDUCED: log 114] -/
def admitGo (s : State) (a : Admit) : Option Admit × State :=
  match admitStep s a with
  | (some b, s) => if a.regions.isNone && b.regions.isSome then admitStep s b else (some b, s)
  | x => x

def jobAdmitRun (s : State) : State :=
  serve s 0x0501 clsOperator (fun n => decide (8 ≤ n ∧ n ≤ 8 + 16 * 256)) fun s tag b =>
    match admitGo s { domain := admitDomain b, tag := tag, body := b, regions := none } with
    | (some a, s) => { s with mem := { s.mem with admits := s.mem.admits ++ [a] } }
    | (none, s) => s

/-- The waiting admissions go on, in the order of their requests. -/
def jobAdmitResumeRun (s : State) : State :=
  if s.boot.phase != .firmware then s
  else
    let l := s.mem.admits
    l.foldl (fun s a =>
      match admitGo s a with
      | (some b, s) => { s with mem := { s.mem with admits := s.mem.admits ++ [b] } }
      | (none, s) => s) { s with mem := { s.mem with admits := [] } }

/-- The regions of a domain whose admission has been answered. -/
def admitted (s : State) (dom : Nat) : Option (List Region) :=
  if s.mem.admits.any fun a => a.domain == dom && a.regions.isSome then none else domainOf s dom

/-- Uncompleted descriptors or open accumulators of a domain. [DEDUCED: log 115] -/
def domainBusy (s : State) (dom : Nat) : Bool :=
  (s.flow.queues.any fun (x : Nat × Queue) => x.2.domain.toNat == dom && x.2.state != .unbound && x.2.state != .failed &&
    (x.2.head != x.2.tail || !x.2.descs.isEmpty)) ||
  s.ct.any fun (x : Nat × CtEntry) => x.2.state == .opened && x.2.domain.toNat == dom

/-- A queue is unbound. [DEDUCED: log 116] -/
def unbindQueue (s : State) (q : Nat) : State := setQueue s q { queueOf s q with state := .unbound }

/-- A token is unbound: value, poison and mask are cleared. -/
def unbindToken (s : State) (t : Nat) : State := setTok s t {}

/-- The domain's regions, pins, queues, tokens and discarded entries go. -/
def releaseDomain (s : State) (dom : Nat) (l : List Region) : State :=
  let s := { setDomain s dom none with mem := { (setDomain s dom none).mem with
    zeroing := s.mem.zeroing ++ (l.map fun (r : Region) => (r.base, r.size))
    pins := s.mem.pins.filter fun (p : Nat × Pin) => !(p.2.valid && p.2.domain.toNat == dom) } }
  let s := (s.flow.queues.filter fun (x : Nat × Queue) => x.2.state != .failed && x.2.domain.toNat == dom).foldl
    (fun s x => unbindQueue s x.1) s
  let s := (s.flow.tokens.filter fun (x : Nat × Token) => x.2.bound == some (BitVec.ofNat 12 dom)).foldl
    (fun s x => unbindToken s x.1) s
  let s := (s.ct.filter fun (x : Nat × CtEntry) => x.2.state == .discarded && x.2.domain.toNat == dom).foldl
    (fun s x => ctSettle (setCt s x.1 { x.2 with seen := max x.2.seen x.2.expect }) x.1) s
  forEach 4 s offAfterRestart

def jobReleaseRun (s : State) : State :=
  serveNow s 0x0502 clsOperator (· == 4) fun s b =>
    let dom := leAt b 0 2
    if 4096 ≤ dom || leAt b 2 2 != 0 then (stRANGE, [], s)
    else
      match admitted s dom with
      | none => (stSTATE, [], s)
      | some l => if domainBusy s dom then (stSTATE, [], s) else (stOK, [], releaseDomain s dom l)

/-- Free bytes of a tier unit: its size less the regions granted there. [DEDUCED: log 114] -/
def freeIn (s : State) (lo hi : Nat) : Nat :=
  (hi - lo) - (((allRegions s).filter fun r => lo ≤ r.base && r.base < hi).map Region.size).sum

def memQueryRun (s : State) : State :=
  serveNow s 0x0503 clsAny (· == 0) fun s _ =>
    let stk (k : Nat) : Nat := if unitSt s (stackOwner k) == .failed then 0 else freeIn s (k * stackSize) ((k + 1) * stackSize)
    let stg (d : Nat) : Nat := if unitSt s d == .failed then 0
      else freeIn s (stagingBase + d * 0x10000000) (stagingBase + (d + 1) * 0x10000000)
    let z := (s.mem.zeroing.map Prod.snd).sum
    (stOK, (((List.range 8).map stk ++ (List.range 4).map stg ++
      [freeIn s ddrBase (ddrBase + s.mem.ddrGib * 2 ^ 30), z]).flatMap fun n => leBytes 8 n), s)

/-- The zeroing of the oldest released range ends: bytes 0, no poison, granules FRESH. -/
def rangeZeroingRun (s : State) : State :=
  match s.mem.zeroing with
  | [] => s
  | (lo, n) :: rest =>
    let hi := lo + n
    { s with mem := { s.mem with
      zeroing := rest
      cells := tclear s.mem.cells lo hi
      poison := tclear s.mem.poison (lo / 64) (hi / 64)
      unfresh := tclear s.mem.unfresh (lo / 64) (hi / 64) } }

/-! ## Binding (R183, R184) -/

/-- A ring's place: 64-byte aligned, in the staging of the die or in a stack that it owns. -/
def ringPlaceOk (d a : Nat) : Bool :=
  a % 64 == 0 && match tierOf a with
    | .staging e => e == d
    | .stack k => stackOwner k == d
    | _ => false

/-- [DEDUCED: log 116] -/
def queueBindRun (s : State) : State :=
  serveNow s 0x0601 clsOperator (· == 32) fun s b =>
    let dom := leAt b 0 2
    let q := leAt b 2 1
    let fl := leAt b 3 1
    let size := leAt b 4 4
    let ring := leAt b 8 8
    let cq := leAt b 16 8
    let d := q / 16
    if !(dom < 4096 && q < 64 && fl < 4 && 1 ≤ size && size ≤ 65536 && ringPlaceOk d ring && ringPlaceOk d cq &&
        leAt b 26 6 == 0) then (stRANGE, [], s)
    else if (admitted s dom).isNone then (stSTATE, [], s)
    else if (queueOf s q).state != .unbound && (queueOf s q).state != .failed then (stRESOURCE, [], s)
    else if unitSt s d == .failed then (stNOTREADY, [], s)
    else if !(inRegion s dom ring (64 * size) && inRegion s dom cq (32 * size)) then (stAUTH, [], s)
    else
      (stOK, [], setQueue s q { queueOf s q with
        state := .idle
        domain := BitVec.ofNat 12 dom
        ring := ring
        cq := cq
        size := size
        head := 0#32
        tail := 0#32
        prio := fl.testBit 0
        errStop := fl.testBit 1
        waitLimit := BitVec.ofNat 16 (leAt b 24 2)
        wokeLeft := 0
        descs := [] })

/-- A queue that may be unbound (R147). -/
def unbindable (x : Queue) : Bool :=
  x.state == .idle || ((x.state == .stopped || x.state == .halted) && x.descs.all fun d => d.stage != .released)

def queueUnbindRun (s : State) : State :=
  serveNow s 0x0602 clsOperator (· == 4) fun s b =>
    let q := leAt b 0 1
    if 64 ≤ q || leAt b 1 3 != 0 then (stRANGE, [], s)
    else if unitSt s (q / 16) == .failed then (stNOTREADY, [], s)
    else if !unbindable (queueOf s q) then (stSTATE, [], s)
    else (stOK, [], setQueue s q { queueOf s q with
      state := .unbound
      descs := [] })

/-- The tokens of a request. -/
def tokRange (b : List Byte) : List Nat := (List.range (leAt b 4 2)).map (leAt b 2 2 + ·)

def tokRangeOk (b : List Byte) : Bool := 1 ≤ leAt b 4 2 && leAt b 2 2 + leAt b 4 2 ≤ 4096 && leAt b 6 2 == 0

def tokenBindRun (s : State) : State :=
  serveNow s 0x0603 clsOperator (· == 8) fun s b =>
    let dom := leAt b 0 2
    if !(dom < 4096 && tokRangeOk b) then (stRANGE, [], s)
    else if (admitted s dom).isNone then (stSTATE, [], s)
    else if !((tokRange b).all fun t => (tokOf s t).bound.isNone) then (stRESOURCE, [], s)
    else if (tokRange b).any fun t => unitSt s (tokDie t) == .failed then (stNOTREADY, [], s)
    else (stOK, [], (tokRange b).foldl (fun s t => setTok s t { tokOf s t with bound := some (BitVec.ofNat 12 dom) }) s)

def tokenUnbindRun (s : State) : State :=
  serveNow s 0x0604 clsOperator (· == 8) fun s b =>
    if !(leAt b 0 2 == 0 && tokRangeOk b) then (stRANGE, [], s)
    else if (tokRange b).any fun t => unitSt s (tokDie t) == .failed then (stNOTREADY, [], s)
    else if (tokRange b).any fun t => !(waiters s t).isEmpty then (stSTATE, [], s)
    else (stOK, [], (tokRange b).foldl unbindToken s)

/-- The units on the way of firmware's own write that sleep. -/
def loadSleepers (s : State) (a : Nat) : List Nat :=
  match tierOf a with
  | .stack k => sleepers s (stackOwner k) a
  | .staging d => sleepers s d a
  | .ddr => sleepers s (ddrChannel s a / 8 * 2) a
  | _ => []

/-- Wake what such a write needs. -/
def loadWake (s : State) (a : Nat) : State :=
  match tierOf a with
  | .stack k => wakeAll s (stackOwner k) (loadSleepers s a)
  | .staging d => wakeAll s d (loadSleepers s a)
  | .ddr => wakeAll s (ddrChannel s a / 8 * 2) (loadSleepers s a)
  | _ => s

/-- FLOW_LOAD: while a unit on the way sleeps, the request waits for it (R117). [DEDUCED: log 116] -/
def flowLoadRun (s : State) : State :=
  let b := mbxPeek s 16 12
  let a := leAt b 4 8
  if s.boot.phase == .firmware && asked s 0x0605 && inRegion s (leAt b 0 2) a 1 && !(loadSleepers s a).isEmpty then
    loadWake s a
  else
    serveNow s 0x0605 clsOperator (fun n => decide (12 ≤ n ∧ n ≤ 12 + 32704 ∧ n % 64 = 12)) fun s b =>
      let dom := leAt b 0 2
      let a := leAt b 4 8
      let d := b.drop 12
      if !(dom < 4096 && leAt b 2 2 == 0 && a < 2 ^ 44) then (stRANGE, [], s)
      else if (admitted s dom).isNone then (stSTATE, [], s)
      else if !inRegion s dom a d.length then (stAUTH, [], s)
      else
        let (st, s) := writeMem s a d
        (st, [], s)

/-! ## The plane port map (R246, R247) -/

/-- Entry p of a map: its four bytes. -/
def mapBytes (b : List Byte) (p : Nat) : List Byte := slice b (8 + 4 * p) 4

def mapEntryOk (e : List Byte) : Bool :=
  match leAt e 0 1 with
  | 0 => leAt e 1 3 == 0
  | 1 => leAt e 1 1 < 8 && leAt e 2 1 < 64 && leAt e 3 1 < 32
  | 2 => leAt e 1 3 == 0
  | _ => false

def mapEntry (e : List Byte) : MapEntry :=
  if leAt e 0 1 == 1 then
    { kind := 1, boardNo := leAt e 1 1, pos := leAt e 2 1 % 16, branch := leAt e 2 1 / 16, port := leAt e 3 1 }
  else { kind := leAt e 0 1 }

def entryBytes (e : MapEntry) : List Byte :=
  [BitVec.ofNat 8 e.kind, BitVec.ofNat 8 e.boardNo, BitVec.ofNat 8 (e.pos + 16 * e.branch), BitVec.ofNat 8 e.port]

/-- A number for each service place: none is named twice. -/
def servicePlaces (b : List Byte) : List Nat :=
  ((List.range 1152).map (mapBytes b)).filterMap fun e => if leAt e 0 1 == 1 then some (leAt e 1 3) else none

/-- No number of a list stands in it twice. -/
def noRepeat : List Nat → Bool
  | [] => true
  | x :: l => !l.contains x && noRepeat l

def portmapSetRun (s : State) : State :=
  serveNow s 0x0901 clsAdmin (· == 4616) fun s b =>
    if !(leAt b 0 2 == planeNo s && leAt b 2 2 == 0 && (List.range 1152).all fun p => mapEntryOk (mapBytes b p)) then
      (stRANGE, [], s)
    else if !noRepeat (servicePlaces b) then (stRANGE, [], s)
    else if s.ste.move.isSome then (stSTATE, [], s)
    else
      let entries := (List.range 1152).foldl (fun t p => tset (fun _ => {}) t p (mapEntry (mapBytes b p))) []
      let m : PortMap := { plane := leAt b 0 2, seq := toWord (leAt b 4 4), entries := entries }
      (stOK, [], raiseIrq (modSte s fun x => { x with portMap := some m }) 0x47 0 5)

def portmapGetRun (s : State) : State :=
  serveNow s 0x0902 clsAny (· == 0) fun s _ =>
    match s.ste.portMap with
    | none => (stNOTREADY, [], s)
    | some m => (stOK, leBytes 2 m.plane ++ zeros 2 ++ leBytes 4 m.seq.toNat ++
        ((List.range 1152).flatMap fun p => entryBytes (tget (fun _ => {}) m.entries p)), s)

/-! ## The link table (R278, R279) -/

/-- LINK_TABLE_SET: the record is saved, and the reply comes after the save. [DEDUCED: log 117] -/
def linkTableSetRun (s : State) : State :=
  if s.sel.fix.waiter.isSome then s
  else
    serve s 0x0A01 clsAdmin (· == 140) fun s tag b =>
      if !linkTableValid s b then reply s 0x0A01 tag stRANGE []
      else if saveBarred s then reply s 0x0A01 tag stSTATE []
      else fixRequest (modFix s fun x => { x with
        linkNew := some b
        waiter := some (0x0A01, tag) })

/-- The valid record of the slot in force. [DEDUCED: log 117] -/
def linkTableStored (s : State) : Option (List Byte) :=
  if s.sel.fix.none_ then none
  else
    match sectionBytes s s.sel.fix.slotB 6 with
    | some r => if linkTableValid s r then some r else none
    | none => none

/-- [DEDUCED: log 117] -/
def linkTableGetRun (s : State) : State :=
  serveNow s 0x0A02 clsAny (· == 0) fun s _ =>
    match linkTableStored s with
    | some r => (stOK, r, s)
    | none => (stNOTREADY, [], s)

/-- A save ends: a LINK_TABLE_SET whose record the image held is answered. -/
def saveDoneRun (s : State) (ok : Bool) : State :=
  let x := s.sel.fix
  let had := x.saving && x.linkNew == some (slice x.image 974848 140)
  let s := fixSaveEnd s ok
  match x.waiter with
  | some (code, tag) =>
    if had then
      let s := modFix s fun y => { y with
        waiter := none
        linkNew := if ok then y.linkNew else none }
      reply s code tag (if ok then stOK else stSTORE) []
    else s
  | none => s

/-! ## The persistent ring (R410) -/

/-- SILLAGE_READ; NOTREADY while the management domain restarts. [DEDUCED: log 117] -/
def sillageReadRun (s : State) : State :=
  if s.boot.sealOn && s.boot.phase != .firmware && asked s 0x0E01 then
    let (_, tag, _, s) := takeRequest s
    reply s 0x0E01 tag stNOTREADY []
  else
    serveNow s 0x0E01 clsAny (· == 8) fun s b => (stOK, sillageReadBody s (leAt b 0 4) (leAt b 4 2), s)

end Sys2Proof.Machine
end

