-- ==== Sys2Proof/Machine/PageStat.lean ====
section
/-!
DEFINITION. `PAGE_STAT[7:0]` of every page (R42 and the pages' chapters), the pages that exist (R61), the
instance that die-wide and module-wide registers fold to, and the record of a refused access (R66).
-/

namespace Sys2Proof.Machine

/-- The unit state of a page: `on` for blocks of the AON domain; a planning array has its own (R42, R43). -/
def pageUnit (s : State) (ty inst : Nat) : PState :=
  match pageDie ty inst with
  | none => .on
  | some d =>
    let st := unitSt s d
    if ty == 0x47 && st == .on && !(tget (fun _ => false) s.pwr.engOn (256 * 0x47 + inst)) then
      (if phaseOf s inst .plnUngate then .waking else .idle)
    else st

/-- `CLK.PAGE_STAT[7:0]` while the die is ON. [DEDUCED: log 118] -/
def clkState (s : State) : Nat := if !s.pwr.ref156 then 0x12 else if s.pwr.aonInt then 0x11 else 0x10

/-- `SYS.PAGE_STAT[7:0]`: BOOTING, RUNNING or DEGRADED. -/
def sysState (s : State) : Nat := if !s.boot.sealOn then 0x10 else if anyFailed s then 0x12 else 0x11

/-- `PWR.PAGE_STAT[7:0]`: NORMAL, CAPPED or THERMAL. [DEDUCED: log 118] -/
def pwrState (s : State) : Nat := if getRegN s Reg.PWR_THROTTLE % 16 != 0 then 0x12 else if s.pwr.capped then 0x11 else 0x10

/-- `HST.PAGE_STAT[7:0]`: PORT_DOWN, NARROW or FULL. -/
def hstState (s : State) : Nat := 0x10 + fld (getReg s Reg.HST_PORT_STAT) 0 2

/-- `EVR.PAGE_STAT[7:0]`: UNBASED, RECORDING or FLOODED. -/
def evrState (s : State) : Nat :=
  if !(bitOf (getReg s Reg.EVR_TIME_STAT) 0) then 0x10
  else if 64 ≤ s.evr.fifo.length || !s.evr.losses.isEmpty then 0x12 else 0x11

/-- `DMC.PAGE_STAT[7:0]`: TRAINING until the set is chosen, then READY, DEGRADED after a channel of the set
failed, or with a set of 8 while all 16 channels are populated; OUT_OF_SERVICE without a set (R126, R128). -/
def dmcState (s : State) (m : Nat) : Nat :=
  if !s.mem.ddrChosen then 0x10
  else if s.mem.ddrSet == 0 then 0x13
  else if s.mem.ddrSet != 3 && ((List.range 16).all fun c => !(chanOf s c).dimms.isEmpty) then 0x12
  else if (List.range 8).any fun c => (setChannels s.mem.ddrSet).contains (8 * m + c) && (chanOf s (8 * m + c)).train == 4 then 0x12
  else 0x11

/-- FREE, BUSY, HELD, TESTING or FAULTY of an engine (R212, R240, R263 and the CPY and ATM pages). -/
def engineState (s : State) (pg inst : Nat) : Nat :=
  let n := enginesPer pg
  let x := engOf s pg inst
  if x.testing then 0x13
  else if x.faulty then 0x14
  else if (engineJob s pg (inst / n) (inst % n)).isSome || (pg == 0x13 && heldByMirror s (inst / n) (inst % n)) then 0x11
  else if holdOf s pg inst then 0x12 else 0x10

/-- The block state code of a page whose unit is ON. -/
def blockState (s : State) (ty inst : Nat) : Nat :=
  match ty with
  | 0x01 => sysState s | 0x02 => pwrState s | 0x03 => clkState s | 0x04 => bootState s | 0x05 => protState s
  | 0x06 => hstState s | 0x07 => evrState s | 0x08 => crcState s inst | 0x0A => rcode s.rdn.st
  | 0x11 => engineState s 0x11 inst | 0x12 => engineState s 0x12 inst | 0x13 => engineState s 0x13 inst
  | 0x16 => engineState s 0x16 inst | 0x47 => engineState s 0x47 inst
  | 0x21 => dmcState s inst | 0x30 => linkState s inst | 0x31 => fppState s inst | 0x40 => lpeState s inst
  | 0x41 => pliState s | 0x42 => acdState s | 0x43 => fslState s inst | 0x44 => afeState s
  | 0x45 => calState s | 0x46 => fixState s | 0x48 => bltState s
  | _ => 0x10

/-- `PAGE_STAT[7:0]` (R42). -/
def pageStat (s : State) (ty inst : Nat) : Nat :=
  match pageUnit s ty inst with
  | .on => blockState s ty inst
  | p => pcode p

/-- A page exists (R61). -/
def pageExists (ty inst : Nat) : Bool := inst < pageInstances ty

/-- The page is in a soft reset (R64). -/
def inSrst (s : State) (ty inst : Nat) : Bool := capSrst ty && tget (fun _ => false) s.hst.srst (pageKey ty inst)

/-- The instance that holds a register: die-wide and module-wide offsets fold to the first one (R213, R241,
R264, R341 and the XBR and DMC pages). -/
def canonInst (ty inst ofs : Nat) : Nat :=
  match ty with
  | 0x11 => if 0x100 ≤ ofs && ofs ≤ 0x12C then 32 * (inst / 32) else inst
  | 0x12 => if 0x100 ≤ ofs && ofs ≤ 0x10C then 16 * (inst / 16) else inst
  | 0x40 => if 0x100 ≤ ofs && ofs ≤ 0x194 then 0 else inst
  | 0x47 => if 0x100 ≤ ofs && ofs ≤ 0x10C then 0 else inst
  | 0x32 => if 0x100 ≤ ofs && ofs ≤ 0x110 then 0 else inst
  | _ => inst

/-- The interrupt bits of an instance: die-wide and module-wide bits exist on the first one only. -/
def irqBits (ty inst : Nat) : Nat :=
  match ty with
  | 0x11 => if inst % 32 == 0 then 0xF else 0x3
  | 0x12 => if inst % 16 == 0 then 0xF else 0x7
  | 0x40 => if inst == 0 then 0x1F else 0x7
  | 0x47 => if inst == 0 then 0x3F else 0x1F
  | 0x32 => if inst == 0 then 1 else 0
  | _ => irqMask ty

/-- A refused access is recorded in a page (R66): STATUS, STATE and DETAIL in `ERR_CODE`, and `ERR_COUNT`. [DEDUCED: log 27] -/
def refuse (s : State) (ty inst st det : Nat) : State :=
  let k := pageKey ty inst
  bumpReg (setRegN s (k + 0x01C) (det + pageStat s ty inst * 2 ^ 8 + st * 2 ^ 16)) (k + 0x020) 1

/-- The number of a requester class (R63). -/
def classOf : Requester → Nat
  | .admin => 0 | .operator => 1 | .telemetry => 2 | .firmware => 3 | .flow => 4

/-- A class holds the read or the write right of a page type; firmware holds every right until the first
seal (R103). -/
def hasRight (s : State) (cls ty : Nat) (write : Bool) : Bool :=
  (cls == 3 && !s.boot.sealOn) || (rightsOf s ty).getLsbD (2 * cls + b2n write)

end Sys2Proof.Machine
end

