-- ==== Sys2Proof/Machine/DdrOps.lean ====
section
/-!
DEFINITION. DDR5 training, the choice of the channel set, run-time failures (R123 to R128) and the patrol
scrubber (R131).
-/

namespace Sys2Proof.Machine

def setChan (s : State) (c : Nat) (x : Chan) : State :=
  { s with mem := { s.mem with chans := tset (fun _ => {}) s.mem.chans c x } }

/-- The lowest-numbered populated channel, whose slot 0 is the reference (R124). -/
def ddrReference (s : State) : Option Chan :=
  ((List.range 16).find? fun c => !(chanOf s c).dimms.isEmpty).map (chanOf s)

/-- A DIMM matches the reference DIMM in capacity, ranks, width and density. -/
def dimmLike (a b : Dimm) : Bool := a.gib == b.gib && a.ranks == b.ranks && a.width == b.width && a.dens == b.dens

/-- A channel's DIMMs match the reference (R124). -/
def chanMatches (s : State) (c : Nat) : Bool :=
  match ddrReference s with
  | none => true
  | some r =>
    let x := (chanOf s c).dimms
    x.length == r.dimms.length && x.all fun d => match r.dimms.head? with | some h => dimmLike d h | none => true

/-- A channel trained and matches. [DEDUCED: log 123] -/
def chanGood (s : State) (c : Nat) : Bool :=
  let x := chanOf s c
  !x.dimms.isEmpty && x.train == 1 && chanMatches s c

/-- `CH_STAT` of a channel (R123 to R128). -/
def chanCode (s : State) (c : Nat) : Nat :=
  let x := chanOf s c
  if x.dimms.isEmpty then 0
  else
    match x.train with
    | 2 => 3 | 3 => 4 | 4 => 6
    | 1 =>
      if !chanMatches s c then 5
      else if s.mem.ddrChosen && (setChannels s.mem.ddrSet).contains c then 1 else 2
    | _ => 0

/-- The data rate (R124): 6400 or 5600 by the reference's count, lowered to what every good channel allows. -/
def ddrRate (s : State) : Nat :=
  let base := match ddrReference s with | some r => if r.dimms.length == 1 then 6400 else 5600 | none => 0
  (List.range 16).foldl (fun m c =>
    if chanGood s c then (chanOf s c).dimms.foldl (fun m d => min m d.rate) m else m) base

/-- The channel set is chosen when the last channel has ended (R126). -/
def chooseSet (s : State) : State :=
  let set_ := ([3, 1, 2].find? fun k => (setChannels k).all (chanGood s)).getD 0
  let refGib := match ddrReference s with | some r => (r.dimms.map Dimm.gib).sum | none => 0
  let rate := if set_ == 0 then 0 else ddrRate s
  let s := { s with mem := { s.mem with
    ddrChosen := true
    ddrSet := set_
    ddrGib := (setChannels set_).length * refGib
    ddrMts := rate } }
  forEach 2 s fun s m =>
    let s := if set_ == 0 then setRegN s (pageKey 0x21 m + 0x01C) (0x13 * 2 ^ 8 + stCAPACITY * 2 ^ 16) else s
    raiseIrqArgs s 0x21 m 3 (if set_ == 0 then stCAPACITY else 0) [set_]

/-- The next channel's turn. -/
def nextChannel (s : State) : State :=
  let s := { s with mem := { s.mem with nextChan := s.mem.nextChan + 1 } }
  if s.mem.nextChan == 16 then chooseSet s else s

/-- The channel's turn has come and its controller is up, or FAILED. -/
def chanTurn (s : State) : Bool :=
  let st := unitSt s (dieDMC + s.mem.nextChan / 8)
  s.mem.nextChan < 16 && (st == .on || st == .failed)

/-- A channel's SPD is read: an empty channel takes no time, an unsupported DIMM marks the channel, a supported
one starts its training (R123, R125). A channel of a FAILED controller cannot train. -/
def chanTrainRun (s : State) (dimms : List Dimm) : State :=
  let c := s.mem.nextChan
  if !chanTurn s || !(chanOf s c).dimms.isEmpty then s
  else if dimms.isEmpty then nextChannel s
  else if unitSt s (dieDMC + c / 8) == .failed then nextChannel (setChan s c { dimms := dimms, train := 2 })
  else if dimms.any fun d => !d.supported then nextChannel (setChan s c { dimms := dimms, train := 3 })
  else setChan s c { dimms := dimms, train := 0 }

/-- A channel's training ends, good or failed after its one retry (R125). [DEDUCED: log 123] -/
def chanEndRun (s : State) (good : Bool) : State :=
  let c := s.mem.nextChan
  if !chanTurn s || (chanOf s c).dimms.isEmpty then s
  else
    let s := setChan s c { chanOf s c with train := if good then 1 else 2 }
    nextChannel (if good then s else event s 0x2120 0x21 (c / 8) 0 [c])

/-- A channel of the set stops responding (R128). [DEDUCED: log 123] -/
def chanFailRun (s : State) (c : Nat) : State :=
  if !s.mem.ddrChosen || !(setChannels s.mem.ddrSet).contains c || (chanOf s c).train == 4 then s
  else raiseIrqArgs (setChan s c { chanOf s c with train := 4 }) 0x21 (c / 8) 4 0 [c]

/-! ## The patrol scrubber (R129 to R131) -/

/-- The page of a scrubbed tier: type, instance, and its `SCRUB_STAT` offset. -/
def scrubPage : ScrubTier → Nat × Nat × Nat
  | .staging d => (0x14, d.val, 0x054)
  | .stack k => (0x20, k.val, 0x058)
  | .ddr5 m => (0x21, m.val, 0x06C)

/-- The address of a granule of a tier; DDR5 granules count through the whole region. -/
def scrubAddr (t : ScrubTier) (g : Nat) : Nat :=
  match t with
  | .staging d => stagingBase + d.val * 0x10000000 + 64 * g
  | .stack k => k.val * stackSize + 64 * g
  | .ddr5 _ => ddrBase + 64 * g

/-- The granule lies in the tier: for DDR5, in a channel of the controller. -/
def scrubIn (s : State) (t : ScrubTier) (g : Nat) : Bool :=
  match t with
  | .staging _ => 64 * g < 0x10000000
  | .stack _ => 64 * g < stackSize
  | .ddr5 m => s.mem.ddrChosen && 64 * g < s.mem.ddrGib * 2 ^ 30 && ddrChannel s (scrubAddr t g) / 8 == m.val

/-- A scrub visit: the finding corrects or poisons the granule, and the last visit of a pass ends it. [DEDUCED: log 123] -/
def scrubRun (s : State) (t : ScrubTier) (g : Nat) (f : ScrubFinding) (passEnd late : Bool) : State :=
  let (ty, i, o) := scrubPage t
  if pageUnit s ty i != .on || !enOf s ty i || !scrubIn s t g then s
  else
    let a := scrubAddr t g
    let s := match f with
      | .clean => s
      | .corrected => eccCorrected s a
      | .uncorrectable => if poisoned s a then s else eccUncorrectable s a
    if !passEnd then s
    else
      let k := pageKey ty i + o
      let s := setRegN s k ((fld (getReg s k) 0 16 + 1) % 2 ^ 16 + 2 ^ 16 * b2n late)
      raiseIrq s ty i 2

end Sys2Proof.Machine
end

