-- ==== Sys2Proof/Machine/RegView.lean ====
section
/-!
DEFINITION. What each register reads as (R4, R63 and the pages' tables): the common header, the registers whose
value follows from the machine's state, the index windows, and the stored words.
-/

namespace Sys2Proof.Machine

/-- Bits of a list of states, each `w` bits wide. -/
def packStates (s : State) (base n w : Nat) : Nat :=
  (List.range n).foldl (fun m i => m + pcode (unitSt s (base + i)) * 2 ^ (w * i)) 0

/-- A mask of the numbers below `n` that satisfy a test. -/
def maskOf (n : Nat) (f : Nat → Bool) : Nat := (List.range n).foldl (fun m i => if f i then m + 2 ^ i else m) 0

/-- Word i of a 384-bit hash: word 0 holds its first four bytes (R106). [DEDUCED: log 121] -/
def hashWord (h : BitVec 384) (i : Nat) : Nat := h.toNat / 2 ^ (32 * (11 - i)) % 2 ^ 32

/-- A value that time decides while an engine runs: any number below `n` (log 3). [DESIGN CHOICE: log 119] -/
def freeBelow (s : State) (k n : Nat) : Nat := (Config.freeBits (s.fresh + k)).toNat % max n 1

def viewPWR (s : State) (o : Nat) : Option Nat :=
  match o with
  | 0x040 => some (packStates s 0 4 4)
  | 0x050 => some (packStates s dieHUB 4 4)
  | 0x054 => some (packStates s dieSTK 8 4)
  | 0x058 => some (packStates s dieDMC 2 4)
  | 0x05C => some (packStates s dieIOD 8 4)
  | 0x060 => some (packStates s dieAFE 4 4)
  | 0x064 =>
    let (u, busy) := match s.pwr.phase with | some p => (p.unit, true) | none => (0, false)
    some (min s.pwr.wakeQ.length 15 + 256 * u + (if busy then 2 ^ 13 * freeBelow s 0 8 + 2 ^ 16 else 0))
  | 0x074 => some s.pwr.rails.toNat
  | 0x07C => some ((tempMax s).2 + 256 * (tempMax s).1)
  | 0x090 => some (s.pwr.optime.toNat % 2 ^ 32)
  | 0x094 => some (s.pwr.optime.toNat / 2 ^ 32)
  | 0x098 => some s.pwr.pcycle.toNat
  | 0x09C => some (maskOf 5 fun u => unitSt s u == .zeroing)
  | _ => none

/-- [DEDUCED: log 118; DESIGN CHOICE: log 119] -/
def viewCLK (s : State) (o : Nat) : Option Nat :=
  match o with
  | 0x040 => some (b2n s.pwr.ref25 + 2 * b2n s.pwr.ref156 + 4 * b2n s.pwr.aonInt)
  | 0x044 =>
    let sds := maskOf 8 fun i => s.pwr.ref156 && isOn s (dieIOD + i)
    let any (base n : Nat) : Bool := (List.range n).any fun i =>
      let st := unitSt s (base + i)
      st == .on || st == .idle
    some (sds + 2 ^ 8 * b2n (any 0 4) + 2 ^ 9 * b2n (any dieHUB 4) + 2 ^ 10 * b2n (any dieSTE 1) + 2 ^ 11 * b2n (any dieAFE 4) +
      2 ^ 12 * b2n s.pwr.aonInt)
  | 0x04C => some (freeBelow s 0 (2 ^ 16))
  | _ => none

/-- A page raises a notification: `IRQ_STAT` AND `IRQ_EN` is not 0. -/
def pagePending (s : State) (ty inst : Nat) : Bool := pendingOf s ty inst != 0#32

def viewHST (s : State) (o : Nat) : Option Nat :=
  if 0x070 ≤ o && o ≤ 0x08C then
    let w := (o - 0x070) / 4
    some (maskOf 32 fun b => (List.range (pageInstances (32 * w + b))).any (pagePending s (32 * w + b)))
  else if 0x094 ≤ o && o ≤ 0x0B0 then
    let w := (o - 0x094) / 4
    let ty := fld (getReg s Reg.HST_IRQ_INST_SEL) 0 8
    some (maskOf 32 fun b => pageExists ty (32 * w + b) && pagePending s ty (32 * w + b))
  else
    let x := sessOf s (fld (getReg s Reg.HST_SESS_SEL) 0 3)
    match o with
    | 0x044 => some (Config.moduleMac.toNat % 2 ^ 32)
    | 0x048 => some (Config.moduleMac.toNat / 2 ^ 32)
    | 0x050 => some (maskOf 8 fun i => (sessOf s i).isOpen)
    | 0x0B8 => some (if x.isOpen then x.cls + 4 * b2n x.notify + 8 + 2 ^ 16 * x.sid.toNat else 0)
    | 0x0BC => some x.h.toNat
    | _ => none

def viewSYS (s : State) (o : Nat) : Option Nat :=
  match o with
  | 0x044 => some (maskOf 32 fun u => unitSt s u != .failed)
  | 0x048 => some (b2n s.hst.ready)
  | _ => none

def viewBOOT (s : State) (o : Nat) : Option Nat :=
  if 0x060 ≤ o && o ≤ 0x08C then some (hashWord identHash ((o - 0x060) / 4))
  else if 0x094 ≤ o && o ≤ 0x0C0 then
    some (hashWord (tget (fun _ => 0#384) s.boot.meas (fld (getReg s Reg.BOOT_MEAS_SEL) 0 2)) ((o - 0x094) / 4))
  else if o == 0x04C then some (fld (getReg s Reg.BOOT_SVN) 0 8 + 256 * s.otp.floor)
  else none

/-- [DEDUCED: log 121] -/
def viewPROT (s : State) (o : Nat) : Option Nat :=
  if 0x058 ≤ o && o ≤ 0x084 then
    some (if s.boot.sealOn then hashWord (setupHash s.boot.inForce) ((o - 0x058) / 4) else 0)
  else
    match o with
    | 0x040 => some (b2n s.boot.sealOn + 2 * b2n s.boot.staged)
    | 0x048 => some (rightsOf s (fld (getReg s Reg.PROT_RIGHTS_SEL) 0 8)).toNat
    | 0x050 =>
      let k := setupKey s.boot.inForce (fld (getReg s Reg.PROT_KEY_SEL) 0 3)
      some (k.maxClass.toNat + 4 * b2n k.valid)
    | 0x054 => some 0
    | _ => none

/-- [DEDUCED: log 124] -/
def viewSTG (s : State) (d o : Nat) : Option Nat :=
  let p := pinOf s d (fld (getReg s (Reg.at Reg.STG_PIN_SEL d)) 0 4)
  match o with
  | 0x040 => some (liveAcc s d + 2 ^ 16 * livePins s d)
  | 0x060 => some p.base
  | 0x064 => some p.size
  | 0x068 => some (b2n p.valid + 2 ^ 16 * p.domain.toNat)
  | _ => none

def viewSTK (s : State) (k o : Nat) : Option Nat :=
  match o with
  | 0x05C => some (tget (fun _ => 0) s.mem.traffic k / 2 ^ 30 % 2 ^ 32)
  | 0x060 => some (tget (fun _ => 0) s.mem.traffic (8 + k) / 2 ^ 30 % 2 ^ 32)
  | _ => none

def viewDMC (s : State) (m o : Nat) : Option Nat :=
  match o with
  | 0x040 => some ((List.range 8).foldl (fun n c => n + chanCode s (8 * m + c) * 16 ^ c) 0)
  | 0x044 => some s.mem.ddrSet
  | 0x048 => some s.mem.ddrMts
  | 0x04C => some s.mem.ddrGib
  | 0x054 =>
    let ds := (chanOf s (8 * m + fld (getReg s (Reg.at Reg.DMC_CH_SEL m)) 0 3)).dimms
    match ds.head? with
    | none => some 0
    | some d => some (ds.length + 4 * d.width.toNat + 2 ^ 4 * d.ranks.toNat + 2 ^ 8 * (d.gib % 512) + 2 ^ 17 * d.dens.toNat)
  | _ => none

/-- The state codes of R147. -/
def qcode : QState → Nat
  | .unbound => 0x10 | .idle => 0x11 | .running => 0x12 | .halted => 0x13 | .stopped => 0x14 | .failed => 0x15

/-- The registers of a queue, by offset within its group. -/
def viewQueue (x : Queue) (o : Nat) : Nat :=
  match o with
  | 0x00 => b2n x.prio + 2 * b2n x.errStop + 2 ^ 16 * x.domain.toNat
  | 0x04 => x.ring % 2 ^ 32
  | 0x08 => x.ring / 2 ^ 32
  | 0x0C => x.cq % 2 ^ 32
  | 0x10 => x.cq / 2 ^ 32
  | 0x14 => x.size
  | 0x18 => x.tail.toNat
  | 0x1C => x.head.toNat
  | 0x20 => x.done.toNat
  | 0x28 => qcode x.state + 2 ^ 8 * min 255 (x.descs.filter fun d => d.stage == .released).length
  | 0x2C => x.lastErr.toNat
  | 0x30 => x.lastIdx.toNat
  | 0x34 => x.lastTag.toNat
  | 0x38 => x.waitLimit.toNat
  | _ => 0

/-- The token of `TOK_SEL`. -/
def selTok (s : State) (d : Nat) : Nat := 1024 * d + fld (getReg s (Reg.at Reg.SCH_TOK_SEL d)) 0 10

def viewSCH (s : State) (d o : Nat) : Option Nat :=
  if 0x400 ≤ o && o < 0x800 then some (viewQueue (queueOf s (16 * d + (o - 0x400) / 0x40)) (o % 0x40))
  else
    let t := selTok s d
    let x := tokOf s t
    match o with
    | 0x040 => some 0
    | 0x044 => some 0
    | 0x048 => some 0
    | 0x050 => some x.value.toNat
    | 0x054 =>
      some ((x.bound.getD 0#12).toNat + 2 ^ 12 * b2n x.bound.isSome + 2 ^ 13 * b2n x.poison + 2 ^ 16 * x.src.toNat)
    | 0x058 => some (min 255 (waiters s t).length)
    | 0x05C => some (s.ns.toNat % 2 ^ 32)
    | 0x060 => some (s.ns.toNat / 2 ^ 32)
    | 0x064 => some (s.flow.windows.filter fun w => w.die == d).length
    | 0x070 => some (maskOf 16 fun q => (queueOf s (16 * d + q)).state == .halted)
    | 0x074 => some (b2n (issueHalf s d))
    | _ => none

/-- The descriptor that an engine page shows, with its queue. -/
def pageJob (s : State) (ty inst : Nat) : Option (Nat × Desc) :=
  engineJob s ty (inst / enginesPer ty) (inst % enginesPer ty)

/-- `CUR_TAG` and `CUR_QUEUE`: 0 until the engine has completed a descriptor, then any value while it has none.
[DEDUCED: log 120] -/
def curTag (s : State) (ty inst count : Nat) : Nat :=
  match pageJob s ty inst with
  | some (_, d) => dTag d
  | none => if getReg s (pageKey ty inst + count) == 0#32 then 0 else freeBelow s 0 (2 ^ 32)

/-- [DEDUCED: log 120] -/
def curQueue (s : State) (ty inst count : Nat) : Nat :=
  match pageJob s ty inst with
  | some (q, _) => q
  | none => if getReg s (pageKey ty inst + count) == 0#32 then 0 else freeBelow s 1 64

def viewRED (s : State) (i o : Nat) : Option Nat :=
  let d := i / 32
  let n := 2048 * d + fld (getReg s (Reg.at Reg.RED_CT_SEL (32 * d))) 0 11
  let e := ctOf s n
  let count (st : CtState) : Nat := (s.ct.filter fun x => x.1 / 2048 == d && x.2.state == st).length
  match o with
  | 0x040 => some (curTag s 0x11 i 0x050)
  | 0x044 => some (curQueue s 0x11 i 0x050)
  | 0x100 => some (count .opened % 4096 + 2 ^ 16 * (count .discarded % 4096))
  | 0x108 =>
    some ((match e.state with | .free => 0 | .opened => 1 | .discarded => 2) + 4 * b2n e.isInt + 16 * (e.op % 16) +
      2 ^ 16 * e.domain.toNat)
  | 0x10C => some (e.acc % 2 ^ 32)
  | 0x110 => some (e.acc / 2 ^ 32 % 2 ^ 12)
  | 0x114 => some (e.count % 2 ^ 27)
  | 0x118 => some (e.expect % 2 ^ 16 + 2 ^ 16 * (e.seen % 2 ^ 16))
  | 0x11C => some (e.arrived % 2 ^ 16)
  | 0x120 => some e.doneTok.toNat
  | _ => none

def viewOPT (s : State) (i o : Nat) : Option Nat :=
  match o with
  | 0x040 => some (curTag s 0x12 i 0x058)
  | 0x044 => some (curQueue s 0x12 i 0x058)
  | 0x048 => (pageJob s 0x12 i).map (fun _ => (optOf s i).tile % 2 ^ 26 + 2 ^ 31 * b2n (optOf s i).pass2) <|> some 0
  | 0x04C => (pageJob s 0x12 i).map (fun j => bodyCycles j.2 (optOf s i) % 256) <|> some 0
  | 0x10C => some ((releasedOn s (i / 16)).filter fun x => x.2.copyEng.isSome && !x.2.mirrorOff).length
  | _ => none

def viewCPY (s : State) (i o : Nat) : Option Nat :=
  match o with
  | 0x040 => some (curTag s 0x13 i 0x050)
  | 0x044 => some (curQueue s 0x13 i 0x050)
  | _ => none

/-- [DESIGN CHOICE: log 119] -/
def viewATM (s : State) (i o : Nat) : Option Nat :=
  match o with
  | 0x040 => some (curTag s 0x16 i 0x050)
  | 0x044 => some (match pageJob s 0x16 i with | some (_, d) => freeBelow s 1 (min 64 (leAt d.raw 36 2)) | none => 0)
  | _ => none

/-- The entries of a kind in the plane port map. -/
def mapCount (s : State) (kind : Nat) : Nat :=
  match s.ste.portMap with
  | none => 0
  | some m => ((List.range 1152).filter fun p => (tget (fun _ => {}) m.entries p : MapEntry).kind == kind).length

/-- [DESIGN CHOICE: log 119] -/
def viewPLN (s : State) (i o : Nat) : Option Nat :=
  match o with
  | 0x040 => some (curTag s 0x47 i 0x050)
  | 0x044 => some (curQueue s 0x47 i 0x050)
  | 0x048 => some (if (pageJob s 0x47 i).isSome then
      freeBelow s 1 8 + 2 ^ 8 * freeBelow s 2 256 + 2 ^ 16 * freeBelow s 3 2048 else 0)
  | 0x04C => some (if (pageJob s 0x47 i).isSome then freeBelow s 1 (2 ^ 32) else 0)
  | 0x100 => some (b2n s.ste.portMap.isSome + 2 * mapCount s 0 + 2 ^ 12 * mapCount s 1)
  | 0x104 => some (match s.ste.portMap with | some m => m.seq.toNat | none => 0)
  | 0x108 => some (match s.ste.portMap with | some m => m.plane | none => 0)
  | 0x10C => some s.ste.present.number.toNat
  | _ => none

/-- [DEDUCED: log 124] -/
def viewLNK (s : State) (n o : Nat) : Option Nat :=
  let l := linkOf s n
  let up := l.st == .up || l.st == .retraining
  let e := fld (getReg s (Reg.at Reg.LNK_PART_SEL n)) 0 4
  let owed (p : Nat) : Nat := tget (fun _ => 0) l.owed p % 4096
  match o with
  | 0x040 =>
    some (l.lanes.toNat + 2 ^ 4 * laneCount l.lanes + 2 ^ 8 * (l.peerPos % 16) + 2 ^ 12 * (l.peerLink % 64) +
      2 ^ 18 * (l.peerBoard % 8) + 2 ^ 24 * b2n (up && l.peerPos == partnerPos s))
  | 0x064 => some (partOf l e).toNat
  | 0x068 => some (owed (1 + e))
  | 0x06C => some (partSlots l 17 + 2 ^ 16 * owed 17)
  | 0x070 => some (l.txBytes / 2 ^ 30 % 2 ^ 32)
  | 0x074 => some (l.rxBytes / 2 ^ 30 % 2 ^ 32)
  | 0x078 => some l.test
  | 0x07C => some (if l.test == 0 then 0 else freeBelow s 0 (2 ^ 32))
  | _ => none

def viewFPP (s : State) (p o : Nat) : Option Nat :=
  let x := portOf s p
  let b := fld (getReg s (Reg.at Reg.FPP_BR_SEL p)) 0 2
  match o with
  | 0x044 => some ((portMac p).toNat % 2 ^ 32)
  | 0x048 => some ((portMac p).toNat / 2 ^ 32)
  | 0x04C => some (branchStat s p)
  | 0x060 => some (tget (fun _ => 0#32) x.macLo b).toNat
  | 0x064 => some (tget (fun _ => 0#32) x.macHi b).toNat
  | 0x068 => some (tget (fun _ => 0) x.brTx b % 2 ^ 32)
  | 0x06C => some (tget (fun _ => 0) x.brTx b / 2 ^ 32 % 2 ^ 32)
  | 0x070 => some (tget (fun _ => 0) x.brRx b % 2 ^ 32)
  | 0x074 => some (tget (fun _ => 0) x.brRx b / 2 ^ 32 % 2 ^ 32)
  | 0x0A4 => some x.noWin.length
  | 0x0A8 => some x.test
  | 0x0AC => some (if x.test == 0 then 0 else freeBelow s 0 (2 ^ 32))
  | _ => none

/-- `ROUTE` of the selected peer: as written, with the intermediate in use and the mode. -/
def routeReg (s : State) (p : Nat) : Nat :=
  let r := routeOf s p
  let via := if 16 ≤ r then r - 16 else 0xF
  let mode := if r == 1 then 3 else if r == 2 then 0 else if 16 ≤ r then 1 else 2
  routeCfg s p + 2 ^ 8 * via + 2 ^ 12 * mode

def viewXBR (s : State) (h o : Nat) : Option Nat :=
  let p := fld (getReg s Reg.XBR_ROUTE_SEL) 0 4
  match o with
  | 0x040 => some (tget (fun _ => 0) s.board.transit h / 2 ^ 30 % 2 ^ 32)
  | 0x104 => some (reachMask s)
  | 0x10C => some (routeReg s p)
  | 0x110 => some (peerReach s p).toNat
  | _ => none

def viewPLI (s : State) (o : Nat) : Option Nat :=
  let t := tileOf s (fld (getReg s Reg.PLI_TILE_SEL) 0 6)
  match o with
  | 0x040 => some (s.ste.lanes.toNat + 2 ^ 4 * laneCount s.ste.lanes + 2 ^ 8 * b2n (planeUp s && holdsClaim s))
  | 0x044 => some (tileMask s Tile.lost % 2 ^ 32)
  | 0x048 => some (tileMask s Tile.lost / 2 ^ 32)
  | 0x04C => some (tileMask s Tile.parked % 2 ^ 32)
  | 0x050 => some (tileMask s Tile.parked / 2 ^ 32)
  | 0x058 => some t.seq.toNat
  | 0x05C => some (t.actSeq.toNat % 2 ^ 24 + 2 ^ 24 * t.actSrc.toNat)
  | _ => none

/-- [DEDUCED: log 124] -/
def viewLPE (s : State) (e o : Nat) : Option Nat :=
  let k := fld (getReg s Reg.LPE_SLOT_SEL) 0 15
  let a := k / 4
  if 0x104 ≤ o && o ≤ 0x12C || o == 0x148 then some (slotReg s k o).toNat
  else if 0x180 ≤ o && o ≤ 0x18C then some (jogCount s ((o - 0x180) / 4)).toNat
  else
    match o with
    | 0x040 => some (4 * (engineAxes s e).length)
    | 0x130 => some (lstat s k)
    | 0x134 => some (slotOf s k).integ.toNat
    | 0x138 => some (slotOf s k).r.toNat
    | 0x13C => some (slotOf s k).u.toNat
    | 0x140 => some (axisOf s a).uOut.toNat
    | 0x144 => some (axCode s a)
    | _ => none

def viewACD (s : State) (o : Nat) : Option Nat :=
  let m := fld (getReg s Reg.ACD_MIR_SEL) 0 12
  match o with
  | 0x040 => some (service s)
  | 0x044 => some s.ste.present.number.toNat
  | 0x04C => some (curStat s)
  | 0x050 => some (accCounts s)
  | 0x078 => some (qStat s)
  | 0x0AC => some (genBusy s)
  | 0x0B4 => some (mirStat s m)
  | 0x0B8 => some (axisOf s (2 * m)).trim.toNat
  | 0x0BC => some (axisOf s (2 * m + 1)).trim.toNat
  | _ => none

/-- The loop of `MZI_SEL`. -/
def selLoop (s : State) (p : Nat) : Nat := 6 * p + fld (getReg s (Reg.at Reg.FSL_MZI_SEL p)) 0 3

/-- The cage temperature in °C, between two integers open (R344). -/
def cageDegC (s : State) (p : Nat) : Int :=
  openDiv 7 (Int.ofNat (channelOf s (tsnsChan p)).code * 100000 - 27315 * 65535) 6553500

def viewFSL (s : State) (p o : Nat) : Option Nat :=
  let l := selLoop s p
  let x := loopOf s l
  match o with
  | 0x044 =>
    some (b2n (cagePresent s p) + 2 * (fselTx s p % 4) + 8 * (fselRx s p % 4) + 2 ^ 8 * unsignedOf 8 (cageDegC s p))
  | 0x04C => some (unsignedOf 16 (loopOf s (6 * p)).af + 2 ^ 16 * unsignedOf 16 (loopOf s (6 * p + 3)).af)
  | 0x054 => some (b2n x.en)
  | 0x058 => some (loopStat s l)
  | 0x05C => some (dithFreq s l + 2 ^ 16 * x.amp)
  | 0x060 => some x.bw
  | 0x064 => some x.code
  | 0x068 => some x.setCode
  | 0x06C => some (ofI x.v).toNat
  | 0x070 => some (x.c2pi + 2 ^ 16 * winHi x)
  | 0x074 => some x.ka.toNat
  | 0x078 => some x.kt.toNat
  | 0x07C => some (x.tauSh + 2 ^ 16 * x.t0)
  | 0x080 => some (ofI x.g).toNat
  | 0x084 => some (ofI x.c2).toNat
  | 0x088 => some x.cntWrong.toNat
  | 0x08C => some x.cntReacq.toNat
  | 0x090 => some x.pilotInt
  | _ => none

/-- [DEDUCED: log 122] -/
def viewAFE (s : State) (a o : Nat) : Option Nat :=
  let i := fld (getReg s (Reg.at Reg.AFE_CH_SEL a)) 0 6
  let c := channelOf s (64 * a + i)
  let out := fld (getReg s (Reg.at Reg.AFE_OUT_SEL a)) 0 6
  match o with
  | 0x044 => some (chanInt s a i)
  | 0x048 => some (c.code + 2 ^ 16 * b2n c.ovr)
  | 0x04C => some (c.offset.toNat + 2 ^ 16 * c.gain.toNat)
  | 0x050 => some c.cal
  | 0x058 => some (if out < 48 then (loopOf s (48 * a + out)).code else tget (fun _ => 0) s.sel.trimOuts (16 * a + (out - 48)))
  | _ => none

def viewCAL (s : State) (o : Nat) : Option Nat :=
  match o with
  | 0x05C => some (s.sel.cal.done % 2 ^ 16 + 2 ^ 16 * (s.sel.cal.total % 2 ^ 16))
  | 0x068 => some (b2n (!s.sel.afeDefaults) + 2 * b2n (mirrorsValid s) + 4 * b2n s.sel.slotsFromStore)
  | _ => none

def viewFIX (s : State) (o : Nat) : Option Nat :=
  let f := s.sel.fix
  if 0x058 ≤ o && o ≤ 0x084 then some (if f.none_ then 0 else hashWord f.hash ((o - 0x058) / 4))
  else if 0x088 ≤ o && o ≤ 0x0B4 then some (if f.none_ then 0 else beAt f.writer (o - 0x088) 4)
  else
    match o with
    | 0x040 =>
      some (b2n f.slotB + 2 * b2n f.aValid + 4 * b2n f.bValid + 8 * b2n f.foreign + 16 * b2n f.none_ + 32 * b2n f.pending)
    | 0x044 => some f.seq.toNat
    | 0x048 => some (f.valid.toNat + 2 ^ 8 * f.used.toNat)
    | 0x050 => some (f.optime.toNat % 2 ^ 32)
    | 0x054 => some (f.optime.toNat / 2 ^ 32)
    | _ => none

/-- [DEDUCED: log 125] -/
def viewEVR (s : State) (o : Nat) : Option Nat :=
  let q := getReg s Reg.EVR_RD_SEQ
  let code := fld (getReg s Reg.EVR_SEV_SEL) 0 16
  if 0x060 ≤ o && o ≤ 0x09C then
    some (match ringAt s q with | some r => leAt (recBytes r) (o - 0x060) 4 | none => 0)
  else
    match o with
    | 0x048 => some s.evr.newest.toNat
    | 0x04C => some (match s.evr.ring.head? with | some r => r.seq.toNat | none => 0)
    | 0x050 => some (s.evr.ring.length + 2 ^ 16 * s.evr.fifo.length)
    | 0x058 => some (rdStat s q)
    | 0x05C => some (rdNext s q).toNat
    | 0x0A0 => some 0
    | 0x0BC => some (sevOf s code (sevDefault code))
    | _ => none

/-- [DESIGN CHOICE: log 119] -/
def viewCRC (s : State) (i o : Nat) : Option Nat :=
  let x := crcOf s i
  match o with
  | 0x054 => some (b2n x.parA + 2 * b2n x.parB)
  | 0x074 => some (if x.run == .running then freeBelow s 0 (crcLen s i + 1) else 0)
  | _ => none

def viewBLT (s : State) (o : Nat) : Option Nat :=
  let r := fld (getReg s Reg.BLT_REG_SEL) 0 8
  match o with
  | 0x064 =>
    some (b2n (tget (fun _ => false) s.blt.tested r) + 2 * b2n (tget (fun _ => false) s.blt.skipped r) +
      4 * b2n (s.blt.run == .repaired && bltRegion s == r && bitOf (getReg s Reg.BLT_REPAIR) 0))
  | _ => none

def viewRDN (s : State) (o : Nat) : Option Nat :=
  match o with
  | 0x040 => some (rdnStatus s)
  | _ => none

/-- The value of a register that follows from the state, by page; none for a stored word. -/
def viewReg (s : State) (ty inst o : Nat) : Option Nat :=
  match ty with
  | 0x01 => viewSYS s o | 0x02 => viewPWR s o | 0x03 => viewCLK s o | 0x04 => viewBOOT s o | 0x05 => viewPROT s o
  | 0x06 => viewHST s o | 0x07 => viewEVR s o | 0x08 => viewCRC s inst o | 0x0A => viewRDN s o | 0x10 => viewSCH s inst o
  | 0x11 => viewRED s inst o | 0x12 => viewOPT s inst o | 0x13 => viewCPY s inst o | 0x14 => viewSTG s inst o
  | 0x16 => viewATM s inst o | 0x20 => viewSTK s inst o | 0x21 => viewDMC s inst o | 0x30 => viewLNK s inst o
  | 0x31 => viewFPP s inst o | 0x32 => viewXBR s inst o | 0x40 => viewLPE s inst o | 0x41 => viewPLI s o
  | 0x42 => viewACD s o | 0x43 => viewFSL s inst o | 0x44 => viewAFE s inst o | 0x45 => viewCAL s o
  | 0x46 => viewFIX s o | 0x47 => viewPLN s inst o | 0x48 => viewBLT s o
  | _ => none

/-- A register of the common header (R63). -/
def headerReg (s : State) (ty inst o : Nat) : Word :=
  let k := pageKey ty inst
  match o with
  | 0x000 => toWord (1 + 2 ^ 8 * inst + 2 ^ 16 * ty)
  | 0x004 =>
    toWord (pageInstances ty + 2 ^ 8 * b2n (irqBits ty inst != 0) + 2 ^ 9 * b2n (capSrst ty) + 2 ^ 10 * b2n (capHold ty) +
      2 ^ 16 * capBlock ty)
  | 0x00C => toWord (pageStat s ty inst)
  | 0x018 => 0#32
  | 0x024 => toWord ((rightsOf s ty).toNat + 2 ^ 31 * b2n s.boot.sealOn)
  | _ => if o < 0x028 then getReg s (k + o) else 0#32

/-- What a register of an existing page reads as: all but `PAGE_STAT` read 0 of a unit that is OFF or FAILED (R68),
and all but the header during a soft reset (R64). Offsets that the page does not define read 0 (R5). -/
def readReg (s : State) (ty inst o : Nat) : Word :=
  let u := pageUnit s ty inst
  if o == 0x00C then headerReg s ty inst o
  else if u == .off || u == .failed then 0#32
  else if o < 0x040 then headerReg s ty inst o
  else if inSrst s ty inst then 0#32
  else
    match regInfo ty o with
    | none => 0#32
    | some _ =>
      let c := canonInst ty inst o
      match viewReg s ty c o with
      | some n => toWord n
      | none => getReg s (pageKey ty c + o)

/-- The high half that a read of a low half latches (R39 and the pages' tables). -/
def hiOf (ty o : Nat) : Option Nat :=
  match ty with
  | 0x02 => if o == 0x090 then some 0x094 else none
  | 0x10 => if o == 0x05C then some 0x060 else none
  | 0x11 => if o == 0x048 then some 0x04C else none
  | 0x12 => if o == 0x050 then some 0x054 else none
  | 0x13 => if o == 0x048 then some 0x04C else none
  | 0x16 => if o == 0x048 then some 0x04C else none
  | 0x31 => if o == 0x068 then some 0x06C else if o == 0x070 then some 0x074 else none
  | _ => none

/-- Set or clear a latch. -/
def setLatch (s : State) (k : Nat) (v : Option Word) : State :=
  { s with pwr := { s.pwr with latch := tset (fun _ => none) s.pwr.latch k v } }

/-- A read of a register: its value, and the latch of its high half. -/
def readRun (s : State) (ty inst o : Nat) : Word × State :=
  match hiOf ty o with
  | some h => (readReg s ty inst o, setLatch s (pageKey ty inst + h) (some (readReg s ty inst h)))
  | none =>
    match tget (fun _ => none) s.pwr.latch (pageKey ty inst + o) with
    | some w => (w, setLatch s (pageKey ty inst + o) none)
    | none => (readReg s ty inst o, s)

end Sys2Proof.Machine
end

