-- ==== Sys2Proof/Machine/SoftReset.lean ====
section
/-!
DEFINITION. Soft resets, holds and self-tests of the pages (R64, R212, R240, R263, R273, R301, R340 and the
CPY, ATM and FPP pages): what a write of `PAGE_CTL` does, and how a reset and a test end.
-/

namespace Sys2Proof.Machine

/-- What a register write answers: status, detail, state. -/
abbrev WRes := Nat × Nat × State

/-- The write has its effect. -/
def wOk (s : State) : WRes := (stOK, 0, s)

/-- A refused write: a value out of range has detail 0x02 (R66). -/
def wBad (s : State) (st : Nat) : WRes := (st, if st == stRANGE then 2 else 0, s)

/-- The answer of a command that gives a status. -/
def wCmd (p : Nat × State) : WRes := (p.1, if p.1 == stRANGE then 2 else 0, p.2)

/-! ## The start of a soft reset (R64) -/

/-- The offsets that a soft reset of an engine's page leaves: `PAGE_CTL`, `ERR_COUNT`, and the registers that
belong to the die or the module. [DEDUCED: log 30] -/
def srstKeeps (ty inst o : Nat) : Bool :=
  o == 0x008 || o == 0x020 ||
    match ty with
    | 0x11 => 0x100 ≤ o && o ≤ 0x12C
    | 0x12 => 0x100 ≤ o && o ≤ 0x10C
    | 0x40 => 0x100 ≤ o && o ≤ 0x194
    | 0x47 => inst == 0 && 0x100 ≤ o && o ≤ 0x10C
    | _ => false

/-- The page's stored registers at their reset values. [DEDUCED: log 30] -/
def resetPage (s : State) (ty inst : Nat) : State :=
  let k := pageKey ty inst
  let s := { s with regs := s.regs.filter fun e => !(k ≤ e.1 && e.1 < k + 0x1000 && !(srstKeeps ty inst (e.1 - k))) }
  settleQuiet s ty inst

def setSrst (s : State) (ty inst : Nat) (b : Bool) : State :=
  { s with hst := { s.hst with srst := tset (fun _ => false) s.hst.srst (pageKey ty inst) b } }

/-- The running descriptor of an engine completes ABORTED: the entry of a REDUCE is discarded (R212), an OPTIM
ends under R234, a PLAN leaves its OUT and WORK ranges with no stated contents (R263), an ATOMIZE drops its
transfers. [DEDUCED: log 32] -/
def abortJob (s : State) (ty inst : Nat) : State :=
  match pageJob s ty inst with
  | none => s
  | some (q, d) =>
    match ty with
    | 0x11 => if dType d == tyREDUCE then reduceEnd s q d stABORTED 0 else finish s q d stABORTED 0
    | 0x12 => finish (setOpt s inst {}) q { d with done := (optOf s inst).written } stABORTED 0
    | 0x16 =>
      let s := { s with kft := { s.kft with transfers := s.kft.transfers.filter fun t => !(t.queue == q && t.idx == d.idx) } }
      finish s q { d with destFail := List.range (atmDests d) } stABORTED 0
    | 0x47 =>
      let s := scramble (scramble s (planOut d) (outBytesNeeded d)) (pWork d) (workBytes (pK d))
      finish s q d stABORTED 0
    | _ => finish s q d stABORTED 0

/-- The typed values of a port's page at reset. -/
def resetPort (s : State) (p : Nat) : State :=
  let x := portOf s p
  setPort s p { x with macLo := [], macHi := [], brTx := [], brRx := [], noWin := [], test := 0 }

/-- The typed values of a link's page at reset: the link is lost, and goes to BACKOFF when it is enabled (R273). -/
def resetLink (s : State) (n : Nat) : State :=
  let st := (linkOf s n).st
  let s := if st == .quiet then s else loseLink s n (if enOf s 0x30 n then .backoff else .disabled)
  setLink s n { linkOf s n with parts := [], txBytes := 0, rxBytes := 0, test := 0 }

/-- A tile as the PLI page shows it at reset. -/
def tileForget (t : Tile) : Tile :=
  { t with seen := false, seq := 0#32, actSeq := 0#32, actSrc := 0xFF#8, parked := false, lost := false, hv := false }

/-- The plane link retrains and its page forgets the tiles (R301). -/
def resetPlane (s : State) : State :=
  modSte (planeRetrain s) fun x => { x with tiles := tmapAll (fun _ => {}) x.tiles tileForget }

/-- A soft reset begins: the block's work ends and the page's registers take their reset values. [DEDUCED: log 30] -/
def srstStart (s : State) (ty inst : Nat) : State :=
  let s := setSrst s ty inst true
  let s := match ty with
    | 0x30 => resetLink s inst
    | 0x31 =>
      let st := (portOf s inst).st
      resetPort (if st == .disabled then s else portLeave s inst .down) inst
    | 0x41 => resetPlane s
    | 0x40 => s
    | _ => abortJob s ty inst
  resetPage s ty inst

/-! ## Self-tests (R212, R240, R263, R340) -/

/-- The pages whose soft reset runs a self-test. -/
def srstTests (ty : Nat) : Bool := [0x11, 0x12, 0x40, 0x47].contains ty

/-- `TEST_CTL.GO` of an engine or an array: HELD only. -/
def engTestCmd (s : State) (ty inst : Nat) : Nat × State :=
  if engineState s ty inst == 0x12 then (stOK, setEng s ty inst { engOf s ty inst with testing := true, fromReset := false })
  else (stSTATE, s)

/-- A soft reset completes: writes are accepted again, a self-test begins where the block has one, and a port
trains again. [DEDUCED: log 30] -/
def srstDone (s : State) (ty inst : Nat) : State :=
  if !inSrst s ty inst then s
  else
    let s := setSrst s ty inst false
    if srstTests ty then setEng s ty inst { engOf s ty inst with testing := true, fromReset := true }
    else if ty == 0x31 then portTrain s inst
    else s

/-- `TEST_STAT` and the test's failure bit. -/
def testStatOf (ty : Nat) : Option Nat :=
  match ty with | 0x11 => some 0x068 | 0x12 => some 0x06C | 0x47 => some 0x07C | 0x40 => some 0x050 | _ => none

/-- A self-test ends. A pass leaves the engine HELD or FREE, and takes it out of FAULTY when the test followed a
soft reset; a failure leaves it FAULTY and sets TEST_FAIL. -/
def testDone (s : State) (ty inst : Nat) (pass : Bool) : State :=
  let x := engOf s ty inst
  if !x.testing then s
  else
    let k := pageKey ty inst
    let s := setEng s ty inst { testing := false, faulty := if pass then x.faulty && !x.fromReset else true, fromReset := false }
    let s := match testStatOf ty with
      | some o =>
        let n := fld (getReg s (k + o)) 8 8
        setRegN s (k + o) (b2n pass + 2 + (if pass then n else min (n + 1) 255) * 2 ^ 8)
      | none => s
    if pass then s else raiseIrq s ty inst 1

/-- The instance of an engine kind's page exists. -/
def kindCount (k : EngineKind) : Nat := pageInstances (kindPage k)

/-! ## `PAGE_CTL` (R63 to R65) -/

/-- Pages whose EN cannot be written 0 (R65, and the EVR page). [DESIGN CHOICE: log 11] -/
def enFixed (ty : Nat) : Bool := [0x01, 0x02, 0x03, 0x04, 0x05, 0x06, 0x07, 0x45, 0x46].contains ty

/-- A board link's EN (R273): 0 loses the link, 1 lets a DISABLED one train. -/
def lnkEnable (s : State) (n : Nat) (on : Bool) : State :=
  let st := (linkOf s n).st
  if !on then (if st == .disabled then s else loseLink s n .disabled)
  else if st == .disabled then setLink s n { linkOf s n with st := .backoff, interval := 1 }
  else s

/-- What the new EN and HOLD do on pages where they act at once. -/
def ctlActs (s : State) (ty inst : Nat) (en hold : Bool) : Nat × State :=
  match ty with
  | 0x0A => rdnEnable s en
  | 0x30 => (stOK, lnkEnable s inst en)
  | 0x31 => (stOK, fppEnableCmd s inst en)
  | 0x40 =>
    if hold && !holdOf s 0x40 inst then lpeHoldCmd s inst
    else if !hold && holdOf s 0x40 inst then lpeReleaseCmd s inst
    else (stOK, s)
  | 0x43 => (stOK, if hold == holdOf s 0x43 inst then s else fslHoldCmd s inst hold)
  | _ => (stOK, s)

/-- A write of `PAGE_CTL`. EN takes the written value; HOLD too, but a write with SRST and without HOLD leaves HOLD
as it was (R64). A loop engine is reset only in HELD (R340). [DEDUCED: log 30] -/
def ctlWrite (s : State) (ty inst : Nat) (v : Word) : WRes :=
  let en := bitOf v 0
  let srst := bitOf v 1
  let hold := bitOf v 2
  if (!en && enFixed ty) || (srst && !capSrst ty) || (hold && !capHold ty) then (stRANGE, 2, s)
  else if srst && ty == 0x40 && lpeState s inst != 0x12 then (stSTATE, 0, s)
  else
    let hold := if srst then hold || holdOf s ty inst else hold
    let (st, s) := ctlActs s ty inst en hold
    if st != stOK then wBad s st
    else
      let s := setRegN s (pageKey ty inst + 0x008) (b2n en + 4 * b2n hold)
      wOk (if srst then srstStart s ty inst else s)

end Sys2Proof.Machine
end

