-- ==== Sys2Proof/Machine/RegWrite.lean ====
section
/-!
DEFINITION. What a write of each register does (R4, R64, R68 steps 10 and 11, R69 and the pages' tables): the plain
store by access codes, the ranges of values, and the registers whose write acts.
-/

namespace Sys2Proof.Machine

/-- A plain store by the access codes of R4: RW bits take the value, W1C bits clear, other bits stay. -/
def storeReg (s : State) (ty inst o : Nat) (v : Word) : State :=
  match regInfo ty o with
  | none => s
  | some r =>
    let k := pageKey ty (canonInst ty inst o) + o
    let rw := toWord r.rw
    setReg s k ((v &&& rw) ||| (getReg s k &&& ~~~ rw &&& ~~~ (v &&& toWord r.w1c)))

/-- The write commands a block to act: a WO field or a W1S bit that is written (R64). [DEDUCED: log 29] -/
def isCommand (ty o : Nat) (v : Word) : Bool :=
  0x040 ≤ o && match regInfo ty o with
    | some r => r.wo != 0 || (v &&& toWord r.w1s) != 0#32
    | none => false

/-- At most one of the commands of a register is given. [DESIGN CHOICE: log 28] -/
def oneBit (v : Word) (n : Nat) : Bool := ((List.range n).filter fun b => bitOf v b).length ≤ 1

/-- The value lies in the ranges of the register's fields, as far as its page's table alone decides (R68 step 10).
[DESIGN CHOICE: log 28; DEDUCED: log 29, 34] -/
def valueOk (ty o : Nat) (v : Word) : Bool :=
  let n := v.toNat
  match ty with
  | 0x02 =>
    if o == 0x068 then 20 ≤ fld v 0 8
    else if o == 0x06C then 200 ≤ fld v 0 12 && fld v 0 12 ≤ 1800
    else if o == 0x080 then fld v 0 8 ≤ 105 && fld v 8 8 ≤ 112
    else true
  | 0x06 =>
    if o == 0x040 then 0x0600 ≤ fld v 0 16
    else if o == 0x054 then 1 ≤ fld v 0 16 && fld v 0 16 ≤ 3600
    else if o == 0x06C then fld v 0 8 != 0 && fld v 8 4 != 0
    else if o == 0x0C0 then oneBit (v >>> 16) 2
    else true
  | 0x04 => if o == 0x054 then 100 ≤ fld v 0 16 else if o == 0x090 then fld v 0 2 != 3 else true
  | 0x14 => if o == 0x050 then 1 ≤ fld v 0 12 && fld v 0 12 ≤ 3600 else if o == 0x064 then fld v 0 13 ≤ 4096 else true
  | 0x20 => if o == 0x054 then 1 ≤ fld v 0 8 && fld v 0 8 ≤ 168 else true
  | 0x21 => if o == 0x068 then 1 ≤ fld v 0 8 && fld v 0 8 ≤ 168 else true
  | 0x10 => if 0x400 ≤ o && o < 0x800 && o % 0x40 == 0x24 then oneBit v 3 else true
  | 0x30 => if o == 0x048 then 8 ≤ fld v 0 8 && fld v 0 8 ≤ 24 else true
  | 0x31 =>
    if o == 0x040 then 0x0600 ≤ fld v 0 16
    else if o == 0x050 then fld v 0 4 != 0 && fld v 8 8 != 0 && fld v 16 8 != 0
    else if o == 0x054 || o == 0x058 then fld v 0 16 != 0
    else true
  | 0x41 => if o == 0x054 then fld v 0 6 ≤ 35 else if o == 0x074 then fld v 0 4 != 0 else true
  | 0x40 => if o == 0x100 then fld v 0 15 ≤ 18431 else if o == 0x150 then oneBit v 2 else true
  | 0x42 =>
    if o == 0x074 then oneBit v 2
    else if o == 0x094 then fld v 0 6 % 2 == 0 && 8 ≤ fld v 0 6 && fld v 0 6 ≤ 40
    else if o == 0x0A0 then fld v 8 4 != 0
    else if o == 0x0B0 then fld v 0 12 ≤ 2303
    else true
  | 0x43 =>
    if o == 0x050 then fld v 0 3 ≤ 5
    else if o == 0x05C then 5000 ≤ fld v 0 16 && fld v 0 16 ≤ 50000 && 1 ≤ fld v 16 12 && fld v 16 12 ≤ 1024
    else if o == 0x060 then 100 ≤ fld v 0 13 && fld v 0 13 ≤ 5000
    else if o == 0x090 then fld v 0 16 != 0
    else true
  | 0x44 => if o == 0x044 then 1 ≤ fld v 0 10 && fld v 0 10 ≤ 1000 else true
  | 0x45 => if o == 0x040 then 1 ≤ fld v 0 3 && fld v 0 3 ≤ 4 else true
  | 0x0A => if o == 0x044 then oneBit v 3 else if o == 0x050 then fld v 0 16 != 0 else true
  | 0x07 =>
    if o == 0x040 then fld v 0 3 ≤ 5 && fld v 4 3 ≤ 5 && fld v 8 3 ≤ 5
    else if o == 0x044 then fld v 0 8 != 0 && fld v 16 16 != 0
    else if o == 0x0BC then fld v 0 3 ≤ 5
    else if o == 0x0C0 then fld v 4 3 ≤ 5
    else true
  | 0x08 => if o == 0x058 then oneBit v 3 else true
  | 0x48 => if o == 0x040 then n % 65536 != 0 && n / 65536 != 0 else true
  | _ => true

/-! ## Writes that act, by page -/

def writePWR (s : State) (o : Nat) (v : Word) : WRes :=
  match o with
  | 0x044 => wCmd (flwCmd s (fld v 0 2) (fld v 4 2))
  | _ => wOk (storeReg s 0x02 0 o v)

/-- The mailbox lock (R88): `sid` is the writing session, 0 for a requester that has none.
[DESIGN CHOICE: log 28; DEDUCED: log 37] -/
def mbxLock (s : State) (sid : BitVec 16) (v : Word) : Nat × State :=
  let owner := fld (getReg s Reg.HST_MBX_LOCK) 0 16
  if bitOf v 16 then
    if sid == 0#16 || (owner != 0 && owner != sid.toNat) then (stRESOURCE, s)
    else (stOK, setRegFld s Reg.HST_MBX_LOCK 0 16 sid.toNat)
  else if bitOf v 17 then
    if sid == 0#16 || owner != sid.toNat then (stRESOURCE, s) else (stOK, setRegFld s Reg.HST_MBX_LOCK 0 16 0)
  else (stOK, s)

/-- Doorbells to firmware (R89): the bits set and the writer's SID and class are recorded. -/
def ringFirmware (s : State) (cls : Nat) (sid : BitVec 16) (v : Word) : State :=
  let bits := v &&& 0xFFFF#32
  if bits == 0#32 then s
  else setRegN (orReg s Reg.HST_MBX_H2F_DB bits) Reg.HST_MBX_DB_SRC (sid.toNat + 2 ^ 16 * (cls % 4))

def writeHST (s : State) (cls : Nat) (sid : BitVec 16) (o : Nat) (v : Word) : WRes :=
  match o with
  | 0x0C0 => wCmd (mbxLock s sid v)
  | 0x0C4 => wOk (ringFirmware s cls sid v)
  | _ => wOk (storeReg s 0x06 0 o v)

/-- [DEDUCED: log 38] -/
def writeBOOT (s : State) (o : Nat) (v : Word) : WRes :=
  match o with
  | 0x058 => wOk s
  | 0x05C => if bitOf v 0 then wCmd (restartCmdRun s) else wOk s
  | _ => wOk (storeReg s 0x04 0 o v)

def writePROT (s : State) (o : Nat) (v : Word) : WRes :=
  match o with
  | 0x040 => if bitOf v 0 then wCmd (sealCmd s) else wOk s
  | 0x048 => wCmd (rightsCmd s (v.setWidth 10))
  | 0x04C => wOk (keySelCmd s (fld v 0 3))
  | 0x050 => wCmd (keyInfoCmd s v)
  | 0x054 => wCmd (keyLoadCmd s v)
  | _ => wOk (storeReg s 0x05 0 o v)

def setPin (s : State) (k : Nat) (p : Pin) : State :=
  { s with mem := { s.mem with pins := tset (fun _ => {}) s.mem.pins k p } }

/-- A pin that is in force has a size and stays inside the staging SRAM. -/
def pinOk (p : Pin) : Bool := !p.valid || (p.size != 0 && p.base + p.size ≤ 4096)

/-- A pin's new values, refused when a valid pin would not fit; a pin that loses force may end the last live
allocation (R44). -/
def pinWrite (s : State) (d : Nat) (p : Pin) : WRes :=
  if pinOk p then
    let k := 16 * d + fld (getReg s (Reg.at Reg.STG_PIN_SEL d)) 0 4
    let was := (pinOf s d (k % 16)).valid
    let s := setPin s k p
    wOk (if was && !p.valid then offAfterRestart s d else s)
  else wBad s stRANGE

def writeSTG (s : State) (d o : Nat) (v : Word) : WRes :=
  let p := pinOf s d (fld (getReg s (Reg.at Reg.STG_PIN_SEL d)) 0 4)
  match o with
  | 0x060 => pinWrite s d { p with base := fld v 0 12 }
  | 0x064 => pinWrite s d { p with size := fld v 0 13 }
  | 0x068 => pinWrite s d { p with valid := bitOf v 0, domain := BitVec.ofNat 12 (fld v 16 12) }
  | _ => wOk (storeReg s 0x14 d o v)

/-- The registers of a queue group (R145 to R147, R163). -/
def writeQueue (s : State) (q o : Nat) (v : Word) : WRes :=
  let x := queueOf s q
  match o with
  | 0x00 => wOk (setQueue s q { x with prio := bitOf v 0, errStop := bitOf v 1 })
  | 0x18 => wCmd (tailMove s q v)
  | 0x24 =>
    if bitOf v 0 then wCmd (queueStop s q)
    else if bitOf v 1 then wCmd (queueResume s q)
    else if bitOf v 2 then wCmd (queueFlush s q)
    else wOk s
  | 0x38 => wOk (setQueue s q { x with waitLimit := BitVec.ofNat 16 (fld v 0 16) })
  | _ => wOk s

/-- A token write of a requester without a domain: RANGE outside the slice. [DEDUCED: log 71] -/
def sliceWrite (s : State) (d : Nat) (v : Word) (f : State → Nat → Nat → State) : WRes :=
  if tokDie (fld v 0 12) == d then wOk (f s (fld v 0 12) (fld v 12 20)) else wBad s stRANGE

def writeSCH (s : State) (d o : Nat) (v : Word) : WRes :=
  if 0x400 ≤ o && o < 0x800 then writeQueue s (16 * d + (o - 0x400) / 0x40) (o % 0x40) v
  else
    match o with
    | 0x040 => sliceWrite s d v tokAdd
    | 0x044 => sliceWrite s d v tokSet
    | 0x048 =>
      let q := 16 * d + fld v 0 4
      wCmd (tailMove s q ((queueOf s q).tail + toWord (fld v 8 24)))
    | 0x050 => wOk (tokSet s (selTok s d) v.toNat)
    | _ => wOk (storeReg s 0x10 d o v)

/-- `CT_CMD.DISCARD` (R204, R205). [DEDUCED: log 38] -/
def ctDiscardCmd (s : State) (d : Nat) : Nat × State :=
  let i := 2048 * d + fld (getReg s (Reg.at Reg.RED_CT_SEL (32 * d))) 0 11
  match (ctOf s i).state with
  | .free => (stSTATE, s)
  | .opened => (stOK, ctDiscard s i)
  | .discarded => (stOK, offAfterRestart (ctFree s i) d)

def writeRED (s : State) (i o : Nat) (v : Word) : WRes :=
  match o with
  | 0x064 => if bitOf v 0 then wCmd (engTestCmd s 0x11 i) else wOk s
  | 0x124 => if bitOf v 0 then wCmd (ctDiscardCmd s (i / 32)) else wOk s
  | _ => wOk (storeReg s 0x11 i o v)

def writeOPT (s : State) (i o : Nat) (v : Word) : WRes :=
  match o with
  | 0x068 => if bitOf v 0 then wCmd (engTestCmd s 0x12 i) else wOk s
  | _ => wOk (storeReg s 0x12 i o v)

def writePLN (s : State) (i o : Nat) (v : Word) : WRes :=
  match o with
  | 0x078 => if bitOf v 0 then wCmd (engTestCmd s 0x47 i) else wOk s
  | _ => wOk (storeReg s 0x47 i o v)

def writeLNK (s : State) (n o : Nat) (v : Word) : WRes :=
  match o with
  | 0x044 => if bitOf v 0 then wCmd (lnkWidenCmd s n) else wOk s
  | 0x064 => wCmd (partCfgCmd s n v)
  | 0x078 => wCmd (lnkTestCmd s n (fld v 0 2))
  | _ => wOk (storeReg s 0x30 n o v)

def writeFPP (s : State) (p o : Nat) (v : Word) : WRes :=
  let x := portOf s p
  let b := fld (getReg s (Reg.at Reg.FPP_BR_SEL p)) 0 2
  match o with
  | 0x060 => wOk (setPort s p { x with macLo := tset (fun _ => 0#32) x.macLo b v })
  | 0x064 => wOk (setPort s p { x with macHi := tset (fun _ => 0#32) x.macHi b (v &&& 0x8000FFFF#32) })
  | 0x0A8 => wCmd (fppTestCmd s p (fld v 0 2))
  | _ => wOk (storeReg s 0x31 p o v)

/-- [DEDUCED: log 38] -/
def writeXBR (s : State) (h o : Nat) (v : Word) : WRes :=
  match o with
  | 0x100 => wOk (routesChanged (storeReg s 0x32 h o v))
  | 0x10C =>
    let p := fld (getReg s Reg.XBR_ROUTE_SEL) 0 4
    wOk (routesChanged { s with board := { s.board with routeCfg := tset (fun _ => 0x1F) s.board.routeCfg p (fld v 0 5) } })
  | _ => wOk (storeReg s 0x32 h o v)

def writeLPE (s : State) (e o : Nat) (v : Word) : WRes :=
  if 0x104 ≤ o && o ≤ 0x12C || o == 0x148 then slotWriteCmd s o v
  else
    match o with
    | 0x04C => if bitOf v 0 then wCmd (lpeTestCmd s e false) else wOk s
    | 0x150 =>
      if bitOf v 0 then wCmd (tuneGo s)
      else wOk (if bitOf v 1 then tuneEnd s stABORTED 0x14 else s)
    | 0x190 => wCmd (jogClearCmd s (fld v 0 4))
    | _ => wOk (storeReg s 0x40 e o v)

/-- The limits of R334, with one of the three registers at its new value. -/
def limitsOk (m t p : Nat) : Bool :=
  let ok (x : Nat) : Bool := x % 20 == 0 && 100 ≤ x && x ≤ 2000
  ok m && ok t && ok p && m + t + p ≤ 4200

def writeACD (s : State) (o : Nat) (v : Word) : WRes :=
  let lim (k : Nat) : Nat := fld (getReg s k) 0 12
  let store (ok : Bool) : WRes := if ok then wOk (storeReg s 0x42 0 o v) else wBad s stRANGE
  match o with
  | 0x074 =>
    let s' := storeReg s 0x42 0 o v
    if bitOf v 0 then (let r := wCmd (accordLoadCmd s'); if r.1 == stOK then r else (r.1, r.2.1, s))
    else if bitOf v 1 then (let r := wCmd (accordAbortCmd s' (fld v 8 4)); if r.1 == stOK then r else (r.1, r.2.1, s))
    else wOk s'
  | 0x084 => store (limitsOk (fld v 0 12) (lim Reg.ACD_SETTLE_MAX) (lim Reg.ACD_PEAK_MAX))
  | 0x088 => store (limitsOk (lim Reg.ACD_MOVE_MAX) (fld v 0 12) (lim Reg.ACD_PEAK_MAX))
  | 0x08C => store (limitsOk (lim Reg.ACD_MOVE_MAX) (lim Reg.ACD_SETTLE_MAX) (fld v 0 12))
  | 0x0B8 => wCmd (trimWriteCmd s false v)
  | 0x0BC => wCmd (trimWriteCmd s true v)
  | _ => wOk (storeReg s 0x42 0 o v)

/-- `DITH`: another loop within 100 Hz gives RESOURCE (R352); a frequency that breaks the limit of `BW` is RANGE (R354).
[DEDUCED: log 36] -/
def dithCmd (s : State) (l : Nat) (v : Word) : Nat × State :=
  let f := fld v 0 16
  let x := loopOf s l
  let near (k : Nat) : Bool := k != l && f < dithFreq s k + 100 && dithFreq s k < f + 100
  if f < 8 * x.bw then (stRANGE, s)
  else if (List.range 192).any near then (stRESOURCE, s)
  else (stOK, setLoop s l { x with freq := some f, amp := fld v 16 12 })

def writeFSL (s : State) (p o : Nat) (v : Word) : WRes :=
  let l := selLoop s p
  let x := loopOf s l
  match o with
  | 0x040 => ffParamCmd s p o v
  | 0x074 => ffParamCmd s p o v
  | 0x078 => ffParamCmd s p o v
  | 0x07C => ffParamCmd s p o v
  | 0x048 => wCmd (fselForceCmd s p v)
  | 0x054 =>
    if bitOf v 1 then
      let r := loopReacqCmd s l
      if r.1 != stOK then wBad s r.1 else wOk (if bitOf v 0 == x.en then r.2 else loopEnableCmd r.2 l (bitOf v 0))
    else wOk (if bitOf v 0 == x.en then s else loopEnableCmd s l (bitOf v 0))
  | 0x05C => wCmd (dithCmd s l v)
  | 0x060 => if 8 * fld v 0 13 ≤ dithFreq s l then wOk (setLoop s l { x with bw := fld v 0 13 }) else wBad s stRANGE
  | 0x068 =>
    if x.en then wBad s stSTATE
    else wOk (setLoop s l { x with setCode := fld v 0 16 })
  | 0x088 => wOk (setLoop s l { x with cntWrong := v })
  | 0x08C => wOk (setLoop s l { x with cntReacq := v })
  | 0x090 => wOk (setLoop s l { x with pilotInt := fld v 0 16 })
  | _ => wOk (storeReg s 0x43 p o v)

def writeAFE (s : State) (a o : Nat) (v : Word) : WRes :=
  let i := fld (getReg s (Reg.at Reg.AFE_CH_SEL a)) 0 6
  let c := channelOf s (64 * a + i)
  match o with
  | 0x044 =>
    if 48 ≤ i && i < 58 then wBad s stRANGE
    else if i < 48 && (loopOf s (48 * a + i)).st != .off then wBad s stSTATE
    else wOk (setChannel s (64 * a + i) { c with int_ := fld v 0 10 })
  | 0x04C =>
    if calState s != 0x10 then wBad s stSTATE
    else wOk (setChannel s (64 * a + i) { c with offset := v.setWidth 16, gain := (v >>> 16).setWidth 16 })
  | _ => wOk (storeReg s 0x44 a o v)

/-- CAL commands return STATE while the values come from the holder (R385). -/
def writeCAL (s : State) (o : Nat) (v : Word) : WRes :=
  match o with
  | 0x040 =>
    if windowLocked s then wBad s stSTATE
    else
      match fld v 0 3 with
      | 1 => wCmd (calOffsetCmd s)
      | 2 => wCmd (calFringeCmd s)
      | 3 => wCmd (calPlaneCmd s)
      | _ => wCmd (calAbortCmd s)
  | _ => wOk (storeReg s 0x45 0 o v)

def writeFIX (s : State) (o : Nat) (v : Word) : WRes :=
  match o with
  | 0x04C => if bitOf v 0 then wCmd (fixSaveCmd s) else wOk s
  | _ => wOk (storeReg s 0x46 0 o v)

def writeRDN (s : State) (o : Nat) (v : Word) : WRes :=
  match o with
  | 0x044 =>
    if bitOf v 0 then wCmd (yieldCmd s)
    else if bitOf v 1 then wCmd (syncCmd s)
    else if bitOf v 2 then wCmd (clearCmd s)
    else wOk s
  | _ => wOk (storeReg s 0x0A 0 o v)

/-- [DEDUCED: log 34] -/
def writeEVR (s : State) (o : Nat) (v : Word) : WRes :=
  match o with
  | 0x044 => wOk (bucketsClamp (storeReg s 0x07 0 o v))
  | 0x0A0 => wOk (sillageFree s v)
  | 0x0BC =>
    let code := fld (getReg s Reg.EVR_SEV_SEL) 0 16
    wOk (modEvr s fun e => { e with sevMap := tset (fun _ => none) e.sevMap code (some (fld v 0 3)) })
  | 0x0C0 =>
    let s := storeReg s 0x07 0 o v
    wOk (if bitOf v 0 then hostmarkRun s else s)
  | _ => wOk (storeReg s 0x07 0 o v)

def writeCRC (s : State) (i o : Nat) (v : Word) : WRes :=
  match o with
  | 0x044 => if i == 4 && fld v 0 12 != 0 then wBad s stRANGE else wOk (storeReg s 0x08 i o v)
  | 0x04C => wOk (setCrc (storeReg s 0x08 i o v) i { crcOf s i with parA := true })
  | 0x050 => wOk (setCrc (storeReg s 0x08 i o v) i { crcOf s i with parB := true })
  | 0x058 =>
    if bitOf v 0 then crcStartCmd s i false
    else if bitOf v 1 then crcStartCmd s i true
    else if bitOf v 2 then wCmd (crcStopCmd s i)
    else wOk s
  | _ => wOk (storeReg s 0x08 i o v)

/-- A write of a block's own register, by page. -/
def writePage (s : State) (cls : Nat) (sid : BitVec 16) (ty inst o : Nat) (v : Word) : WRes :=
  match ty with
  | 0x02 => writePWR s o v | 0x04 => writeBOOT s o v | 0x05 => writePROT s o v | 0x06 => writeHST s cls sid o v
  | 0x07 => writeEVR s o v | 0x08 => writeCRC s inst o v | 0x0A => writeRDN s o v | 0x10 => writeSCH s inst o v
  | 0x11 => writeRED s inst o v | 0x12 => writeOPT s inst o v | 0x14 => writeSTG s inst o v | 0x30 => writeLNK s inst o v
  | 0x31 => writeFPP s inst o v | 0x32 => writeXBR s inst o v | 0x40 => writeLPE s inst o v | 0x42 => writeACD s o v
  | 0x43 => writeFSL s inst o v | 0x44 => writeAFE s inst o v | 0x45 => writeCAL s o v | 0x46 => writeFIX s o v
  | 0x47 => writePLN s inst o v
  | _ => wOk (storeReg s ty inst o v)

/-- A write of the common header (R63 to R65, R85). -/
def headWrite (s : State) (ty inst o : Nat) (v : Word) : WRes :=
  let k := pageKey ty inst
  let m := toWord (irqBits ty inst)
  match o with
  | 0x008 => ctlWrite s ty inst v
  | 0x010 => wOk (irqSettle (andNotReg s (k + 0x010) (v &&& m)) ty inst)
  | 0x014 => wOk (irqSettle (setReg s (k + 0x014) (v &&& m)) ty inst)
  | 0x018 => wOk (irqSettle (orReg s (k + 0x010) (v &&& m)) ty inst)
  | 0x020 => wOk (setReg s (k + 0x020) v)
  | _ => wOk s

/-- A write to the set-up or the redundancy page may change what STATUS says (R391). [DEDUCED: log 27] -/
def statusPage (ty : Nat) : Bool := ty == 0x05 || ty == 0x0A

def settleWrite (ty before : Nat) (r : WRes) : WRes :=
  if statusPage ty && r.1 == stOK then (r.1, r.2.1, statusSettle before r.2.2) else r

/-- Steps 10 to 12 of R68 for a write: the value's range, the block's state, the effect. A command to a block whose
EN is 0 is STATE (R64). Offsets that the page does not define are ignored (R5). [DEDUCED: log 29] -/
def regWrite (s : State) (cls : Nat) (sid : BitVec 16) (ty inst o : Nat) (v : Word) : WRes :=
  settleWrite ty (service s) <|
  if o < 0x040 then headWrite s ty inst o v
  else if (regInfo ty o).isNone then wOk s
  else if !(valueOk ty o v) then wBad s stRANGE
  else if isCommand ty o v && !(enOf s ty inst) then wBad s stSTATE
  else writePage s cls sid ty inst o v

end Sys2Proof.Machine
end

