-- ==== Sys2Proof/Machine/Access.lean ====
section
/-!
DEFINITION. One access to a register word with the checks of R68 steps 6 to 12 and the record of a refusal (R66):
for KRT, firmware and flow programs, and for a peer's REGWR (R60, R157, R185, R269).
-/

namespace Sys2Proof.Machine

/-- Page type, instance and offset that a local address names in the register window (R61). -/
def regTarget (a : Nat) : Option (Nat × Nat × Nat) :=
  if windowBase ≤ a && a < windowBase + 0x10000000 then
    let o := a - windowBase
    some (o / 0x100000, o / 0x1000 % 0x100, o % 0x1000)
  else none

/-- The window address of a register. -/
def regAddr (ty inst o : Nat) : Nat := windowBase + pageKey ty inst + o

/-- An access is refused in a page: its status, the `ERR_CODE` recorded, and the state. A refusal of
`PWR.FLW_CMD` holds the Flow die's power state (R51). [DEDUCED: log 27] -/
def refuseIn (s : State) (ty inst st det : Nat) : Nat × Word × State :=
  let s := refuse s ty inst st det
  (st, getReg s (pageKey ty inst + 0x01C), s)

/-- The registers that a flow program may reach: the token and doorbell registers of the SCH pages (R102). -/
def flowReach (ty o : Nat) : Bool := ty == 0x10 && (o == 0x040 || o == 0x044 || o == 0x048)

/-- Step 7: the class holds the right, and a flow program reaches only what R102 opens. [DEDUCED: log 109] -/
def mayAccess (s : State) (cls ty o : Nat) (write : Bool) : Bool :=
  hasRight s cls ty write && (cls != 4 || ty != 0x10 || flowReach ty o)

/-- Step 8: the register belongs to the sealed part of the set-up (R103). -/
def sealedReg (s : State) (ty o : Nat) : Bool :=
  ty == 0x05 && (o == 0x040 || o == 0x048 || o == 0x050 || o == 0x054) && !(protLoading s)

/-- The token and doorbell writes that the wake agent takes for a Flow die that is not FAILED (R68 step 9). -/
def wakeTakes (s : State) (ty inst o : Nat) : Bool :=
  ty == 0x10 && pageUnit s ty inst != .failed && !(inSrst s ty inst) &&
    (o == 0x040 || o == 0x044 || o == 0x048 || (0x400 ≤ o && o < 0x800 && o % 0x40 == 0x18))

/-- Step 9: the unit takes no write now. Calibration and save commands wait for the firmware. -/
def notReady (s : State) (ty inst o : Nat) : Bool :=
  let p := pageUnit s ty inst
  ((p == .powering || p == .zeroing || p == .waking || p == .off || p == .failed || inSrst s ty inst) &&
      !(wakeTakes s ty inst o)) ||
    (s.boot.phase != .firmware && ((ty == 0x45 && o == 0x040) || (ty == 0x46 && o == 0x04C)))

/-- A write of one register word: status, recorded `ERR_CODE`, state. -/
def accessWrite (s : State) (cls : Nat) (sid : BitVec 16) (a : Nat) (v : Word) : Nat × Word × State :=
  match regTarget a with
  | none => refuseIn s 0x06 0 stRANGE 0x04
  | some (ty, inst, o) =>
    if !(pageExists ty inst) then refuseIn s 0x06 0 stRANGE 0x04
    else if o % 4 != 0 then refuseIn s ty inst stRANGE 0x03
    else if !(mayAccess s cls ty o true) then refuseIn s ty inst stAUTH 0
    else if sealedReg s ty o then refuseIn s ty inst stSEALED 0
    else if notReady s ty inst o then refuseIn s ty inst stNOTREADY 0
    else
      let (st, det, s') := regWrite s cls sid ty inst o v
      if st == stOK then (stOK, 0#32, s')
      else if ty == 0x02 && o == 0x044 then
        let s := setRegFld (refuse s 0x02 0 st det) (pageKey 0x02 0 + 0x01C) 8 8 (pcode (unitSt s (fld v 0 2)))
        (st, getReg s (pageKey 0x02 0 + 0x01C), s)
      else refuseIn s ty inst st det

/-- A refused read: the word is 0. -/
def refuseRead (s : State) (ty inst st det : Nat) : Nat × Word × Word × State :=
  let (st, w, s) := refuseIn s ty inst st det
  (st, w, 0#32, s)

/-- A read of one register word: status, recorded `ERR_CODE`, the word, state. -/
def accessRead (s : State) (cls a : Nat) : Nat × Word × Word × State :=
  match regTarget a with
  | none => refuseRead s 0x06 0 stRANGE 0x04
  | some (ty, inst, o) =>
    if !(pageExists ty inst) then refuseRead s 0x06 0 stRANGE 0x04
    else if o % 4 != 0 then refuseRead s ty inst stRANGE 0x03
    else if !(mayAccess s cls ty o false) then refuseRead s ty inst stAUTH 0
    else
      let (w, s) := readRun s ty inst o
      (stOK, 0#32, w, s)

/-- A write by a requester of the module; nothing runs while the module is in reset. -/
def writeBy (s : State) (who : Requester) (sid : BitVec 16) (a : Nat) (v : Word) : State :=
  if s.pwr.inReset then s else (accessWrite s (classOf who) sid a v).2.2

/-- A write of the register at an offset of a page. -/
def writeAt (s : State) (who : Requester) (ty inst o v : Nat) : State :=
  writeBy s who 0#16 (regAddr ty inst o) (toWord v)

/-- A read by a requester of the module. -/
def readBy (s : State) (who : Requester) (a : Nat) : State :=
  if s.pwr.inReset then s else (accessRead s (classOf who) a).2.2.2

/-! ## `PAGE_CTL` rows -/

/-- The `PAGE_CTL` value with HOLD as given and EN as it is. -/
def holdValue (s : State) (ty inst : Nat) (on : Bool) : Nat := b2n (enOf s ty inst) + 4 * b2n on

/-- The value that asks for a soft reset, with or without HOLD. -/
def srstValue (s : State) (ty inst : Nat) (hold : Bool) : Nat := b2n (enOf s ty inst) + 2 + 4 * b2n hold

/-- The value with EN as given and HOLD as it is. -/
def enValue (s : State) (ty inst : Nat) (on : Bool) : Nat := b2n on + 4 * b2n (holdOf s ty inst)

/-! ## REGWR of a peer (R60, R157, R185, R269) -/

/-- The rights of flow programs on the SCH pages of this module's own set-up (R60, R102). [DEDUCED: log 90] -/
def flowMayWrite (s : State) : Bool := (rightsOf s 0x10).getLsbD 9

/-- A refused REGWR is recorded in the page it names, or in HST (R66). [DEDUCED: log 90] -/
def regwrRefuse (s : State) (ty inst st det : Nat) : Nat × State :=
  if pageExists ty inst then (st, refuse s ty inst st det) else (st, refuse s 0x06 0 st det)

/-- A remote token or doorbell write: its status and effect. The writer's domain decides (R185). [DEDUCED: log 90] -/
def regwrApply (s : State) (m : LinkMsg) : Nat × State :=
  let a := m.address.toNat % 2 ^ 44
  match regTarget a with
  | none => regwrRefuse s 0xFF 0 stAUTH 0
  | some (ty, d, o) =>
    let dom := m.domain.toNat % 4096
    let t := fld m.value 0 12
    let inc := fld m.value 12 20
    if ty != 0x10 || 4 ≤ d || !(flowMayWrite s) || !(flowReach ty o) then regwrRefuse s ty d stAUTH 0
    else if unitSt s d == .failed then regwrRefuse s ty d stNOTREADY 0
    else if o != 0x048 && tokDie t != d then regwrRefuse s ty d stRANGE 2
    else if !(enOf s 0x10 d) then regwrRefuse s ty d stSTATE 0
    else
      let done (p : Nat × State) : Nat × State :=
        if p.1 == stOK then p else regwrRefuse p.2 ty d p.1 (if p.1 == stRANGE then 2 else 0)
      if o == 0x048 then
        let q := 16 * d + fld m.value 0 4
        let x := queueOf s q
        if x.state == .unbound || x.domain.toNat != dom then
          done (stAUTH, raiseIrq (bumpReg s (Reg.at Reg.SCH_CNT_TOK_DROP d) 1) 0x10 d 3)
        else done (tailMove s q (x.tail + toWord (fld m.value 8 24)))
      else if o == 0x044 then done (tokWriteFor s t dom fun s t => tokSet s t inc)
      else done (tokWriteFor s t dom fun s t =>
        if beAt m.body 0 1 == 1 then tokPoison s t
        else
          let s := tokAdd s t inc
          let x := tokOf s t
          setTok s t { x with src := x.src ||| BitVec.ofNat 16 (2 ^ (m.src.toNat % 16)) })

/-- A REGWR: applied once per source and TAG, and answered again when it was applied before. [DEDUCED: log 90] -/
def regwrRun (s : State) (n : Nat) (m : LinkMsg) : State :=
  if (linkOf s n).st != .up then s
  else
    let s := oweCredits s n m
    if !(forHere s m) then forwardMsg s n 5 m
    else
      let p := m.src.toNat % 16
      let seen := tget (fun _ => []) s.board.seen p
      if seen.contains m.tag then answerMsg s n (replyTo s 6 m stOK [])
      else
        let (st, s) := regwrApply s m
        let s := if st == stOK then
            { s with board := { s.board with seen := tset (fun _ => []) s.board.seen p ((m.tag :: seen).take 1024) } }
          else s
        answerMsg s n (replyTo s 6 m st [])

end Sys2Proof.Machine
end

