-- ==== Sys2Proof/Machine/Krt.lean ====
section
/-!
DEFINITION. The Kelien Register Transport (R70 to R89, R415): frame checks, sessions, the replay window, the
operations, notifications, and the mailbox words behind SPACE 0x01.
-/

namespace Sys2Proof.Machine

/-! ## Reception (R68 steps 1 to 3, R71, R72, R84) -/

/-- The header of a frame as it was received. -/
def krtInHeader (op : Byte) (f : KrtFrame) : List Byte :=
  [BitVec.ofNat 8 (f.ver.toNat * 16 + f.flagsHigh.toNat * 2 + b2n f.respFlag), op] ++ beBytes 2 f.sid.toNat ++
    beBytes 4 f.seq.toNat ++ beBytes 2 f.tag.toNat ++ beBytes 2 f.status.toNat ++ beBytes 2 f.length.toNat ++
    [f.space, 0#8] ++ beBytes 8 f.address.toNat

/-- The LENGTH payload bytes. -/
def krtPayload (f : KrtFrame) : List Byte := slice f.payload 0 f.length.toNat

/-- The authentication tag verifies with the session's host-to-module key (R72). -/
def krtTagOk (key : BitVec 384) (op : Byte) (f : KrtFrame) : Bool :=
  f.auth == beBytes 16 ((Config.hmacSha384 key (krtInHeader op f ++ krtPayload f)).extractLsb' 256 128).toNat

/-- The counter of a frame that fails step 1 or R71. [DEDUCED: log 40] -/
def krtCounter (s : State) (f : KrtFrame) : Option Nat :=
  if f.dst != Config.moduleMac then some Reg.HST_CNT_MAC
  else if f.etype.toNat != fld (getReg s Reg.HST_ETYPE) 0 16 then some Reg.HST_CNT_ETYPE
  else if 4200 < f.size || f.ver != 1#4 || 4096 < f.length.toNat || f.size < 58 + f.length.toNat then some Reg.HST_CNT_FORMAT
  else none

/-- A frame is dropped and counted. [DEDUCED: log 40] -/
def krtDrop (s : State) (counter bit : Nat) : State := raiseIrq (bumpReg s counter 1) 0x06 0 bit

/-- The host port is UP and its agent powered. [DEDUCED: log 40] -/
def krtListens (s : State) : Bool := !s.pwr.inReset && isOn s dieSTE && fld (getReg s Reg.HST_PORT_STAT) 0 2 != 0

/-- An unauthenticated answer to the frame's source. -/
def plainReply (s : State) (op : Byte) (f : KrtFrame) (st : Nat) (payload : List Byte) : State :=
  let o : KrtOut := { dst := f.src, etype := (getReg s Reg.HST_ETYPE).setWidth 16, resp := true, op := op, sid := 0#16, seq := 0#32, tag := f.tag, status := BitVec.ofNat 16 st, tail := freeTail s, payload := payload, auth := 0#128 }
  { send s (.krt o) with fresh := s.fresh + 2 }

/-- Steps 1 and 2, and what follows for a frame that passes them. [DEDUCED: log 40] -/
def krtReceive (s : State) (op : Byte) (f : KrtFrame) (rest : State → State) : State :=
  if !(krtListens s) then s
  else
    match krtCounter s f with
    | some c => krtDrop s c 5
    | none =>
      if !s.hst.answers then s
      else if !s.hst.ready then plainReply s op f stNOTREADY (beBytes 4 (stNOTREADY * 2 ^ 16 + sysState s * 2 ^ 8))
      else rest s

/-- Step 3: the frame belongs to an open session and its tag verifies; its source is where NOTIFY frames go (R73). -/
def krtSession (s : State) (op : Byte) (f : KrtFrame) (rest : State → Nat → State) : State :=
  match (List.range 8).find? fun i => (sessOf s i).isOpen && (sessOf s i).sid == f.sid with
  | some i =>
    if krtTagOk (sessOf s i).keyIn op f then rest (setSess s i { sessOf s i with mac := f.src }) i
    else krtDrop s Reg.HST_CNT_AUTH 0
  | none => krtDrop s Reg.HST_CNT_AUTH 0

/-! ## Answers inside a session -/

/-- A response of a session `x`, tagged with its module-to-host key; the EtherType is the one before the request. -/
def sessResponse (s : State) (x : Session) (etype : Word) (op : Byte) (f : KrtFrame) (st : Nat) (payload : List Byte) : KrtOut :=
  krtTagged x.keyOut { dst := f.src, etype := etype.setWidth 16, resp := true, op := op, sid := x.sid, seq := f.seq, tag := f.tag, status := BitVec.ofNat 16 st, tail := freeTail s, payload := payload, auth := 0#128 }

/-- Send it. [DEDUCED: log 44] -/
def sessReply (s : State) (x : Session) (etype : Word) (op : Byte) (f : KrtFrame) (st : Nat) (payload : List Byte) : State :=
  { send s (.krt (sessResponse s x etype op f st payload)) with fresh := s.fresh + 2 }

/-- The payload of a refusal: the recorded `ERR_CODE`, after a word count for the bulk operations (R74, R76). [DEDUCED: log 45] -/
def refusedPayload (op : Byte) (n : Nat) (w : Word) : List Byte :=
  if op == 0x04#8 || op == 0x05#8 then beBytes 4 n ++ beBytes 4 w.toNat else beBytes 4 w.toNat

/-! ## The replay window (R80 to R82) -/

/-- How a SEQ stands to the window. -/
inductive Replay where
  | new | running | done | old
  deriving DecidableEq, Repr

/-- [DEDUCED: log 41] -/
def replayOf (x : Session) (seq : Word) : Replay :=
  if x.running.contains seq then .running
  else if seq == 0#32 then .old
  else if x.h.toNat < seq.toNat then .new
  else if 63 < x.h.toNat - seq.toNat then .old
  else if x.mask.getLsbD (x.h.toNat - seq.toNat) then .done
  else .new

/-- A SEQ is accepted; responses below the new window are no longer cached. [DEDUCED: log 41] -/
def acceptSeq (x : Session) (seq : Word) : Session :=
  if x.h.toNat < seq.toNat then
    let k := seq.toNat - x.h.toNat
    { x with
      h := seq
      mask := if 64 ≤ k then 1#64 else (x.mask <<< k) ||| 1#64
      cache := x.cache.filter fun c => seq.toNat ≤ c.1.toNat + 63 }
  else { x with mask := x.mask ||| (1#64 <<< (x.h.toNat - seq.toNat)) }

/-- The final response leaves and is cached. [DEDUCED: log 46] -/
def finalReply (s : State) (i : Nat) (x : Session) (etype : Word) (op : Byte) (f : KrtFrame) (st : Nat)
    (payload : List Byte) : State :=
  let o := sessResponse s x etype op f st payload
  let s := { send s (.krt o) with fresh := s.fresh + 2 }
  let y := sessOf s i
  if y.isOpen && y.sid == x.sid then
    setSess s i { y with running := y.running.filter (· != f.seq), cache := (f.seq, o) :: y.cache }
  else s

/-- Step 4, then the request: a new one is accepted and performed, one still running is performed now, an old one is
answered from the cache or dropped. `perform` is none where only a PENDING leaves (R82). [DEDUCED: log 46] -/
def krtRequest (s : State) (i : Nat) (op : Byte) (f : KrtFrame)
    (perform : Option (State → Session → Nat × List Byte × State)) : State :=
  let x := sessOf s i
  let etype := getReg s Reg.HST_ETYPE
  if 0xFFFFFF00 ≤ f.seq.toNat then
    let (st, w, s) := refuseIn s 0x06 0 stSTATE 0
    sessReply s x etype op f st (refusedPayload op 0 w)
  else
    let go (s : State) : State :=
      match perform with
      | some g =>
        let (st, payload, s) := g s (sessOf s i)
        finalReply s i x etype op f st payload
      | none =>
        let y := sessOf s i
        sessReply (setSess s i { y with running := f.seq :: y.running.filter (· != f.seq) }) y etype op f stPENDING []
    match replayOf x f.seq with
    | .new => go (setSess s i (acceptSeq x f.seq))
    | .running => go s
    | .done =>
      match x.cache.find? fun c => c.1 == f.seq with
      | some c => send s (.krt c.2)
      | none => s
    | .old => krtDrop s Reg.HST_CNT_REPLAY 1

/-! ## Operations (R74 to R76, R88) -/

/-- A byte count of a bulk transfer. [DEDUCED: log 45] -/
def bulkCount (n : Nat) : Bool := n % 4 == 0 && 4 ≤ n && n ≤ 4096

/-- Step 5: OP known, FLAGS legal, LENGTH fits. -/
def krtShapeOk (op : Byte) (f : KrtFrame) : Bool :=
  let n := f.length.toNat
  !f.respFlag && f.flagsHigh == 0#3 &&
    match op.toNat with
    | 1 => n == 0
    | 2 => n == 4
    | 3 => n == 8
    | 4 => n == 4 && bulkCount (beAt (krtPayload f) 0 4)
    | 5 => bulkCount n
    | 7 => n == 4
    | _ => false

/-- A refusal recorded in HST, as a response. [DEDUCED: log 49] -/
def hstRefused (s : State) (op : Byte) (n st det : Nat) : Nat × List Byte × State :=
  let (st, w, s) := refuseIn s 0x06 0 st det
  (st, refusedPayload op n w, s)

/-- One word read: status, `ERR_CODE`, the bytes as they travel, state. `bad` says that the mailbox word is
uncorrectable (R414). [DEDUCED: log 39, 47] -/
def krtReadWord (s : State) (x : Session) (space : Byte) (a : Nat) (bad : Bool) : Nat × Word × List Byte × State :=
  let no (st det : Nat) (s : State) : Nat × Word × List Byte × State :=
    let (st, w, s) := refuseIn s 0x06 0 st det
    (st, w, [], s)
  if space == 0x00#8 then
    if 2 ^ 44 ≤ a then no stRANGE 0x04 s
    else
      let (st, w, v, s) := accessRead s x.cls a
      (st, w, beBytes 4 v.toNat, s)
  else if space != 0x01#8 || 0x10000 ≤ a then no stRANGE 0x04 s
  else if a % 4 != 0 then no stRANGE 0x03 s
  else if !(hasRight s x.cls 0x06 false) then no stAUTH 0 s
  else if bad then no stCHECK 0 (scratchBad s (mbxBase + a))
  else
    let (bs, s) := scratchRead s (mbxBase + a) 4
    (stOK, 0#32, bs, s)

/-- The write of the port B requester (R415). [DESIGN CHOICE: log 48] -/
def portBWrite (s : State) (a : Nat) (b : MbxPortB) : State :=
  let old := (scratchRead s (mbxBase + a) 4).1
  let new := (List.range 4).map fun i => ((b.bytes.getD i none).getD (old.getD i 0#8))
  scratchWrite s (mbxBase + a) new

/-- Both ports write one mailbox word in one cycle: the later write stands, and the record is made (R415).
[DESIGN CHOICE: log 48] -/
def mbxConflict (s : State) (sid : BitVec 16) (a : Nat) (bs : List Byte) (b : MbxPortB) : State :=
  let bFirst := match s.mem.lastSecondB with | some l => l | none => b.portBFirst
  let s := if bFirst then scratchWrite (portBWrite s a b) (mbxBase + a) bs
    else portBWrite (scratchWrite s (mbxBase + a) bs) a b
  let s := { s with mem := { s.mem with lastSecondB := some (!bFirst) } }
  let r := b.requester.toNat
  let first := if bFirst then r else 0
  let win := if bFirst then 0 else r
  let other := if r == 3 then b.other.toNat else 0
  let s := setRegN s Reg.BNK_MBX_STAT (1 + 4 * first + 16 * win + 64 * other + 2 ^ 16 * a)
  raiseIrq (bumpReg (setRegN s Reg.BNK_MBX_SID sid.toNat) Reg.BNK_CNT_MBX 1) 0x09 0 2

/-- One word written, from the bytes as they travel: status, `ERR_CODE`, state. [DEDUCED: log 39, 47] -/
def krtWriteWord (s : State) (x : Session) (space : Byte) (a : Nat) (bs : List Byte) (portB : Option MbxPortB) :
    Nat × Word × State :=
  if space == 0x00#8 then
    if 2 ^ 44 ≤ a then refuseIn s 0x06 0 stRANGE 0x04
    else accessWrite s x.cls x.sid a (toWord (beNat bs))
  else if space != 0x01#8 || 0x10000 ≤ a then refuseIn s 0x06 0 stRANGE 0x04
  else if a % 4 != 0 then refuseIn s 0x06 0 stRANGE 0x03
  else if fld (getReg s Reg.HST_MBX_LOCK) 0 16 != x.sid.toNat then
    refuseIn (match portB with | some b => portBWrite s a b | none => s) 0x06 0 stRESOURCE 0
  else
    (stOK, 0#32, match portB with
      | some b => mbxConflict s x.sid a bs b
      | none => scratchWrite s (mbxBase + a) bs)

/-- READ. -/
def krtRead (f : KrtFrame) (bad : Bool) (s : State) (x : Session) : Nat × List Byte × State :=
  let (st, w, bs, s) := krtReadWord s x f.space f.address.toNat bad
  (st, if st == stOK then bs else beBytes 4 w.toNat, s)

/-- WRITE. -/
def krtWrite (f : KrtFrame) (portB : Option MbxPortB) (s : State) (x : Session) : Nat × List Byte × State :=
  let (st, w, s) := krtWriteWord s x f.space f.address.toNat (krtPayload f) portB
  (st, if st == stOK then [] else beBytes 4 w.toNat, s)

/-- RMW: MASK, then VALUE; the old word is the answer (R75). -/
def krtRmw (f : KrtFrame) (s : State) (x : Session) : Nat × List Byte × State :=
  let p := krtPayload f
  let (st, w, old, s) := krtReadWord s x f.space f.address.toNat false
  if st != stOK then (st, beBytes 4 w.toNat, s)
  else
    let m := toWord (beAt p 0 4)
    let new := (toWord (beNat old) &&& ~~~ m) ||| (toWord (beAt p 4 4) &&& m)
    let (st, w, s) := krtWriteWord s x f.space f.address.toNat (beBytes 4 new.toNat) none
    (st, if st == stOK then old else beBytes 4 w.toNat, s)

/-- The bulk words lie in one page or one 4 KiB mailbox block. -/
def bulkInside (a n : Nat) : Bool := a / 4096 == (a + n - 1) / 4096

/-- A bulk request that would cross a boundary: RANGE, detail 0x04, recorded in the page it names. [DEDUCED: log 45] -/
def bulkCrosses (s : State) (op : Byte) (f : KrtFrame) : Nat × List Byte × State :=
  let r := if f.space == 0x00#8 && f.address.toNat < 2 ^ 44 then regTarget f.address.toNat else none
  let (st, w, s) := match r with
    | some (ty, inst, _) => if pageExists ty inst then refuseIn s ty inst stRANGE 0x04 else refuseIn s 0x06 0 stRANGE 0x04
    | none => refuseIn s 0x06 0 stRANGE 0x04
  (st, refusedPayload op 0 w, s)

/-- Bulk words read one after another: status, words done, `ERR_CODE`, bytes, state. -/
def bulkReadWords (x : Session) (space : Byte) (a : Nat) : Nat → Nat → List Byte → State → Nat × Nat × Word × List Byte × State
  | 0, k, acc, s => (stOK, k, 0#32, acc, s)
  | n + 1, k, acc, s =>
    let (st, w, bs, s) := krtReadWord s x space (a + 4 * k) false
    if st == stOK then bulkReadWords x space a n (k + 1) (acc ++ bs) s else (st, k, w, [], s)

/-- BULK_READ. [DEDUCED: log 45] -/
def krtBulkRead (f : KrtFrame) (s : State) (x : Session) : Nat × List Byte × State :=
  let n := beAt (krtPayload f) 0 4
  if !(bulkInside f.address.toNat n) then bulkCrosses s 0x04#8 f
  else
    let (st, k, w, bs, s) := bulkReadWords x f.space f.address.toNat (n / 4) 0 [] s
    (st, if st == stOK then bs else refusedPayload 0x04#8 k w, s)

/-- Bulk words written one after another; the first refused word stops it (R76). -/
def bulkWriteWords (x : Session) (space : Byte) (a : Nat) (p : List Byte) : Nat → Nat → State → Nat × Nat × Word × State
  | 0, k, s => (stOK, k, 0#32, s)
  | n + 1, k, s =>
    let (st, w, s) := krtWriteWord s x space (a + 4 * k) (slice p (4 * k) 4) none
    if st == stOK then bulkWriteWords x space a p n (k + 1) s else (st, k, w, s)

/-- BULK_WRITE. [DEDUCED: log 45] -/
def krtBulkWrite (f : KrtFrame) (s : State) (x : Session) : Nat × List Byte × State :=
  let n := f.length.toNat
  if !(bulkInside f.address.toNat n) then bulkCrosses s 0x05#8 f
  else
    let (st, k, w, s) := bulkWriteWords x f.space f.address.toNat (krtPayload f) (n / 4) 0 s
    (st, if st == stOK then [] else refusedPayload 0x05#8 k w, s)

/-- An operation after step 5. -/
def krtShaped (op : Byte) (f : KrtFrame) (g : State → Session → Nat × List Byte × State) (s : State) (x : Session) :
    Nat × List Byte × State :=
  if krtShapeOk op f then g s x else hstRefused s op 0 stRANGE 0x05

/-- A request of a register or mailbox operation. -/
def krtOp (s : State) (op : Byte) (f : KrtFrame) (g : State → Session → Nat × List Byte × State) : State :=
  krtReceive s op f fun s => krtSession s op f fun s i => krtRequest s i op f (some (krtShaped op f g))

/-! ## SESSION (R77 to R83) -/

/-- The frame is an OPEN request: sub-operation 0x01. [DEDUCED: log 42] -/
def isOpenReq (f : KrtFrame) : Bool := 0 < f.length.toNat && beAt (krtPayload f) 0 1 == 1

/-- The field checks of OPEN. -/
def openFieldsOk (p : List Byte) : Bool :=
  beAt p 1 1 ≤ 2 && beAt p 2 1 ≤ 7 && beAt p 3 1 ≤ 1 && beAt p 133 3 == 0 && beAt p 36 1 == 4

/-- The key index holds a key, the class is at or below its highest class, and the signature verifies. [DESIGN CHOICE: log 43] -/
def openAuthOk (s : State) (p : List Byte) : Bool :=
  let k := setupKey s.boot.inForce (beAt p 2 1)
  k.valid && k.maxClass.toNat ≤ beAt p 1 1 && Config.ecdsaVerify k.key (slice p 0 136) (slice p 136 96)

/-- The slot that a session would take: the lowest free one, within the limits of R77. [DEDUCED: log 42] -/
def openSlot (s : State) (cls : Nat) : Option Nat :=
  if cls == 0 && (List.range 8).any (fun i => (sessOf s i).isOpen && (sessOf s i).cls == 0) then none
  else (List.range 8).find? fun i => !(sessOf s i).isOpen

/-- The SID of R77. -/
def sidOf (count slot : Nat) : BitVec 16 := BitVec.ofNat 16 (((count - 1) % 8191 + 1) * 8 + slot)

/-- A session opens: its keys (R79), and the signed reply. -/
def openGrant (s : State) (f : KrtFrame) (p : List Byte) (slot : Nat) : State :=
  let sid := sidOf s.hst.openCount slot
  let n := s.fresh
  let nonce := beBytes 32 (Config.moduleNonce n).toNat
  let reply := [0x02#8, BitVec.ofNat 8 (beAt p 1 1)] ++ beBytes 2 sid.toNat ++ nonce ++
    (0x04#8 :: beBytes 96 (Config.ephemeralXY n).toNat) ++ zeros 3
  let signature := beBytes 96 (Config.identitySign (slice p 0 136 ++ reply) n).toNat
  let keys := Config.hkdf96 (Config.ecdhX n (slice p 36 97)) (slice p 4 32 ++ nonce)
    ([0x4B#8, 0x52#8, 0x54#8, 0x31#8] ++ beBytes 2 sid.toNat)
  let x : Session := {
    isOpen := true
    sid := sid
    cls := beAt p 1 1
    notify := beAt p 3 1 == 1
    keySlot := beAt p 2 1
    mac := f.src
    keyIn := keys.extractLsb' 384 384
    keyOut := keys.extractLsb' 0 384 }
  let s := setSess { s with fresh := n + 1, hst := { s.hst with openCount := s.hst.openCount + 1 } } slot x
  plainReply s 0x07#8 f stOK (reply ++ signature)

/-- OPEN: the checks of R78 in order. [DESIGN CHOICE: log 43; DEDUCED: log 49] -/
def openRun (s : State) (f : KrtFrame) : State :=
  let p := krtPayload f
  let bad (st det : Nat) : State :=
    let (st, w, s) := refuseIn s 0x06 0 st det
    plainReply s 0x07#8 f st (if st == stAUTH then [] else beBytes 4 w.toNat)
  if f.respFlag || f.flagsHigh != 0#3 || f.length.toNat != 232 then bad stRANGE 0x05
  else if !(openFieldsOk p) then bad stRANGE 0x02
  else if !(openAuthOk s p) then bad stAUTH 0
  else
    match openSlot s (beAt p 1 1) with
    | none => bad stRESOURCE 0
    | some slot => openGrant s f p slot

/-- CLOSE and KEEPALIVE: answered OK with their record; CLOSE then ends the session. [DEDUCED: log 42] -/
def sessionOp (i : Nat) (f : KrtFrame) (s : State) (_ : Session) : Nat × List Byte × State :=
  let p := krtPayload f
  if beAt p 0 1 == 3 then (stOK, p, closeSession s i)
  else if beAt p 0 1 == 4 then (stOK, p, s)
  else hstRefused s 0x07#8 0 stRANGE 0x02

/-- A SESSION frame. [DEDUCED: log 42, 44] -/
def sessionRun (s : State) (f : KrtFrame) : State :=
  krtReceive s 0x07#8 f fun s =>
    if isOpenReq f then openRun s f
    else krtSession s 0x07#8 f fun s i => krtRequest s i 0x07#8 f (some (krtShaped 0x07#8 f (sessionOp i f)))

/-- A PENDING answer to a request that is not final within 1 ms: the request is accepted, or known to be running; a
frame that step 5 refuses is answered at once. [DEDUCED: log 46] -/
def pendingRun (s : State) (op : Byte) (f : KrtFrame) : State :=
  krtReceive s op f fun s =>
    if op == 0x07#8 && isOpenReq f then plainReply s op f stPENDING []
    else krtSession s op f fun s i =>
      krtRequest s i op f
        (if krtShapeOk op f then none else some fun s _ => hstRefused s op 0 stRANGE 0x05)

/-! ## Notifications (R87) -/

/-- An acknowledgement of a NOTIFY; with a payload, or with other flags, it acknowledges nothing. -/
def notifyAckRun (s : State) (f : KrtFrame) : State :=
  krtReceive s 0x06#8 f fun s => krtSession s 0x06#8 f fun s i =>
    let x := sessOf s i
    if !f.respFlag then krtRequest s i 0x06#8 f (some (krtShaped 0x06#8 f fun s _ => (stOK, [], s)))
    else if f.length != 0#16 || f.flagsHigh != 0#3 then
      let (st, w, s) := refuseIn s 0x06 0 stRANGE 0x05
      sessReply s x (getReg s Reg.HST_ETYPE) 0x06#8 f st (beBytes 4 w.toNat)
    else setSess s i { x with unacked := x.unacked.filter fun n => n.seq != f.seq }

/-- An unacknowledged NOTIFY is sent again, or dropped after TRIES. -/
def notifyRetryRun (s : State) (i : Nat) (seq : Word) : State :=
  let x := sessOf s i
  match x.unacked.find? fun n => n.seq == seq with
  | none => s
  | some n =>
    if n.tries < fld (getReg s Reg.HST_NOTIFY_RETRY) 8 4 then
      let n' := { n with tries := n.tries + 1 }
      let x := { x with unacked := x.unacked.map fun m => if m.seq == seq then n' else m }
      sendNotify (setSess s i x) x n'
    else
      let x := { x with unacked := x.unacked.filter fun m => m.seq != seq, lost := x.lost + 1#32 }
      raiseIrq (setSess s i x) 0x06 0 2

/-- No authenticated frame for SESS_IDLE seconds. -/
def idleRun (s : State) (i : Nat) : State := if (sessOf s i).isOpen then closeSession s i else s

/-- 150 ms after reset release (R84). -/
def answerStartRun (s : State) : State :=
  if s.pwr.inReset then s else { s with hst := { s.hst with answers := true } }

/-- Firmware sets doorbells to the host (R89). -/
def f2hRun (s : State) (bits : BitVec 16) : State :=
  if s.pwr.inReset || bits == 0#16 then s
  else raiseIrq (orReg s Reg.HST_MBX_F2H_DB (bits.setWidth 32)) 0x06 0 3

end Sys2Proof.Machine
end

