-- ==== Sys2Proof/Machine/ExecBoot.lean ====
section
/-!
DEFINITION. Meanings of the commands of boot, the protection set-up, and the firmware services of chapter 04 (R91 to R114).
-/

namespace Sys2Proof.Machine

/-- `STAGE1_START` (R94). -/
def execStage1Start (s : State) : Host.Outcome State Fault Refusal :=
  .next (romRun s)

/-- `RECOVERY_RETRY` (R97). -/
def execRecoveryRetry (rewritten : List ByteAt) (s : State) : Host.Outcome State Fault Refusal :=
  .next (recoveryRun s rewritten)

/-- `RIGHTS_WRITE` (R103). -/
def execRightsWrite (who : Requester) (rights : BitVec 10) (s : State) : Host.Outcome State Fault Refusal :=
  .next (writeAt s who 0x05 0 0x048 rights.toNat)

/-- `KEY_SEL_WRITE` (R103). -/
def execKeySelWrite (who : Requester) (slot : BitVec 3) (s : State) : Host.Outcome State Fault Refusal :=
  .next (writeAt s who 0x05 0 0x04C slot.toNat)

/-- `KEY_LOAD` (R103). -/
def execKeyLoad (who : Requester) (data : Word) (s : State) : Host.Outcome State Fault Refusal :=
  .next (writeAt s who 0x05 0 0x054 data.toNat)

/-- `SEAL` (R111). -/
def execSeal (who : Requester) (s : State) : Host.Outcome State Fault Refusal :=
  .next (writeAt s who 0x05 0 0x040 1)

/-- `IDENT_GET` (R112). -/
def execIdentGet (s : State) : Host.Outcome State Fault Refusal :=
  .next (identGetRun s)

/-- `ATTEST` (R107). -/
def execAttest (s : State) : Host.Outcome State Fault Refusal :=
  .next (attestRun s)

/-- `IMAGE_WRITE` (R113). -/
def execImageWrite (s : State) : Host.Outcome State Fault Refusal :=
  .next (imageWriteRun s)

/-- `IMAGE_ACTIVATE` (R113). -/
def execImageActivate (s : State) : Host.Outcome State Fault Refusal :=
  .next (imageActivateRun s)

/-- `BOOT_CONFIRM` (R113). -/
def execBootConfirm (s : State) : Host.Outcome State Fault Refusal :=
  .next (bootConfirmRun s)

/-- `SITE_WRITE` (R113). -/
def execSiteWrite (s : State) : Host.Outcome State Fault Refusal :=
  .next (siteWriteRun s)

/-- `OWNER_ADD` (R113). -/
def execOwnerAdd (s : State) : Host.Outcome State Fault Refusal :=
  .next (ownerAddRun s)

/-- `MGMT_RESTART` (R112). -/
def execMgmtRestart (s : State) : Host.Outcome State Fault Refusal :=
  .next (mgmtRestartRun s)

/-- `RESTART_CMD` (R109). -/
def execRestartCmd (who : Requester) (s : State) : Host.Outcome State Fault Refusal :=
  .next (writeAt s who 0x04 0 0x05C 1)

/-- `WDOG_KICK` (R109). -/
def execWdogKick (who : Requester) (s : State) : Host.Outcome State Fault Refusal :=
  .next (writeAt s who 0x04 0 0x058 1)

/-- `WATCHDOG_EXPIRY` (R109). -/
def execWatchdogExpiry (s : State) : Host.Outcome State Fault Refusal :=
  .next (watchdogRun s)

/-- `MGMT_RESTART_BEGIN` (R109). -/
def execMgmtRestartBegin (s : State) : Host.Outcome State Fault Refusal :=
  .next (restartBegin s)

end Sys2Proof.Machine
end

