-- ==== Sys2Proof/Machine/ExecElem.lean ====
section
/-!
DEFINITION. Meanings of the commands of the instructions of the element programs on an optimizer engine (R214 to R230).
-/

namespace Sys2Proof.Machine

/-- `NOP` (R217). -/
def execNop (e : Fin 64) (s : State) : Host.Outcome State Fault Refusal :=
  .next (stepReg s e.val id)

/-- `VADD` (R217). -/
def execVadd (e : Fin 64) (vd va vb : BitVec 5) (s : State) : Host.Outcome State Fault Refusal :=
  .next (stepReg s e.val (vop2 fp32Add vd.toNat va.toNat vb.toNat))

/-- `VSUB` (R217). -/
def execVsub (e : Fin 64) (vd va vb : BitVec 5) (s : State) : Host.Outcome State Fault Refusal :=
  .next (stepReg s e.val (vop2 fp32Sub vd.toNat va.toNat vb.toNat))

/-- `VMUL` (R217). -/
def execVmul (e : Fin 64) (vd va vb : BitVec 5) (s : State) : Host.Outcome State Fault Refusal :=
  .next (stepReg s e.val (vop2 fp32Mul vd.toNat va.toNat vb.toNat))

/-- `VFMA` (R217). -/
def execVfma (e : Fin 64) (vd va vb : BitVec 5) (s : State) : Host.Outcome State Fault Refusal :=
  .next (stepReg s e.val (vfmaOp vd.toNat va.toNat vb.toNat))

/-- `VMIN` (R217). -/
def execVmin (e : Fin 64) (vd va vb : BitVec 5) (s : State) : Host.Outcome State Fault Refusal :=
  .next (stepReg s e.val (vop2 fp32Min vd.toNat va.toNat vb.toNat))

/-- `VMAX` (R217). -/
def execVmax (e : Fin 64) (vd va vb : BitVec 5) (s : State) : Host.Outcome State Fault Refusal :=
  .next (stepReg s e.val (vop2 fp32Max vd.toNat va.toNat vb.toNat))

/-- `VCPYS` (R217). -/
def execVcpys (e : Fin 64) (vd va vb : BitVec 5) (s : State) : Host.Outcome State Fault Refusal :=
  .next (stepReg s e.val (vop2 copySign vd.toNat va.toNat vb.toNat))

/-- `VADDS` (R217). -/
def execVadds (e : Fin 64) (vd va : BitVec 5) (sk : BitVec 6) (s : State) : Host.Outcome State Fault Refusal :=
  .next (stepReg s e.val (vops fp32Add vd.toNat va.toNat sk.toNat))

/-- `VMULS` (R217). -/
def execVmuls (e : Fin 64) (vd va : BitVec 5) (sk : BitVec 6) (s : State) : Host.Outcome State Fault Refusal :=
  .next (stepReg s e.val (vops fp32Mul vd.toNat va.toNat sk.toNat))

/-- `VFMAS` (R217). -/
def execVfmas (e : Fin 64) (vd va : BitVec 5) (sk : BitVec 6) (s : State) : Host.Outcome State Fault Refusal :=
  .next (stepReg s e.val (vfmasOp vd.toNat va.toNat sk.toNat))

/-- `VAXPB` (R217). -/
def execVaxpb (e : Fin 64) (vd va : BitVec 5) (sk : BitVec 6) (s : State) : Host.Outcome State Fault Refusal :=
  .next (stepReg s e.val (vaxpbOp vd.toNat va.toNat sk.toNat))

/-- `VMINS` (R217). -/
def execVmins (e : Fin 64) (vd va : BitVec 5) (sk : BitVec 6) (s : State) : Host.Outcome State Fault Refusal :=
  .next (stepReg s e.val (vops fp32Min vd.toNat va.toNat sk.toNat))

/-- `VMAXS` (R217). -/
def execVmaxs (e : Fin 64) (vd va : BitVec 5) (sk : BitVec 6) (s : State) : Host.Outcome State Fault Refusal :=
  .next (stepReg s e.val (vops fp32Max vd.toNat va.toNat sk.toNat))

/-- `VBCAST` (R217). -/
def execVbcast (e : Fin 64) (vd : BitVec 5) (sk : BitVec 6) (s : State) : Host.Outcome State Fault Refusal :=
  .next (stepReg s e.val (vbcastOp vd.toNat sk.toNat))

/-- `VRCP` (R219). -/
def execVrcp (e : Fin 64) (vd va : BitVec 5) (s : State) : Host.Outcome State Fault Refusal :=
  .next (stepReg s e.val (vop1 fpRcp vd.toNat va.toNat))

/-- `VRSQRT` (R219). -/
def execVrsqrt (e : Fin 64) (vd va : BitVec 5) (s : State) : Host.Outcome State Fault Refusal :=
  .next (stepReg s e.val (vop1 fpRsqrt vd.toNat va.toNat))

/-- `VSQRT` (R219). -/
def execVsqrt (e : Fin 64) (vd va : BitVec 5) (s : State) : Host.Outcome State Fault Refusal :=
  .next (stepReg s e.val (vop1 fpSqrt vd.toNat va.toNat))

/-- `VEXP2` (R219). -/
def execVexp2 (e : Fin 64) (vd va : BitVec 5) (s : State) : Host.Outcome State Fault Refusal :=
  .next (stepReg s e.val (vop1 fpExp2 vd.toNat va.toNat))

/-- `VLOG2` (R219). -/
def execVlog2 (e : Fin 64) (vd va : BitVec 5) (s : State) : Host.Outcome State Fault Refusal :=
  .next (stepReg s e.val (vop1 fpLog2 vd.toNat va.toNat))

/-- `VABS` (R217). -/
def execVabs (e : Fin 64) (vd va : BitVec 5) (s : State) : Host.Outcome State Fault Refusal :=
  .next (stepReg s e.val (vop1 clearSign vd.toNat va.toNat))

/-- `VNEG` (R217). -/
def execVneg (e : Fin 64) (vd va : BitVec 5) (s : State) : Host.Outcome State Fault Refusal :=
  .next (stepReg s e.val (vop1 flipSign vd.toNat va.toNat))

/-- `VMOV` (R217). -/
def execVmov (e : Fin 64) (vd va : BitVec 5) (s : State) : Host.Outcome State Fault Refusal :=
  .next (stepReg s e.val (vop1 id vd.toNat va.toNat))

/-- `SADD` (R217). -/
def execSadd (e : Fin 64) (sd sa sb : BitVec 6) (s : State) : Host.Outcome State Fault Refusal :=
  .next (stepReg s e.val (sop2 fp32Add sd.toNat sa.toNat sb.toNat))

/-- `SSUB` (R217). -/
def execSsub (e : Fin 64) (sd sa sb : BitVec 6) (s : State) : Host.Outcome State Fault Refusal :=
  .next (stepReg s e.val (sop2 fp32Sub sd.toNat sa.toNat sb.toNat))

/-- `SMUL` (R217). -/
def execSmul (e : Fin 64) (sd sa sb : BitVec 6) (s : State) : Host.Outcome State Fault Refusal :=
  .next (stepReg s e.val (sop2 fp32Mul sd.toNat sa.toNat sb.toNat))

/-- `SFMA` (R217). -/
def execSfma (e : Fin 64) (sd sa sb : BitVec 6) (s : State) : Host.Outcome State Fault Refusal :=
  .next (stepReg s e.val (sfmaOp sd.toNat sa.toNat sb.toNat))

/-- `SMIN` (R217). -/
def execSmin (e : Fin 64) (sd sa sb : BitVec 6) (s : State) : Host.Outcome State Fault Refusal :=
  .next (stepReg s e.val (sop2 fp32Min sd.toNat sa.toNat sb.toNat))

/-- `SMAX` (R217). -/
def execSmax (e : Fin 64) (sd sa sb : BitVec 6) (s : State) : Host.Outcome State Fault Refusal :=
  .next (stepReg s e.val (sop2 fp32Max sd.toNat sa.toNat sb.toNat))

/-- `SRCP` (R219). -/
def execSrcp (e : Fin 64) (sd sa : BitVec 6) (s : State) : Host.Outcome State Fault Refusal :=
  .next (stepReg s e.val (sop1 fpRcp sd.toNat sa.toNat))

/-- `SRSQRT` (R219). -/
def execSrsqrt (e : Fin 64) (sd sa : BitVec 6) (s : State) : Host.Outcome State Fault Refusal :=
  .next (stepReg s e.val (sop1 fpRsqrt sd.toNat sa.toNat))

/-- `SSQRT` (R219). -/
def execSsqrt (e : Fin 64) (sd sa : BitVec 6) (s : State) : Host.Outcome State Fault Refusal :=
  .next (stepReg s e.val (sop1 fpSqrt sd.toNat sa.toNat))

/-- `SEXP2` (R219). -/
def execSexp2 (e : Fin 64) (sd sa : BitVec 6) (s : State) : Host.Outcome State Fault Refusal :=
  .next (stepReg s e.val (sop1 fpExp2 sd.toNat sa.toNat))

/-- `SLOG2` (R219). -/
def execSlog2 (e : Fin 64) (sd sa : BitVec 6) (s : State) : Host.Outcome State Fault Refusal :=
  .next (stepReg s e.val (sop1 fpLog2 sd.toNat sa.toNat))

/-- `SMOV` (R217). -/
def execSmov (e : Fin 64) (sd sa : BitVec 6) (s : State) : Host.Outcome State Fault Refusal :=
  .next (stepReg s e.val (sop1 id sd.toNat sa.toNat))

/-- `SLI` (R217). -/
def execSli (e : Fin 64) (sd : BitVec 6) (imm : BitVec 16) (s : State) : Host.Outcome State Fault Refusal :=
  .next (stepReg s e.val (sliOp sd.toNat imm.toNat))

/-- `VLD` (R228). -/
def execVld (e : Fin 64) (v : BitVec 5) (stream : BitVec 3) (s : State) : Host.Outcome State Fault Refusal :=
  .next (stepStream s e.val fun s d => vldOp s d v.toNat stream.toNat)

/-- `VST` (R228). -/
def execVst (e : Fin 64) (v : BitVec 5) (stream : BitVec 3) (s : State) : Host.Outcome State Fault Refusal :=
  .next (stepStream s e.val fun s d => vstOp s d v.toNat stream.toNat)

/-- `LACC` (R222). -/
def execLacc (e : Fin 64) (k : BitVec 2) (va : BitVec 5) (s : State) : Host.Outcome State Fault Refusal :=
  .next (stepReg s e.val (laccOp (optDesc s e.val) k.toNat va.toNat))

/-- `HACC` (R223). -/
def execHacc (e : Fin 64) (k : BitVec 2) (va : BitVec 5) (s : State) : Host.Outcome State Fault Refusal :=
  .next (stepReg s e.val (haccOp (optDesc s e.val) k.toNat va.toNat))

/-- `PASS` (R224). -/
def execPass (e : Fin 64) (s : State) : Host.Outcome State Fault Refusal :=
  .next (stepEnd s e.val passLast)

/-- `TILE` (R221). -/
def execTile (e : Fin 64) (s : State) : Host.Outcome State Fault Refusal :=
  .next (stepReg s e.val tileOp)

/-- `END` (R220). -/
def execEndMark (e : Fin 64) (s : State) : Host.Outcome State Fault Refusal :=
  .next (stepEnd s e.val endLast)

end Sys2Proof.Machine
end

