-- ==== Sys2Proof/Machine/ExecFlow.lean ====
section
/-!
DEFINITION. Meanings of the commands of flow queues, tokens, descriptors and the services that bind them (R145 to R187).
-/

namespace Sys2Proof.Machine

/-- `TAIL_WRITE` (R146). -/
def execTailWrite (who : Requester) (q : Fin 64) (tail : Word) (s : State) : Host.Outcome State Fault Refusal :=
  .next (writeAt s who 0x10 (q.val / 16) (0x418 + 0x40 * (q.val % 16)) tail.toNat)

/-- `DB_ADD` (R146). -/
def execDbAdd (who : Requester) (q : Fin 64) (add : BitVec 24) (s : State) : Host.Outcome State Fault Refusal :=
  .next (writeAt s who 0x10 (q.val / 16) 0x048 (q.val % 16 + 0x100 * add.toNat))

/-- `TOK_SIGNAL` (R185). -/
def execTokSignal (who : Requester) (die : Fin 4) (token : BitVec 12) (inc : BitVec 20) (s : State) : Host.Outcome State Fault Refusal :=
  .next (writeAt s who 0x10 die.val 0x040 (token.toNat + 0x1000 * inc.toNat))

/-- `TOK_SET` (R185). -/
def execTokSet (who : Requester) (die : Fin 4) (token : BitVec 12) (value : BitVec 20) (s : State) : Host.Outcome State Fault Refusal :=
  .next (writeAt s who 0x10 die.val 0x044 (token.toNat + 0x1000 * value.toNat))

/-- `TOK_VAL_WRITE` (R155). -/
def execTokValWrite (who : Requester) (die : Fin 4) (value : Word) (s : State) : Host.Outcome State Fault Refusal :=
  .next (writeAt s who 0x10 die.val 0x050 value.toNat)

/-- `QUEUE_STOP` (R147). -/
def execQueueStop (who : Requester) (q : Fin 64) (s : State) : Host.Outcome State Fault Refusal :=
  .next (writeAt s who 0x10 (q.val / 16) (0x424 + 0x40 * (q.val % 16)) 1)

/-- `QUEUE_RESUME` (R147). -/
def execQueueResume (who : Requester) (q : Fin 64) (s : State) : Host.Outcome State Fault Refusal :=
  .next (writeAt s who 0x10 (q.val / 16) (0x424 + 0x40 * (q.val % 16)) 2)

/-- `QUEUE_FLUSH` (R147). -/
def execQueueFlush (who : Requester) (q : Fin 64) (s : State) : Host.Outcome State Fault Refusal :=
  .next (writeAt s who 0x10 (q.val / 16) (0x424 + 0x40 * (q.val % 16)) 4)

/-- `DESCRIPTOR_FETCH` (R152). -/
def execDescriptorFetch (q : Fin 64) (ecc : List EccHit) (s : State) : Host.Outcome State Fault Refusal :=
  .next (fetchRun s q.val ecc)

/-- `DESCRIPTOR_RELEASE` (R164). -/
def execDescriptorRelease (q : Fin 64) (s : State) : Host.Outcome State Fault Refusal :=
  .next (releaseRun s q.val)

/-- `COPY` (R168). -/
def execCopy (q : Fin 64) (idx : Word) (ecc : List EccHit) (s : State) : Host.Outcome State Fault Refusal :=
  .next (onRun s q idx tyCOPY fun s d => copyRun s q.val d ecc)

/-- `RECV` (R170). -/
def execRecv (q : Fin 64) (idx : Word) (s : State) : Host.Outcome State Fault Refusal :=
  .next (onRun s q idx tyRECV fun s d => recvRun s q.val d)

/-- `ATOMIZE` (R174). -/
def execAtomize (q : Fin 64) (idx : Word) (ecc : List EccHit) (s : State) : Host.Outcome State Fault Refusal :=
  .next (onRun s q idx tyATOMIZE fun s d => atomizeRun s q.val d ecc)

/-- `BRANCH` (R177). -/
def execBranch (q : Fin 64) (idx : Word) (s : State) : Host.Outcome State Fault Refusal :=
  .next (onRun s q idx tyBRANCH fun s d => branchRun s q.val d)

/-- `TOKEN_ADD` (R178). -/
def execTokenAdd (q : Fin 64) (idx : Word) (s : State) : Host.Outcome State Fault Refusal :=
  .next (onRun s q idx tyTOKEN fun s d => if tokOp d == 1 then tokenAddRun s q.val d else s)

/-- `TOKEN_SET` (R178). -/
def execTokenSet (q : Fin 64) (idx : Word) (s : State) : Host.Outcome State Fault Refusal :=
  .next (onRun s q idx tyTOKEN fun s d => if tokOp d == 2 then tokenSetRun s q.val d else s)

/-- `TOKEN_DOORBELL` (R178). -/
def execTokenDoorbell (q : Fin 64) (idx : Word) (s : State) : Host.Outcome State Fault Refusal :=
  .next (onRun s q idx tyTOKEN fun s d => if tokOp d == 3 then tokenDoorbellRun s q.val d else s)

/-- `FENCE` (R179). -/
def execFence (q : Fin 64) (idx : Word) (s : State) : Host.Outcome State Fault Refusal :=
  .next (onRun s q idx tyFENCE fun s d => fenceRun s q.val d)

/-- `ACCORD_WAIT` (R180). -/
def execAccordWait (q : Fin 64) (idx : Word) (s : State) : Host.Outcome State Fault Refusal :=
  .next (onRun s q idx tyACCORD fun s d => accordWaitRun s q.val d)

/-- `WAIT_LIMIT_EXPIRY` (R163). -/
def execWaitLimitExpiry (q : Fin 64) (s : State) : Host.Outcome State Fault Refusal :=
  .next (waitLimitHit s q.val)

/-- `RECV_WINDOW_TIMEOUT` (R163). -/
def execRecvWindowTimeout (q : Fin 64) (idx : Word) (s : State) : Host.Outcome State Fault Refusal :=
  .next (windowTimeout s q.val idx)

/-- `QUEUE_BIND` (R184). -/
def execQueueBind (s : State) : Host.Outcome State Fault Refusal :=
  .next (queueBindRun s)

/-- `QUEUE_UNBIND` (R184). -/
def execQueueUnbind (s : State) : Host.Outcome State Fault Refusal :=
  .next (queueUnbindRun s)

/-- `TOKEN_BIND` (R184). -/
def execTokenBind (s : State) : Host.Outcome State Fault Refusal :=
  .next (tokenBindRun s)

/-- `TOKEN_UNBIND` (R184). -/
def execTokenUnbind (s : State) : Host.Outcome State Fault Refusal :=
  .next (tokenUnbindRun s)

/-- `FLOW_LOAD` (R183). -/
def execFlowLoad (s : State) : Host.Outcome State Fault Refusal :=
  .next (flowLoadRun s)

/-- `SCH_HOLD` (R164). -/
def execSchHold (who : Requester) (die : Fin 4) (on : Bool) (s : State) : Host.Outcome State Fault Refusal :=
  .next (writeAt s who 0x10 die.val 0x008 (holdValue s 0x10 die.val on))

/-- `COPY_ENGINE_HOLD` (R392). -/
def execCopyEngineHold (who : Requester) (atomizer : Bool) (e : Fin 32) (on : Bool) (s : State) : Host.Outcome State Fault Refusal :=
  .next (writeAt s who (if atomizer then 0x16 else 0x13) e.val 0x008 (holdValue s (if atomizer then 0x16 else 0x13) e.val on))

end Sys2Proof.Machine
end

