-- ==== Sys2Proof/Machine/ExecHost.lean ====
section
/-!
DEFINITION. Meanings of the commands of register accesses, the host transport KRT, soft resets and the mailbox (R58 to R89).
-/

namespace Sys2Proof.Machine

/-- `REGISTER_WRITE` (R68). -/
def execRegisterWrite (who : Requester) (addr : BitVec 44) (value : Word) (s : State) : Host.Outcome State Fault Refusal :=
  .next (writeBy s who 0#16 addr.toNat value)

/-- `READ` (R74). -/
def execRead (f : KrtFrame) (wordBad : Bool) (s : State) : Host.Outcome State Fault Refusal :=
  .next (krtOp s 0x01#8 f (krtRead f wordBad))

/-- `WRITE` (R74). -/
def execWrite (f : KrtFrame) (portB : Option MbxPortB) (s : State) : Host.Outcome State Fault Refusal :=
  .next (krtOp s 0x02#8 f (krtWrite f portB))

/-- `RMW` (R75). -/
def execRmw (f : KrtFrame) (s : State) : Host.Outcome State Fault Refusal :=
  .next (krtOp s 0x03#8 f (krtRmw f))

/-- `BULK_READ` (R76). -/
def execBulkRead (f : KrtFrame) (s : State) : Host.Outcome State Fault Refusal :=
  .next (krtOp s 0x04#8 f (krtBulkRead f))

/-- `BULK_WRITE` (R76). -/
def execBulkWrite (f : KrtFrame) (s : State) : Host.Outcome State Fault Refusal :=
  .next (krtOp s 0x05#8 f (krtBulkWrite f))

/-- `NOTIFY_ACK` (R87). -/
def execNotifyAck (f : KrtFrame) (s : State) : Host.Outcome State Fault Refusal :=
  .next (notifyAckRun s f)

/-- `OPEN` (R78). -/
def execOpenSession (f : KrtFrame) (s : State) : Host.Outcome State Fault Refusal :=
  .next (sessionRun s f)

/-- `CLOSE` (R83). -/
def execClose (f : KrtFrame) (s : State) : Host.Outcome State Fault Refusal :=
  .next (sessionRun s f)

/-- `KEEPALIVE` (R83). -/
def execKeepalive (f : KrtFrame) (s : State) : Host.Outcome State Fault Refusal :=
  .next (sessionRun s f)

/-- `KRT_PENDING` (R82). -/
def execKrtPending (op : Byte) (f : KrtFrame) (s : State) : Host.Outcome State Fault Refusal :=
  .next (pendingRun s op f)

/-- `SESSION_IDLE_EXPIRY` (R83). -/
def execSessionIdleExpiry (slot : Fin 8) (s : State) : Host.Outcome State Fault Refusal :=
  .next (idleRun s slot.val)

/-- `KRT_ANSWER_START` (R84). -/
def execKrtAnswerStart (s : State) : Host.Outcome State Fault Refusal :=
  .next (answerStartRun s)

/-- `NOTIFY_RETRY` (R87). -/
def execNotifyRetry (slot : Fin 8) (seq : Word) (s : State) : Host.Outcome State Fault Refusal :=
  .next (notifyRetryRun s slot.val seq)

/-- `HOST_PORT_UP` (R70). [DEDUCED: log 129] -/
def execHostPortUp (lanes : BitVec 4) (s : State) : Host.Outcome State Fault Refusal :=
  .next (if fld (getReg s Reg.HST_PORT_STAT) 0 2 == 0 then hostTrain s lanes else s)

/-- `HOST_PORT_RETRAIN` (R15). -/
def execHostPortRetrain (lanes : BitVec 4) (s : State) : Host.Outcome State Fault Refusal :=
  .next (hostTrain s (lanes &&& portLanes s))

/-- `IRQ_FORCE` (R63). -/
def execIrqForce (who : Requester) (page : Byte) (inst : Byte) (bits : Word) (s : State) : Host.Outcome State Fault Refusal :=
  .next (writeAt s who page.toNat inst.toNat 0x018 bits.toNat)

/-- `SOFT_RESET` (R64). -/
def execSoftReset (who : Requester) (page : Byte) (inst : Byte) (hold : Bool) (s : State) : Host.Outcome State Fault Refusal :=
  .next (writeAt s who page.toNat inst.toNat 0x008 (srstValue s page.toNat inst.toNat hold))

/-- `SOFT_RESET_DONE` (R64). -/
def execSoftResetDone (page : Byte) (inst : Byte) (s : State) : Host.Outcome State Fault Refusal :=
  .next (srstDone s page.toNat inst.toNat)

/-- `MBX_ACQUIRE` (R88). -/
def execMbxAcquire (who : Requester) (sid : BitVec 16) (s : State) : Host.Outcome State Fault Refusal :=
  .next (writeBy s who sid (regAddr 0x06 0 0x0C0) 0x10000#32)

/-- `MBX_RELEASE` (R88). -/
def execMbxRelease (who : Requester) (sid : BitVec 16) (s : State) : Host.Outcome State Fault Refusal :=
  .next (writeBy s who sid (regAddr 0x06 0 0x0C0) 0x20000#32)

/-- `MBX_H2F_DOORBELL` (R89). -/
def execMbxH2fDoorbell (who : Requester) (sid : BitVec 16) (bits : BitVec 16) (s : State) : Host.Outcome State Fault Refusal :=
  .next (writeBy s who sid (regAddr 0x06 0 0x0C4) (toWord bits.toNat))

/-- `MBX_F2H_DOORBELL` (R89). -/
def execMbxF2hDoorbell (bits : BitVec 16) (s : State) : Host.Outcome State Fault Refusal :=
  .next (f2hRun s bits)

/-- `PAGE_CTL_EN_WRITE` (R273). -/
def execPageCtlEnWrite (who : Requester) (page : Byte) (inst : Byte) (on : Bool) (s : State) : Host.Outcome State Fault Refusal :=
  .next (writeAt s who page.toNat inst.toNat 0x008 (enValue s page.toNat inst.toNat on))

/-- `SELF_TEST_DONE` (R212). -/
def execSelfTestDone (kind : EngineKind) (n : Nat) (pass : Bool) (s : State) : Host.Outcome State Fault Refusal :=
  .next (if n < kindCount kind then testDone s (kindPage kind) n pass else s)

end Sys2Proof.Machine
end

