-- ==== Sys2Proof/Machine/ExecLink.lean ====
section
/-!
DEFINITION. Meanings of the commands of board links, their messages and routes (R265 to R285, R299, R422).
-/

namespace Sys2Proof.Machine

/-- `FEC_BLOCK_RECEIVE` (R270). -/
def execFecBlockReceive (n : Fin 64) (b : FecBlock) (s : State) : Host.Outcome State Fault Refusal :=
  .next (fecBlockRun s n.val b)

/-- `REPLAY_TIMEOUT` (R271). -/
def execReplayTimeout (n : Fin 64) (s : State) : Host.Outcome State Fault Refusal :=
  .next (replayTimeoutRun s n.val)

/-- `LANE_FAIL` (R272). -/
def execLaneFail (n : Fin 64) (lane : Fin 4) (s : State) : Host.Outcome State Fault Refusal :=
  .next (laneFailRun s n.val lane.val)

/-- `RETRAIN_DONE` (R272). -/
def execRetrainDone (n : Fin 64) (lanes : BitVec 4) (s : State) : Host.Outcome State Fault Refusal :=
  .next (retrainDoneRun s n.val lanes)

/-- `RETRAIN_TIMEOUT` (R273). -/
def execRetrainTimeout (n : Fin 64) (s : State) : Host.Outcome State Fault Refusal :=
  .next (retrainTimeoutRun s n.val)

/-- `LNK_WIDEN` (R272). -/
def execLnkWiden (who : Requester) (n : Fin 64) (s : State) : Host.Outcome State Fault Refusal :=
  .next (writeAt s who 0x30 n.val 0x044 1)

/-- `LINK_LOSS` (R273). -/
def execLinkLoss (n : Fin 64) (s : State) : Host.Outcome State Fault Refusal :=
  .next (linkLossRun s n.val)

/-- `TRAINING_ATTEMPT` (R274). -/
def execTrainingAttempt (n : Fin 64) (s : State) : Host.Outcome State Fault Refusal :=
  .next (trainingAttemptRun s n.val)

/-- `TRAINING_PATTERN_RECEIVE` (R274). -/
def execTrainingPatternReceive (n : Fin 64) (s : State) : Host.Outcome State Fault Refusal :=
  .next (patternRun s n.val)

/-- `TRAINING_DONE` (R275). -/
def execTrainingDone (n : Fin 64) (lanes : BitVec 4) (s : State) : Host.Outcome State Fault Refusal :=
  .next (trainingDoneRun s n.val lanes)

/-- `INIT` (R275). -/
def execInit (n : Fin 64) (m : LinkMsg) (s : State) : Host.Outcome State Fault Refusal :=
  .next (initRun s n.val m)

/-- `LINK_IDLE` (R268). -/
def execLinkIdle (n : Fin 64) (s : State) : Host.Outcome State Fault Refusal :=
  .next (linkIdleRun s n.val)

/-- `LINK_WRITE` (R269). -/
def execLinkWrite (n : Fin 64) (m : LinkMsg) (s : State) : Host.Outcome State Fault Refusal :=
  .next (linkWriteRun s n.val m)

/-- `LINK_READ` (R269). -/
def execLinkRead (n : Fin 64) (m : LinkMsg) (ecc : List EccHit) (s : State) : Host.Outcome State Fault Refusal :=
  .next (linkReadRun s n.val m ecc)

/-- `RDATA` (R269). -/
def execRdata (n : Fin 64) (m : LinkMsg) (s : State) : Host.Outcome State Fault Refusal :=
  .next (responseRun s n.val 3 m)

/-- `WACK` (R136). -/
def execWack (n : Fin 64) (m : LinkMsg) (s : State) : Host.Outcome State Fault Refusal :=
  .next (responseRun s n.val 4 m)

/-- `REGWR` (R269). -/
def execRegwr (n : Fin 64) (m : LinkMsg) (s : State) : Host.Outcome State Fault Refusal :=
  .next (regwrRun s n.val m)

/-- `REGACK` (R269). -/
def execRegack (n : Fin 64) (m : LinkMsg) (s : State) : Host.Outcome State Fault Refusal :=
  .next (responseRun s n.val 6 m)

/-- `LINK_CREDIT` (R282). -/
def execLinkCredit (n : Fin 64) (m : LinkMsg) (s : State) : Host.Outcome State Fault Refusal :=
  .next (linkCreditRun s n.val m)

/-- `REACH` (R284). -/
def execReach (n : Fin 64) (m : LinkMsg) (s : State) : Host.Outcome State Fault Refusal :=
  .next (reachRun s n.val m)

/-- `CREDIT_RETURN` (R282). -/
def execCreditReturn (n : Fin 64) (s : State) : Host.Outcome State Fault Refusal :=
  .next (creditReturnRun s n.val)

/-- `REACH_SEND` (R284). -/
def execReachSend (s : State) : Host.Outcome State Fault Refusal :=
  .next (reachSendRun s)

/-- `ROUTE_DRAIN_RELEASE` (R284). -/
def execRouteDrainRelease (p : Fin 16) (s : State) : Host.Outcome State Fault Refusal :=
  .next (routeDrainRun s p.val)

/-- `PART_CFG_WRITE` (R280). -/
def execPartCfgWrite (who : Requester) (n : Fin 64) (value : Word) (s : State) : Host.Outcome State Fault Refusal :=
  .next (writeAt s who 0x30 n.val 0x064 value.toNat)

/-- `LINK_TABLE_SET` (R279). -/
def execLinkTableSet (s : State) : Host.Outcome State Fault Refusal :=
  .next (linkTableSetRun s)

/-- `LINK_TABLE_GET` (R279). -/
def execLinkTableGet (s : State) : Host.Outcome State Fault Refusal :=
  .next (linkTableGetRun s)

/-- `LNK_TEST` (R299). -/
def execLnkTest (who : Requester) (n : Fin 64) (mode : BitVec 2) (s : State) : Host.Outcome State Fault Refusal :=
  .next (writeAt s who 0x30 n.val 0x078 mode.toNat)

/-- `POSITION_LOSS_TIMEOUT` (R422). -/
def execPositionLossTimeout (s : State) : Host.Outcome State Fault Refusal :=
  .next (positionLossRun s)

/-- `PENDING_ROUTE_RESUME` (R422). -/
def execPendingRouteResume (p : Fin 16) (s : State) : Host.Outcome State Fault Refusal :=
  .next (pendingRouteRun s p.val)

end Sys2Proof.Machine
end

