-- ==== Sys2Proof/Machine/ExecMem.lean ====
section
/-!
DEFINITION. Meanings of the commands of the memory tiers and the admission of jobs (R117 to R144).
-/

namespace Sys2Proof.Machine

/-- `DDR5_CHANNEL_TRAIN` (R125). -/
def execDdr5ChannelTrain (dimms : List Dimm) (s : State) : Host.Outcome State Fault Refusal :=
  .next (chanTrainRun s dimms)

/-- `DDR5_TRAINING_END` (R125). -/
def execDdr5TrainingEnd (good : Bool) (s : State) : Host.Outcome State Fault Refusal :=
  .next (chanEndRun s good)

/-- `DDR5_CHANNEL_FAIL` (R128). -/
def execDdr5ChannelFail (c : Fin 16) (s : State) : Host.Outcome State Fault Refusal :=
  .next (chanFailRun s c.val)

/-- `SCRUB_VISIT` (R131). -/
def execScrubVisit (tier : ScrubTier) (granule : Nat) (finding : ScrubFinding) (passEnd late : Bool) (s : State) : Host.Outcome State Fault Refusal :=
  .next (scrubRun s tier granule finding passEnd late)

/-- `HELD_ACCESS_RESUME` (R117). -/
def execHeldAccessResume (s : State) : Host.Outcome State Fault Refusal :=
  .next (heldResumeRun s)

/-- `JOB_ADMIT` (R141). -/
def execJobAdmit (s : State) : Host.Outcome State Fault Refusal :=
  .next (jobAdmitRun s)

/-- `JOB_ADMIT_RESUME` (R140). -/
def execJobAdmitResume (s : State) : Host.Outcome State Fault Refusal :=
  .next (jobAdmitResumeRun s)

/-- `JOB_RELEASE` (R142). -/
def execJobRelease (s : State) : Host.Outcome State Fault Refusal :=
  .next (jobReleaseRun s)

/-- `MEM_QUERY` (R144). -/
def execMemQuery (s : State) : Host.Outcome State Fault Refusal :=
  .next (memQueryRun s)

/-- `RANGE_ZEROING_DONE` (R142). -/
def execRangeZeroingDone (s : State) : Host.Outcome State Fault Refusal :=
  .next (rangeZeroingRun s)

end Sys2Proof.Machine
end

