-- ==== Sys2Proof/Machine/ExecOpt.lean ====
section
/-!
DEFINITION. Meanings of the commands of OPTIM descriptors and the optimizer engines' holds and tests (R231 to R240).
-/

namespace Sys2Proof.Machine

/-- `OPTIM` (R233). -/
def execOptim (q : Fin 64) (idx : Word) (ecc : List EccHit) (s : State) : Host.Outcome State Fault Refusal :=
  .next (onRun s q idx tyOPTIM fun s d => optimRun s q.val d ecc)

/-- `OPT_HOLD` (R240). -/
def execOptHold (who : Requester) (e : Fin 64) (s : State) : Host.Outcome State Fault Refusal :=
  .next (writeAt s who 0x12 e.val 0x008 (holdValue s 0x12 e.val true))

/-- `OPT_SOFT_RESET` (R240). -/
def execOptSoftReset (who : Requester) (e : Fin 64) (s : State) : Host.Outcome State Fault Refusal :=
  .next (writeAt s who 0x12 e.val 0x008 (srstValue s 0x12 e.val false))

/-- `OPT_TEST` (R240). -/
def execOptTest (who : Requester) (e : Fin 64) (s : State) : Host.Outcome State Fault Refusal :=
  .next (writeAt s who 0x12 e.val 0x068 1)

end Sys2Proof.Machine
end

