-- ==== Sys2Proof/Machine/ExecPlan.lean ====
section
/-!
DEFINITION. Meanings of the commands of PLAN descriptors, the port map and the planning arrays (R241 to R264).
-/

namespace Sys2Proof.Machine

/-- `SCHEDULE` (R254). -/
def execSchedule (q : Fin 64) (idx : Word) (ecc : List EccHit) (s : State) : Host.Outcome State Fault Refusal :=
  .next (onPlan s q idx mSCHEDULE ecc fun s d => scheduleRun s q.val d)

/-- `ASSIGN` (R253). -/
def execAssign (q : Fin 64) (idx : Word) (ecc : List EccHit) (s : State) : Host.Outcome State Fault Refusal :=
  .next (onPlan s q idx mASSIGN ecc fun s d => assignRun s q.val d)

/-- `SINKHORN` (R252). -/
def execSinkhorn (q : Fin 64) (idx : Word) (ecc : List EccHit) (s : State) : Host.Outcome State Fault Refusal :=
  .next (onPlan s q idx mSINKHORN ecc fun s d => sinkhornRun s q.val d)

/-- `GEMM` (R262). -/
def execGemm (q : Fin 64) (idx : Word) (ecc : List EccHit) (s : State) : Host.Outcome State Fault Refusal :=
  .next (onPlan s q idx mGEMM ecc fun s d => gemmRun s q.val d)

/-- `VALIDATE` (R260). -/
def execValidate (q : Fin 64) (idx : Word) (ecc : List EccHit) (s : State) : Host.Outcome State Fault Refusal :=
  .next (onPlan s q idx mVALIDATE ecc fun s d => validateRun s q.val d)

/-- `SNAPSHOT` (R249). -/
def execSnapshot (q : Fin 64) (idx : Word) (ecc : List EccHit) (s : State) : Host.Outcome State Fault Refusal :=
  .next (onPlan s q idx mSNAPSHOT ecc fun s d => snapshotRun s q.val d)

/-- `PORTMAP_SET` (R247). -/
def execPortmapSet (s : State) : Host.Outcome State Fault Refusal :=
  .next (portmapSetRun s)

/-- `PORTMAP_GET` (R247). -/
def execPortmapGet (s : State) : Host.Outcome State Fault Refusal :=
  .next (portmapGetRun s)

/-- `PLN_HOLD` (R263). -/
def execPlnHold (who : Requester) (die : Fin 4) (s : State) : Host.Outcome State Fault Refusal :=
  .next (writeAt s who 0x47 die.val 0x008 (holdValue s 0x47 die.val true))

/-- `PLN_SOFT_RESET` (R263). -/
def execPlnSoftReset (who : Requester) (die : Fin 4) (s : State) : Host.Outcome State Fault Refusal :=
  .next (writeAt s who 0x47 die.val 0x008 (srstValue s 0x47 die.val false))

/-- `PLN_TEST` (R263). -/
def execPlnTest (who : Requester) (die : Fin 4) (s : State) : Host.Outcome State Fault Refusal :=
  .next (writeAt s who 0x47 die.val 0x078 1)

end Sys2Proof.Machine
end

