-- ==== Sys2Proof/Machine/ExecPort.lean ====
section
/-!
DEFINITION. Meanings of the commands of the face-plate ports and KFT (R286 to R299, R355).
-/

namespace Sys2Proof.Machine

/-- `FPP_ENABLE` (R286). -/
def execFppEnable (who : Requester) (p : Fin 32) (on : Bool) (s : State) : Host.Outcome State Fault Refusal :=
  .next (writeAt s who 0x31 p.val 0x008 (enValue s 0x31 p.val on))

/-- `PORT_TRAIN_DONE` (R286). -/
def execPortTrainDone (p : Fin 32) (s : State) : Host.Outcome State Fault Refusal :=
  .next (portUpRun s p.val)

/-- `PORT_DOWN` (R286). -/
def execPortDown (p : Fin 32) (s : State) : Host.Outcome State Fault Refusal :=
  .next (portDownRun s p.val)

/-- `KFT_DATA` (R291). -/
def execKftData (p : Fin 32) (f : KftFrame) (s : State) : Host.Outcome State Fault Refusal :=
  .next (kftReceive s p.val f kftDataRun)

/-- `KFT_TOKEN` (R293). -/
def execKftToken (p : Fin 32) (f : KftFrame) (s : State) : Host.Outcome State Fault Refusal :=
  .next (kftReceive s p.val f kftTokenRun)

/-- `KFT_ACK` (R294). -/
def execKftAck (p : Fin 32) (f : KftFrame) (s : State) : Host.Outcome State Fault Refusal :=
  .next (kftReceive s p.val f kftAckRun)

/-- `KFT_NAK` (R294). -/
def execKftNak (p : Fin 32) (f : KftFrame) (s : State) : Host.Outcome State Fault Refusal :=
  .next (kftReceive s p.val f kftNakRun)

/-- `KFT_CREDIT` (R294). -/
def execKftCredit (p : Fin 32) (f : KftFrame) (s : State) : Host.Outcome State Fault Refusal :=
  .next (kftReceive s p.val f kftCreditRun)

/-- `BURST_END` (R297). -/
def execBurstEnd (p : Fin 32) (f : KftFrame) (s : State) : Host.Outcome State Fault Refusal :=
  .next (kftReceive s p.val f burstEndRun)

/-- `KFT_BRANCH` (R297). -/
def execKftBranch (p : Fin 32) (f : KftFrame) (s : State) : Host.Outcome State Fault Refusal :=
  .next (kftReceive s p.val f kftBranchRun)

/-- `ACK_DELAY_EXPIRY` (R292). -/
def execAckDelayExpiry (p : Fin 32) (s : State) : Host.Outcome State Fault Refusal :=
  .next (ackDelayRun s p.val)

/-- `RTO_EXPIRY` (R294). -/
def execRtoExpiry (p : Fin 32) (s : State) : Host.Outcome State Fault Refusal :=
  .next (rtoRun s p.val)

/-- `BR_TIMEOUT_EXPIRY` (R297). -/
def execBrTimeoutExpiry (p : Fin 32) (s : State) : Host.Outcome State Fault Refusal :=
  .next (brTimeoutRun s p.val)

/-- `BRANCH_REPEAT` (R298). -/
def execBranchRepeat (p : Fin 32) (s : State) : Host.Outcome State Fault Refusal :=
  .next (branchRepeatRun s p.val)

/-- `FPP_TEST` (R299). -/
def execFppTest (who : Requester) (p : Fin 32) (mode : BitVec 2) (s : State) : Host.Outcome State Fault Refusal :=
  .next (writeAt s who 0x31 p.val 0x0A8 mode.toNat)

/-- `BRANCH_PATH_RELEASE` (R355). -/
def execBranchPathRelease (p : Fin 32) (s : State) : Host.Outcome State Fault Refusal :=
  .next (pathReleaseRun s p.val)

/-- `BRANCH_PATH_TIMEOUT` (R355). -/
def execBranchPathTimeout (p : Fin 32) (s : State) : Host.Outcome State Fault Refusal :=
  .next (pathTimeoutRun s p.val)

end Sys2Proof.Machine
end

