-- ==== Sys2Proof/Machine/ExecPower.lean ====
section
/-!
DEFINITION. Meanings of the commands of power, reset, clocks, the timers of the power agent, and JTAG (R29 to R57).
-/

namespace Sys2Proof.Machine

/-- `VDD_AON_RISE` (R39). -/
def execVddAonRise (s : State) : Host.Outcome State Fault Refusal :=
  .next (vddAonRise s)

/-- `RAIL_FAULT` (R30). -/
def execRailFault (rail : Fin 19) (s : State) : Host.Outcome State Fault Refusal :=
  .next (railFaultRun s rail.val)

/-- `RAIL_RECOVERY` (R429). -/
def execRailRecovery (s : State) : Host.Outcome State Fault Refusal :=
  .next (railRecoveryRun s)

/-- `RESET_ASSERT` (R32). -/
def execResetAssert (pwrgdFell : Bool) (s : State) : Host.Outcome State Fault Refusal :=
  .next (resetAssertRun s pwrgdFell)

/-- `PWRGD_ASSERT` (R33). -/
def execPwrgdAssert (rails : BitVec 19) (s : State) : Host.Outcome State Fault Refusal :=
  .next (pwrgdRun s rails)

/-- `RESET_RELEASE` (R52). -/
def execResetRelease (straps : BitVec 12) (s : State) : Host.Outcome State Fault Refusal :=
  .next (resetReleaseRun s straps)

/-- `POWERUP_UNIT_START` (R52). -/
def execPowerupUnitStart (s : State) : Host.Outcome State Fault Refusal :=
  .next (powerupRun s)

/-- `REFCLK25_LOSS` (R35). -/
def execRefclk25Loss (s : State) : Host.Outcome State Fault Refusal :=
  .next (ref25Loss s)

/-- `SDSREF156_LOSS` (R36). -/
def execSdsref156Loss (s : State) : Host.Outcome State Fault Refusal :=
  .next (ref156Loss s)

/-- `SDSREF156_RETURN` (R36). -/
def execSdsref156Return (s : State) : Host.Outcome State Fault Refusal :=
  .next (ref156Return s)

/-- `OPTIME_TICK` (R39). -/
def execOptimeTick (s : State) : Host.Outcome State Fault Refusal :=
  .next (optimeTickRun s)

/-- `OPTIME_LO_READ` (R39). -/
def execOptimeLoRead (who : Requester) (s : State) : Host.Outcome State Fault Refusal :=
  .next (readBy s who (regAddr 0x02 0 0x090))

/-- `IDLE_AFTER_EXPIRY` (R43). -/
def execIdleAfterExpiry (die : Fin 4) (s : State) : Host.Outcome State Fault Refusal :=
  .next (idleAfterRun s die.val)

/-- `OFF_AFTER_EXPIRY` (R44). -/
def execOffAfterExpiry (die : Fin 4) (s : State) : Host.Outcome State Fault Refusal :=
  .next (offAfterRun s die.val)

/-- `ENGINE_IDLE` (R43). -/
def execEngineIdle (kind : EngineKind) (n : Nat) (s : State) : Host.Outcome State Fault Refusal :=
  .next (engineIdleRun s kind n)

/-- `HUB_OFF` (R43). -/
def execHubOff (h : Fin 4) (s : State) : Host.Outcome State Fault Refusal :=
  .next (hubOffRun s h.val)

/-- `HUB_WAKE` (R43). -/
def execHubWake (h : Fin 4) (s : State) : Host.Outcome State Fault Refusal :=
  .next (hubWakeRun s h.val)

/-- `WAKE_PHASE_START` (R49). -/
def execWakePhaseStart (s : State) : Host.Outcome State Fault Refusal :=
  .next (wakePhaseRun s)

/-- `POWER_GATE_DONE` (R47). -/
def execPowerGateDone (s : State) : Host.Outcome State Fault Refusal :=
  .next (powerGateRun s)

/-- `ZEROING_DONE` (R48). -/
def execZeroingDone (unit : Fin 32) (s : State) : Host.Outcome State Fault Refusal :=
  .next (zeroingRun s unit.val)

/-- `CLOCK_UNGATE_DONE` (R47). -/
def execClockUngateDone (s : State) : Host.Outcome State Fault Refusal :=
  .next (clockUngateRun s)

/-- `OFF_ENTRY_DONE` (R46). -/
def execOffEntryDone (s : State) : Host.Outcome State Fault Refusal :=
  .next (offEntryRun s)

/-- `FLW_WAKE` (R51). -/
def execFlwWake (who : Requester) (die : Fin 4) (s : State) : Host.Outcome State Fault Refusal :=
  .next (writeAt s who 0x02 0 0x044 (die.val + 0x10))

/-- `FLW_IDLE` (R51). -/
def execFlwIdle (who : Requester) (die : Fin 4) (s : State) : Host.Outcome State Fault Refusal :=
  .next (writeAt s who 0x02 0 0x044 (die.val + 0x20))

/-- `FLW_OFF` (R51). -/
def execFlwOff (who : Requester) (die : Fin 4) (s : State) : Host.Outcome State Fault Refusal :=
  .next (writeAt s who 0x02 0 0x044 (die.val + 0x30))

/-- `POWER_MEASURE` (R54). -/
def execPowerMeasure (watts : BitVec 12) (s : State) : Host.Outcome State Fault Refusal :=
  .next (powerMeasureRun s watts)

/-- `CAP_RELEASE` (R54). -/
def execCapRelease (s : State) : Host.Outcome State Fault Refusal :=
  .next (capReleaseRun s)

/-- `THERMAL_THROTTLE` (R56). -/
def execThermalThrottle (die : Fin 4) (temp : Byte) (s : State) : Host.Outcome State Fault Refusal :=
  .next (throttleRun s die.val temp.toNat)

/-- `THERMAL_DIE_OFF` (R56). -/
def execThermalDieOff (die : Fin 4) (temp : Byte) (s : State) : Host.Outcome State Fault Refusal :=
  .next (dieOffRun s die.val temp.toNat)

/-- `THERMAL_TRIP` (R56). -/
def execThermalTrip (die : Fin 32) (temp : Byte) (s : State) : Host.Outcome State Fault Refusal :=
  .next (tripRun s die.val temp.toNat)

/-- `BYPASS` (R57). -/
def execBypass (s : State) : Host.Outcome State Fault Refusal :=
  .next (jtagBypass s)

/-- `IDCODE` (R57). -/
def execIdcode (s : State) : Host.Outcome State Fault Refusal :=
  .next (jtagIdcode s)

/-- `SAMPLE_PRELOAD` (R57). -/
def execSamplePreload (pins preload : List Bool) (s : State) : Host.Outcome State Fault Refusal :=
  .next (jtagSample s pins preload)

/-- `EXTEST` (R57). -/
def execExtest (s : State) : Host.Outcome State Fault Refusal :=
  .next (jtagExtest s)

/-- `CLAMP` (R57). -/
def execClamp (s : State) : Host.Outcome State Fault Refusal :=
  .next (jtagClamp s)

/-- `HIGHZ` (R57). -/
def execHighz (s : State) : Host.Outcome State Fault Refusal :=
  .next (jtagHighz s)

end Sys2Proof.Machine
end

