-- ==== Sys2Proof/Machine/ClaimOps.lean ====
section
/-!
DEFINITION. The moments of the claim (R375 to R377, R383), and the partner's steering messages as they arrive over a
partner link (R391).
-/

namespace Sys2Proof.Machine

/-- A module attempts the claim by itself: in STANDBY, and in WAITING with ROLE 1 that has not left YIELDED (R376).
[DEDUCED: log 82] -/
def claimTry (s : State) : State :=
  if s.rdn.st == .standby || (s.rdn.st == .waiting && strapRole s && !s.rdn.afterYield) then attemptClaim s else s

/-- `CLAIM_IN` asserts: a race during a hold-off, and a SYNC request where the state asks for one. -/
def claimAsserted (s : State) : State :=
  if s.rdn.in_ || s.pwr.inReset then s
  else maybeSync (claimRace (modRdn s fun r => { r with in_ := true }))

/-- `CLAIM_IN` deasserts: a STANDBY module attempts the claim at once, unless it has just backed off from a race. -/
def claimDeasserted (s : State) : State :=
  if !s.rdn.in_ then s
  else
    let s := modRdn s fun r => { r with in_ := false, senseNs := s.ns }
    if s.rdn.st == .standby && !s.rdn.backedOff then attemptClaim s else s

/-- `CLAIM_WAIT` has run out with `CLAIM_IN` deasserted. -/
def claimWaited (s : State) : State :=
  if s.rdn.st == .waiting || s.rdn.st == .syncing then attemptClaim s else s

/-- The `CLAIM_OUT` contact reads low while the module drives it high (R375). [DEDUCED: log 82] -/
def claimFaulted (s : State) : State :=
  if !s.rdn.out then s
  else
    let s := modRdn s fun r => { r with outSense := false }
    let s := modRdn (endSync (releaseClaim s relFault .yielded)) fun r => { r with yieldCause := 0 }
    raiseIrqArgs (rdnErr s stRESOURCE 0x11) 0x0A 0 7 stRESOURCE [0x11]

/-- A tile of the plane has brought no OUTPUT for 3 samples (R380). [DEDUCED: log 128] -/
def silentRun (s : State) (t : Nat) : State :=
  if partnerUp s && 3 ≤ (tileOf s t).silent then markSilent s else s

/-- A YIELDED module leaves by itself with AUTO_RESYNC when its cause has cleared (R383): the failed engine is
FAULTY and holds no axis. [DEDUCED: log 82] -/
def autoClear (s : State) : State :=
  let gone := (engOf s 0x40 s.rdn.failEngine).faulty && (engineAxes s s.rdn.failEngine).isEmpty
  if s.rdn.st == .yielded && autoResync s && (s.rdn.yieldCause == 2 || s.rdn.yieldCause == 3 || (s.rdn.yieldCause == 1 && gone)) then
    leaveYielded s
  else s

/-- A steering message comes over a partner link; its slots are owed back, and STATUS is looked at after it. [DEDUCED: log 80] -/
def steerIn (s : State) (m : SteerMsg) (f : State → State) : State :=
  if (partnerLinks s).contains m.link then withStatus (steerArrived s m) f else s

end Sys2Proof.Machine
end

