-- ==== Sys2Proof/Machine/ExecRdn.lean ====
section
/-!
DEFINITION. Meanings of the commands of pair redundancy (R372 to R396).
-/

namespace Sys2Proof.Machine

/-- `CLAIM_ATTEMPT` (R375). -/
def execClaimAttempt (s : State) : Host.Outcome State Fault Refusal :=
  .next (withStatus s claimTry)

/-- `CLAIM_IN_ASSERT` (R375). -/
def execClaimInAssert (s : State) : Host.Outcome State Fault Refusal :=
  .next (withStatus s claimAsserted)

/-- `CLAIM_IN_DEASSERT` (R376). -/
def execClaimInDeassert (s : State) : Host.Outcome State Fault Refusal :=
  .next (withStatus s claimDeasserted)

/-- `CLAIM_HOLDOFF_END` (R375). -/
def execClaimHoldoffEnd (s : State) : Host.Outcome State Fault Refusal :=
  .next (withStatus s holdoffEnd)

/-- `RACE_BACKOFF_CHECK` (R375). -/
def execRaceBackoffCheck (s : State) : Host.Outcome State Fault Refusal :=
  .next (withStatus s backoffCheck)

/-- `CLAIM_WAIT_EXPIRY` (R376). -/
def execClaimWaitExpiry (s : State) : Host.Outcome State Fault Refusal :=
  .next (withStatus s claimWaited)

/-- `CLAIM_FAULT` (R375). -/
def execClaimFault (s : State) : Host.Outcome State Fault Refusal :=
  .next (withStatus s claimFaulted)

/-- `OUTPUT` (R379). -/
def execOutput (m : SteerMsg) (s : State) : Host.Outcome State Fault Refusal :=
  .next (steerIn s m fun s => outputRecv s m)

/-- `PARTNER_SILENT` (R380). -/
def execPartnerSilent (tile : Fin 36) (s : State) : Host.Outcome State Fault Refusal :=
  .next (withStatus s fun s => silentRun s tile.val)

/-- `ENGINE_TEST_DONE` (R381). -/
def execEngineTestDone (failed : List (Fin 48)) (s : State) : Host.Outcome State Fault Refusal :=
  .next (withStatus s fun s => engineTestEnd s (failed.map Fin.val))

/-- `CHECK` (R382). -/
def execCheck (m : SteerMsg) (s : State) : Host.Outcome State Fault Refusal :=
  .next (steerIn s m fun s => checkRecv s m)

/-- `CHECK_MISSING` (R382). -/
def execCheckMissing (s : State) : Host.Outcome State Fault Refusal :=
  .next (withStatus s checkMissingRun)

/-- `STATUS` (R391). -/
def execStatus (m : SteerMsg) (s : State) : Host.Outcome State Fault Refusal :=
  .next (steerIn s m fun s => statusRecv s m)

/-- `INTEG` (R385). -/
def execInteg (m : SteerMsg) (s : State) : Host.Outcome State Fault Refusal :=
  .next (steerIn s m fun s => followRecv s 0x01 m)

/-- `COEF` (R385). -/
def execCoef (m : SteerMsg) (s : State) : Host.Outcome State Fault Refusal :=
  .next (steerIn s m fun s => followRecv s 0x02 m)

/-- `TRIM` (R385). -/
def execTrim (m : SteerMsg) (s : State) : Host.Outcome State Fault Refusal :=
  .next (steerIn s m fun s => followRecv s 0x12 m)

/-- `ACCORD` (R386). -/
def execAccord (m : SteerMsg) (s : State) : Host.Outcome State Fault Refusal :=
  .next (steerIn s m fun s => followRecv s 0x03 m)

/-- `SYNC_REQ` (R388). -/
def execSyncReq (m : SteerMsg) (s : State) : Host.Outcome State Fault Refusal :=
  .next (steerIn s m syncReqRecv)

/-- `SYNC_REQ_REPEAT` (R376). -/
def execSyncReqRepeat (s : State) : Host.Outcome State Fault Refusal :=
  .next (maybeSync s)

/-- `SYNC_IMAGE_TAKE` (R388). -/
def execSyncImageTake (s : State) : Host.Outcome State Fault Refusal :=
  .next (imageTake s)

/-- `SYNC_DATA` (R388). -/
def execSyncData (m : SteerMsg) (s : State) : Host.Outcome State Fault Refusal :=
  .next (steerIn s m fun s => syncDataRecv s m)

/-- `SYNC_REFUSE` (R388). -/
def execSyncRefuse (m : SteerMsg) (s : State) : Host.Outcome State Fault Refusal :=
  .next (steerIn s m syncRefuseRecv)

/-- `SYNC_TIMEOUT` (R388). -/
def execSyncTimeout (s : State) : Host.Outcome State Fault Refusal :=
  .next (withStatus s syncTimeoutRun)

/-- `YIELD` (R396). -/
def execYield (who : Requester) (s : State) : Host.Outcome State Fault Refusal :=
  .next (writeAt s who 0x0A 0 0x044 1)

/-- `RDN_SYNC` (R396). -/
def execRdnSync (who : Requester) (s : State) : Host.Outcome State Fault Refusal :=
  .next (writeAt s who 0x0A 0 0x044 2)

/-- `RDN_CLEAR` (R383). -/
def execRdnClear (who : Requester) (s : State) : Host.Outcome State Fault Refusal :=
  .next (writeAt s who 0x0A 0 0x044 4)

/-- `YIELDED_AUTO_CLEAR` (R383). -/
def execYieldedAutoClear (s : State) : Host.Outcome State Fault Refusal :=
  .next (withStatus s autoClear)

end Sys2Proof.Machine
end

