-- ==== Sys2Proof/Machine/ExecRed.lean ====
section
/-!
DEFINITION. Meanings of the commands of the reduction engines and the contribution table (R200 to R212).
-/

namespace Sys2Proof.Machine

/-- `REDUCE` (R203). -/
def execReduce (q : Fin 64) (idx : Word) (ecc : List EccHit) (s : State) : Host.Outcome State Fault Refusal :=
  .next (onRun s q idx tyREDUCE fun s d => reduceRun s q.val d ecc)

/-- `EMIT` (R207). -/
def execEmit (q : Fin 64) (idx : Word) (ecc : List EccHit) (s : State) : Host.Outcome State Fault Refusal :=
  .next (onRun s q idx tyEMIT fun s d => emitRun s q.val d ecc)

/-- `CT_DISCARD` (R204). -/
def execCtDiscard (who : Requester) (die : Fin 4) (s : State) : Host.Outcome State Fault Refusal :=
  .next (writeAt s who 0x11 (32 * die.val) 0x124 1)

/-- `DISCARD_SWEEP_DONE` (R204). -/
def execDiscardSweepDone (die : Fin 4) (entry : Fin 2048) (s : State) : Host.Outcome State Fault Refusal :=
  .next (sweepDone s (2048 * die.val + entry.val))

/-- `RED_HOLD` (R212). -/
def execRedHold (who : Requester) (e : Fin 128) (s : State) : Host.Outcome State Fault Refusal :=
  .next (writeAt s who 0x11 e.val 0x008 (holdValue s 0x11 e.val true))

/-- `RED_SOFT_RESET` (R212). -/
def execRedSoftReset (who : Requester) (e : Fin 128) (s : State) : Host.Outcome State Fault Refusal :=
  .next (writeAt s who 0x11 e.val 0x008 (srstValue s 0x11 e.val false))

/-- `RED_TEST` (R212). -/
def execRedTest (who : Requester) (e : Fin 128) (s : State) : Host.Outcome State Fault Refusal :=
  .next (writeAt s who 0x11 e.val 0x064 1)

end Sys2Proof.Machine
end

