-- ==== Sys2Proof/Machine/ExecSel.lean ====
section
/-!
DEFINITION. Meanings of the commands of the fast selectors, the AFE, calibration and Fixative (R341 to R371).
-/

namespace Sys2Proof.Machine

/-- `CAGE_INSERT` (R344). -/
def execCageInsert (p : Fin 32) (first : Bool) (s : State) : Host.Outcome State Fault Refusal :=
  .next (cageInsertRun s p.val first)

/-- `CAGE_REMOVE` (R344). -/
def execCageRemove (p : Fin 32) (s : State) : Host.Outcome State Fault Refusal :=
  .next (cageRemoveRun s p.val)

/-- `FSEL_FORCE_WRITE` (R347). -/
def execFselForceWrite (who : Requester) (p : Fin 32) (value : Word) (s : State) : Host.Outcome State Fault Refusal :=
  .next (writeAt s who 0x43 p.val 0x048 value.toNat)

/-- `CHANNEL_CONVERSION` (R348). -/
def execChannelConversion (a : Fin 4) (ch : Fin 64) (raw : Nat) (s : State) : Host.Outcome State Fault Refusal :=
  .next (conversionRun s a.val ch.val raw)

/-- `HEATER_UPDATE` (R354). -/
def execHeaterUpdate (l : Fin 192) (activity : BitVec 16) (lit localMax : Bool) (s : State) : Host.Outcome State Fault Refusal :=
  .next (heaterRun s l.val activity lit localMax)

/-- `DITHER_PERIOD_END` (R353). -/
def execDitherPeriodEnd (l : Fin 192) (length : Nat) (used : List LockSample) (s : State) : Host.Outcome State Fault Refusal :=
  .next (periodRun s l.val length used)

/-- `PILOT_CHECK_START` (R356). -/
def execPilotCheckStart (l : Fin 192) (s : State) : Host.Outcome State Fault Refusal :=
  .next (pilotStartRun s l.val)

/-- `PILOT_CHECK_DONE` (R356). -/
def execPilotCheckDone (l : Fin 192) (levels : List Nat) (s : State) : Host.Outcome State Fault Refusal :=
  .next (pilotDoneRun s l.val levels)

/-- `REACQ_DARK_TIMEOUT` (R358). -/
def execReacqDarkTimeout (l : Fin 192) (s : State) : Host.Outcome State Fault Refusal :=
  .next (darkTimeoutRun s l.val)

/-- `LOOP_ENABLE` (R354). -/
def execLoopEnable (who : Requester) (p : Fin 32) (on : Bool) (s : State) : Host.Outcome State Fault Refusal :=
  .next (writeAt s who 0x43 p.val 0x054 (b2n on))

/-- `LOOP_REACQ` (R358). -/
def execLoopReacq (who : Requester) (p : Fin 32) (s : State) : Host.Outcome State Fault Refusal :=
  .next (writeAt s who 0x43 p.val 0x054 (2 + b2n (loopOf s (selLoop s p.val)).en))

/-- `FF_PARAM_WRITE` (R359). -/
def execFfParamWrite (who : Requester) (p : Fin 32) (offset : BitVec 12) (value : Word) (s : State) : Host.Outcome State Fault Refusal :=
  .next (writeAt s who 0x43 p.val offset.toNat value.toNat)

/-- `FSL_HOLD` (R354). -/
def execFslHold (who : Requester) (p : Fin 32) (on : Bool) (s : State) : Host.Outcome State Fault Refusal :=
  .next (writeAt s who 0x43 p.val 0x008 (holdValue s 0x43 p.val on))

/-- `POWERUP_CALIBRATION` (R361). -/
def execPowerupCalibration (averages : List Nat) (s : State) : Host.Outcome State Fault Refusal :=
  .next (powerupCalRun s averages)

/-- `CAL_OFFSET` (R362). -/
def execCalOffset (who : Requester) (s : State) : Host.Outcome State Fault Refusal :=
  .next (writeAt s who 0x45 0 0x040 1)

/-- `CAL_FRINGE` (R363). -/
def execCalFringe (who : Requester) (s : State) : Host.Outcome State Fault Refusal :=
  .next (writeAt s who 0x45 0 0x040 2)

/-- `CAL_PLANE` (R364). -/
def execCalPlane (who : Requester) (s : State) : Host.Outcome State Fault Refusal :=
  .next (writeAt s who 0x45 0 0x040 3)

/-- `CAL_ABORT` (R365). -/
def execCalAbort (who : Requester) (s : State) : Host.Outcome State Fault Refusal :=
  .next (writeAt s who 0x45 0 0x040 4)

/-- `FRINGE_SCAN_DONE` (R363). -/
def execFringeScanDone (l : Fin 192) (r : ScanResult) (s : State) : Host.Outcome State Fault Refusal :=
  .next (scanDoneRun s l.val r)

/-- `CAL_COMMAND_END` (R365). -/
def execCalCommandEnd (averages : List (Nat × Nat)) (plane : List PlaneReading) (ms : Word) (s : State) : Host.Outcome State Fault Refusal :=
  .next (calEndRun s averages plane ms)

/-- `FIX_SAVE` (R370). -/
def execFixSave (who : Requester) (s : State) : Host.Outcome State Fault Refusal :=
  .next (writeAt s who 0x46 0 0x04C 1)

/-- `FIXATIVE_SAVE_DONE` (R370). -/
def execFixativeSaveDone (readBackOk : Bool) (s : State) : Host.Outcome State Fault Refusal :=
  .next (saveDoneRun s readBackOk)

end Sys2Proof.Machine
end

