-- ==== Sys2Proof/Machine/ExecSillage.lean ====
section
/-!
DEFINITION. Meanings of the commands of Sillage, the CRC engines and the Blotter (R398 to R419).
-/

namespace Sys2Proof.Machine

/-- `BUCKET_REFILL` (R401). -/
def execBucketRefill (b : Fin 1024) (s : State) : Host.Outcome State Fault Refusal :=
  .next (bucketRefillRun s b.val)

/-- `RECORD_WRITE` (R402). -/
def execRecordWrite (s : State) : Host.Outcome State Fault Refusal :=
  .next (recordWriteRun s)

/-- `RD_SEQ_WRITE` (R406). -/
def execRdSeqWrite (who : Requester) (seq : Word) (s : State) : Host.Outcome State Fault Refusal :=
  .next (writeAt s who 0x07 0 0x054 seq.toNat)

/-- `SILLAGE_RELEASE` (R406). -/
def execSillageRelease (who : Requester) (seq : Word) (s : State) : Host.Outcome State Fault Refusal :=
  .next (writeAt s who 0x07 0 0x0A0 seq.toNat)

/-- `HOSTMARK` (R407). -/
def execHostmark (who : Requester) (sev : BitVec 3) (s : State) : Host.Outcome State Fault Refusal :=
  .next (writeAt s who 0x07 0 0x0C0 (1 + 0x10 * sev.toNat))

/-- `CHECKPOINT_WRITE` (R408). -/
def execCheckpointWrite (s : State) : Host.Outcome State Fault Refusal :=
  .next (checkpointRun s)

/-- `SILLAGE_PERSIST` (R409). -/
def execSillagePersist (s : State) : Host.Outcome State Fault Refusal :=
  .next (persistRun s)

/-- `SILLAGE_READ` (R410). -/
def execSillageRead (s : State) : Host.Outcome State Fault Refusal :=
  .next (sillageReadRun s)

/-- `CRC_GO` (R411). -/
def execCrcGo (who : Requester) (g : Fin 5) (s : State) : Host.Outcome State Fault Refusal :=
  .next (writeAt s who 0x08 g.val 0x058 1)

/-- `CRC_LEARN` (R413). -/
def execCrcLearn (who : Requester) (g : Fin 5) (s : State) : Host.Outcome State Fault Refusal :=
  .next (writeAt s who 0x08 g.val 0x058 2)

/-- `CRC_STOP` (R411). -/
def execCrcStop (who : Requester) (g : Fin 5) (s : State) : Host.Outcome State Fault Refusal :=
  .next (writeAt s who 0x08 g.val 0x058 4)

/-- `CRC_PASS_END` (R412). -/
def execCrcPassEnd (g : Fin 5) (upsetA upsetB : Bool) (ecc : List EccHit) (s : State) : Host.Outcome State Fault Refusal :=
  .next (crcEndRun s g.val upsetA upsetB ecc)

/-- `CRC_PERIOD_START` (R413). -/
def execCrcPeriodStart (g : Fin 5) (s : State) : Host.Outcome State Fault Refusal :=
  .next (crcPeriodRun s g.val)

/-- `BLOTTER_REGION_START` (R416). -/
def execBlotterRegionStart (s : State) : Host.Outcome State Fault Refusal :=
  .next (regionStartRun s)

/-- `BLOTTER_COPY_DONE` (R416). -/
def execBlotterCopyDone (s : State) : Host.Outcome State Fault Refusal :=
  .next (copyDoneRun s)

/-- `BLOTTER_TEST_DONE` (R416). -/
def execBlotterTestDone (failAt : Option Nat) (s : State) : Host.Outcome State Fault Refusal :=
  .next (testDoneRun s failAt)

/-- `BLOTTER_RESTORE_DONE` (R416). -/
def execBlotterRestoreDone (s : State) : Host.Outcome State Fault Refusal :=
  .next (restoreDoneRun s)

/-- `BLOTTER_RETRY` (R417). -/
def execBlotterRetry (s : State) : Host.Outcome State Fault Refusal :=
  .next (bltRetryRun s)

/-- `BLT_HOLD` (R418). -/
def execBltHold (who : Requester) (on : Bool) (s : State) : Host.Outcome State Fault Refusal :=
  .next (writeAt s who 0x48 0 0x008 (holdValue s 0x48 0 on))

/-- `BLOTTER_SPARE_TEST_DONE` (R416). -/
def execBlotterSpareTestDone (bad : Bool) (s : State) : Host.Outcome State Fault Refusal :=
  .next (spareTestRun s bad)

end Sys2Proof.Machine
end

