-- ==== Sys2Proof/Machine/ExecSteer.lean ====
section
/-!
DEFINITION. Meanings of the commands of the plane link, the loops, auto-tune, jog, Accords and the loop engines (R301 to R340).
-/

namespace Sys2Proof.Machine

/-- `PLANE_LINK_UP` (R301). -/
def execPlaneLinkUp (lanes : BitVec 4) (s : State) : Host.Outcome State Fault Refusal :=
  .next (planeUpRun s lanes)

/-- `PLANE_LANE_LOSS` (R301). -/
def execPlaneLaneLoss (lane : Fin 4) (s : State) : Host.Outcome State Fault Refusal :=
  .next (planeLaneLossRun s lane.val)

/-- `SAMPLE` (R309). -/
def execSample (bytes : List Byte) (s : State) : Host.Outcome State Fault Refusal :=
  .next (withStatus s fun s => sampleRun s bytes)

/-- `ACTUATOR` (R313). -/
def execActuator (tile : Fin 36) (late : List Nat) (s : State) : Host.Outcome State Fault Refusal :=
  .next (withStatus s fun s => actuatorRun s tile.val late)

/-- `TILE_LOST` (R314). -/
def execTileLost (tile : Fin 36) (s : State) : Host.Outcome State Fault Refusal :=
  .next (withStatus s fun s => tileLostRun s tile.val)

/-- `AXIS_MIGRATE` (R308). -/
def execAxisMigrate (axis : Fin 4608) (s : State) : Host.Outcome State Fault Refusal :=
  .next (migrate s axis.val)

/-- `SLOT_WRITE` (R315). -/
def execSlotWrite (who : Requester) (offset : BitVec 12) (value : Word) (s : State) : Host.Outcome State Fault Refusal :=
  .next (writeAt s who 0x40 0 offset.toNat value.toNat)

/-- `SLOT_HOLD` (R316). [DEDUCED: log 73] -/
def execSlotHold (who : Requester) (on : Bool) (s : State) : Host.Outcome State Fault Refusal :=
  .next (writeAt s who 0x40 0 0x104 (slotHoldValue s on))

/-- `MIR_TRIM_WRITE` (R384). -/
def execMirTrimWrite (who : Requester) (axisY : Bool) (value : Word) (s : State) : Host.Outcome State Fault Refusal :=
  .next (writeAt s who 0x42 0 (if axisY then 0x0BC else 0x0B8) value.toNat)

/-- `AUTOTUNE_GO` (R323). -/
def execAutotuneGo (who : Requester) (s : State) : Host.Outcome State Fault Refusal :=
  .next (writeAt s who 0x40 0 0x150 1)

/-- `AUTOTUNE_STOP` (R324). -/
def execAutotuneStop (who : Requester) (s : State) : Host.Outcome State Fault Refusal :=
  .next (writeAt s who 0x40 0 0x150 2)

/-- `AUTOTUNE_TIMEOUT` (R324). -/
def execAutotuneTimeout (s : State) : Host.Outcome State Fault Refusal :=
  .next (tuneEnd s stDEADLINE 0)

/-- `JOG_EDGE` (R321). -/
def execJogEdge (k : Fin 4) (a b : Bool) (s : State) : Host.Outcome State Fault Refusal :=
  .next (jogRun s k.val a b)

/-- `JOG_CLEAR` (R321). -/
def execJogClear (who : Requester) (mask : BitVec 4) (s : State) : Host.Outcome State Fault Refusal :=
  .next (writeAt s who 0x40 0 0x190 mask.toNat)

/-- `ACCORD_LOAD` (R326). -/
def execAccordLoad (who : Requester) (s : State) : Host.Outcome State Fault Refusal :=
  .next (writeAt s who 0x42 0 0x074 1)

/-- `ACCORD_ABORT` (R336). -/
def execAccordAbort (who : Requester) (entry : BitVec 4) (s : State) : Host.Outcome State Fault Refusal :=
  .next (writeAt s who 0x42 0 0x074 (2 + 0x100 * entry.toNat))

/-- `ACCORD_ENTRY_LOAD` (R328). -/
def execAccordEntryLoad (s : State) : Host.Outcome State Fault Refusal :=
  .next (entryLoadStart s)

/-- `ACCORD_LOAD_DONE` (R328). -/
def execAccordLoadDone (ecc : List EccHit) (s : State) : Host.Outcome State Fault Refusal :=
  .next (entryLoadDone s ecc)

/-- `ACCORD_VALIDATE_DONE` (R328). -/
def execAccordValidateDone (s : State) : Host.Outcome State Fault Refusal :=
  .next (entryValidateDone s)

/-- `GROUP_SETTLE_TIMEOUT` (R331). -/
def execGroupSettleTimeout (g : Fin 18) (s : State) : Host.Outcome State Fault Refusal :=
  .next (settleTimeout s g.val)

/-- `PEAK_TIMEOUT` (R332). -/
def execPeakTimeout (g : Fin 18) (s : State) : Host.Outcome State Fault Refusal :=
  .next (peakTimeout' s g.val)

/-- `PEAK_RETRY` (R335). -/
def execPeakRetry (s : State) : Host.Outcome State Fault Refusal :=
  .next (retryRound s)

/-- `LPE_HOLD` (R340). -/
def execLpeHold (who : Requester) (e : Fin 48) (s : State) : Host.Outcome State Fault Refusal :=
  .next (writeAt s who 0x40 e.val 0x008 (holdValue s 0x40 e.val true))

/-- `LPE_DRAIN_DONE` (R340). -/
def execLpeDrainDone (e : Fin 48) (s : State) : Host.Outcome State Fault Refusal :=
  .next (lpeDrained s e.val)

/-- `LPE_RELEASE` (R340). -/
def execLpeRelease (who : Requester) (e : Fin 48) (s : State) : Host.Outcome State Fault Refusal :=
  .next (writeAt s who 0x40 e.val 0x008 (holdValue s 0x40 e.val false))

/-- `LPE_SOFT_RESET` (R340). -/
def execLpeSoftReset (who : Requester) (e : Fin 48) (s : State) : Host.Outcome State Fault Refusal :=
  .next (writeAt s who 0x40 e.val 0x008 (srstValue s 0x40 e.val false))

/-- `LPE_TEST` (R340). -/
def execLpeTest (who : Requester) (e : Fin 48) (s : State) : Host.Outcome State Fault Refusal :=
  .next (writeAt s who 0x40 e.val 0x04C 1)

/-- `LOOP_ENGINE_FAULT` (R340). -/
def execLoopEngineFault (e : Fin 48) (s : State) : Host.Outcome State Fault Refusal :=
  .next (loopFault s e.val)

/-- `ACD_HOLD` (R329). -/
def execAcdHold (who : Requester) (on : Bool) (s : State) : Host.Outcome State Fault Refusal :=
  .next (writeAt s who 0x42 0 0x008 (holdValue s 0x42 0 on))

end Sys2Proof.Machine
end

