-- ==== Sys2Proof/Machine/Dispatch.lean ====
section
/-!
DEFINITION. The dispatch: one arm for each command, one direct call of its meaning.
-/

namespace Sys2Proof.Machine

/-- The effect of a command on everything but the queue. -/
def exec (i : Instr) (s : State) : Host.Outcome State Fault Refusal :=
  match i with
  | .vddAonRise => Sys2Proof.Machine.execVddAonRise s
  | .railFault rail => Sys2Proof.Machine.execRailFault rail s
  | .railRecovery => Sys2Proof.Machine.execRailRecovery s
  | .resetAssert pwrgdFell => Sys2Proof.Machine.execResetAssert pwrgdFell s
  | .pwrgdAssert rails => Sys2Proof.Machine.execPwrgdAssert rails s
  | .resetRelease straps => Sys2Proof.Machine.execResetRelease straps s
  | .powerupUnitStart => Sys2Proof.Machine.execPowerupUnitStart s
  | .refclk25Loss => Sys2Proof.Machine.execRefclk25Loss s
  | .sdsref156Loss => Sys2Proof.Machine.execSdsref156Loss s
  | .sdsref156Return => Sys2Proof.Machine.execSdsref156Return s
  | .optimeTick => Sys2Proof.Machine.execOptimeTick s
  | .optimeLoRead who => Sys2Proof.Machine.execOptimeLoRead who s
  | .idleAfterExpiry die => Sys2Proof.Machine.execIdleAfterExpiry die s
  | .offAfterExpiry die => Sys2Proof.Machine.execOffAfterExpiry die s
  | .engineIdle kind n => Sys2Proof.Machine.execEngineIdle kind n s
  | .hubOff h => Sys2Proof.Machine.execHubOff h s
  | .hubWake h => Sys2Proof.Machine.execHubWake h s
  | .wakePhaseStart => Sys2Proof.Machine.execWakePhaseStart s
  | .powerGateDone => Sys2Proof.Machine.execPowerGateDone s
  | .zeroingDone unit => Sys2Proof.Machine.execZeroingDone unit s
  | .clockUngateDone => Sys2Proof.Machine.execClockUngateDone s
  | .offEntryDone => Sys2Proof.Machine.execOffEntryDone s
  | .flwWake who die => Sys2Proof.Machine.execFlwWake who die s
  | .flwIdle who die => Sys2Proof.Machine.execFlwIdle who die s
  | .flwOff who die => Sys2Proof.Machine.execFlwOff who die s
  | .powerMeasure watts => Sys2Proof.Machine.execPowerMeasure watts s
  | .capRelease => Sys2Proof.Machine.execCapRelease s
  | .thermalThrottle die temp => Sys2Proof.Machine.execThermalThrottle die temp s
  | .thermalDieOff die temp => Sys2Proof.Machine.execThermalDieOff die temp s
  | .thermalTrip die temp => Sys2Proof.Machine.execThermalTrip die temp s
  | .bypass => Sys2Proof.Machine.execBypass s
  | .idcode => Sys2Proof.Machine.execIdcode s
  | .samplePreload pins preload => Sys2Proof.Machine.execSamplePreload pins preload s
  | .extest => Sys2Proof.Machine.execExtest s
  | .clamp => Sys2Proof.Machine.execClamp s
  | .highz => Sys2Proof.Machine.execHighz s
  | .registerWrite who addr value => Sys2Proof.Machine.execRegisterWrite who addr value s
  | .read f wordBad => Sys2Proof.Machine.execRead f wordBad s
  | .write f portB => Sys2Proof.Machine.execWrite f portB s
  | .rmw f => Sys2Proof.Machine.execRmw f s
  | .bulkRead f => Sys2Proof.Machine.execBulkRead f s
  | .bulkWrite f => Sys2Proof.Machine.execBulkWrite f s
  | .notifyAck f => Sys2Proof.Machine.execNotifyAck f s
  | .openSession f => Sys2Proof.Machine.execOpenSession f s
  | .close f => Sys2Proof.Machine.execClose f s
  | .keepalive f => Sys2Proof.Machine.execKeepalive f s
  | .krtPending op f => Sys2Proof.Machine.execKrtPending op f s
  | .sessionIdleExpiry slot => Sys2Proof.Machine.execSessionIdleExpiry slot s
  | .krtAnswerStart => Sys2Proof.Machine.execKrtAnswerStart s
  | .notifyRetry slot seq => Sys2Proof.Machine.execNotifyRetry slot seq s
  | .hostPortUp lanes => Sys2Proof.Machine.execHostPortUp lanes s
  | .hostPortRetrain lanes => Sys2Proof.Machine.execHostPortRetrain lanes s
  | .irqForce who page inst bits => Sys2Proof.Machine.execIrqForce who page inst bits s
  | .softReset who page inst hold => Sys2Proof.Machine.execSoftReset who page inst hold s
  | .softResetDone page inst => Sys2Proof.Machine.execSoftResetDone page inst s
  | .mbxAcquire who sid => Sys2Proof.Machine.execMbxAcquire who sid s
  | .mbxRelease who sid => Sys2Proof.Machine.execMbxRelease who sid s
  | .mbxH2fDoorbell who sid bits => Sys2Proof.Machine.execMbxH2fDoorbell who sid bits s
  | .mbxF2hDoorbell bits => Sys2Proof.Machine.execMbxF2hDoorbell bits s
  | .stage1Start => Sys2Proof.Machine.execStage1Start s
  | .recoveryRetry rewritten => Sys2Proof.Machine.execRecoveryRetry rewritten s
  | .rightsWrite who rights => Sys2Proof.Machine.execRightsWrite who rights s
  | .keySelWrite who slot => Sys2Proof.Machine.execKeySelWrite who slot s
  | .keyLoad who data => Sys2Proof.Machine.execKeyLoad who data s
  | .seal who => Sys2Proof.Machine.execSeal who s
  | .identGet => Sys2Proof.Machine.execIdentGet s
  | .attest => Sys2Proof.Machine.execAttest s
  | .imageWrite => Sys2Proof.Machine.execImageWrite s
  | .imageActivate => Sys2Proof.Machine.execImageActivate s
  | .bootConfirm => Sys2Proof.Machine.execBootConfirm s
  | .siteWrite => Sys2Proof.Machine.execSiteWrite s
  | .ownerAdd => Sys2Proof.Machine.execOwnerAdd s
  | .mgmtRestart => Sys2Proof.Machine.execMgmtRestart s
  | .restartCmd who => Sys2Proof.Machine.execRestartCmd who s
  | .wdogKick who => Sys2Proof.Machine.execWdogKick who s
  | .watchdogExpiry => Sys2Proof.Machine.execWatchdogExpiry s
  | .mgmtRestartBegin => Sys2Proof.Machine.execMgmtRestartBegin s
  | .ddr5ChannelTrain dimms => Sys2Proof.Machine.execDdr5ChannelTrain dimms s
  | .ddr5TrainingEnd good => Sys2Proof.Machine.execDdr5TrainingEnd good s
  | .ddr5ChannelFail c => Sys2Proof.Machine.execDdr5ChannelFail c s
  | .scrubVisit tier granule finding passEnd late => Sys2Proof.Machine.execScrubVisit tier granule finding passEnd late s
  | .heldAccessResume => Sys2Proof.Machine.execHeldAccessResume s
  | .jobAdmit => Sys2Proof.Machine.execJobAdmit s
  | .jobAdmitResume => Sys2Proof.Machine.execJobAdmitResume s
  | .jobRelease => Sys2Proof.Machine.execJobRelease s
  | .memQuery => Sys2Proof.Machine.execMemQuery s
  | .rangeZeroingDone => Sys2Proof.Machine.execRangeZeroingDone s
  | .tailWrite who q tail => Sys2Proof.Machine.execTailWrite who q tail s
  | .dbAdd who q add => Sys2Proof.Machine.execDbAdd who q add s
  | .tokSignal who die token inc => Sys2Proof.Machine.execTokSignal who die token inc s
  | .tokSet who die token value => Sys2Proof.Machine.execTokSet who die token value s
  | .tokValWrite who die value => Sys2Proof.Machine.execTokValWrite who die value s
  | .queueStop who q => Sys2Proof.Machine.execQueueStop who q s
  | .queueResume who q => Sys2Proof.Machine.execQueueResume who q s
  | .queueFlush who q => Sys2Proof.Machine.execQueueFlush who q s
  | .descriptorFetch q ecc => Sys2Proof.Machine.execDescriptorFetch q ecc s
  | .descriptorRelease q => Sys2Proof.Machine.execDescriptorRelease q s
  | .copy q idx ecc => Sys2Proof.Machine.execCopy q idx ecc s
  | .recv q idx => Sys2Proof.Machine.execRecv q idx s
  | .reduce q idx ecc => Sys2Proof.Machine.execReduce q idx ecc s
  | .emit q idx ecc => Sys2Proof.Machine.execEmit q idx ecc s
  | .atomize q idx ecc => Sys2Proof.Machine.execAtomize q idx ecc s
  | .optim q idx ecc => Sys2Proof.Machine.execOptim q idx ecc s
  | .branch q idx => Sys2Proof.Machine.execBranch q idx s
  | .tokenAdd q idx => Sys2Proof.Machine.execTokenAdd q idx s
  | .tokenSet q idx => Sys2Proof.Machine.execTokenSet q idx s
  | .tokenDoorbell q idx => Sys2Proof.Machine.execTokenDoorbell q idx s
  | .fence q idx => Sys2Proof.Machine.execFence q idx s
  | .accordWait q idx => Sys2Proof.Machine.execAccordWait q idx s
  | .waitLimitExpiry q => Sys2Proof.Machine.execWaitLimitExpiry q s
  | .recvWindowTimeout q idx => Sys2Proof.Machine.execRecvWindowTimeout q idx s
  | .queueBind => Sys2Proof.Machine.execQueueBind s
  | .queueUnbind => Sys2Proof.Machine.execQueueUnbind s
  | .tokenBind => Sys2Proof.Machine.execTokenBind s
  | .tokenUnbind => Sys2Proof.Machine.execTokenUnbind s
  | .flowLoad => Sys2Proof.Machine.execFlowLoad s
  | .ctDiscard who die => Sys2Proof.Machine.execCtDiscard who die s
  | .discardSweepDone die entry => Sys2Proof.Machine.execDiscardSweepDone die entry s
  | .redHold who e => Sys2Proof.Machine.execRedHold who e s
  | .redSoftReset who e => Sys2Proof.Machine.execRedSoftReset who e s
  | .redTest who e => Sys2Proof.Machine.execRedTest who e s
  | .selfTestDone kind n pass => Sys2Proof.Machine.execSelfTestDone kind n pass s
  | .nop e => Sys2Proof.Machine.execNop e s
  | .vadd e vd va vb => Sys2Proof.Machine.execVadd e vd va vb s
  | .vsub e vd va vb => Sys2Proof.Machine.execVsub e vd va vb s
  | .vmul e vd va vb => Sys2Proof.Machine.execVmul e vd va vb s
  | .vfma e vd va vb => Sys2Proof.Machine.execVfma e vd va vb s
  | .vmin e vd va vb => Sys2Proof.Machine.execVmin e vd va vb s
  | .vmax e vd va vb => Sys2Proof.Machine.execVmax e vd va vb s
  | .vcpys e vd va vb => Sys2Proof.Machine.execVcpys e vd va vb s
  | .vadds e vd va sk => Sys2Proof.Machine.execVadds e vd va sk s
  | .vmuls e vd va sk => Sys2Proof.Machine.execVmuls e vd va sk s
  | .vfmas e vd va sk => Sys2Proof.Machine.execVfmas e vd va sk s
  | .vaxpb e vd va sk => Sys2Proof.Machine.execVaxpb e vd va sk s
  | .vmins e vd va sk => Sys2Proof.Machine.execVmins e vd va sk s
  | .vmaxs e vd va sk => Sys2Proof.Machine.execVmaxs e vd va sk s
  | .vbcast e vd sk => Sys2Proof.Machine.execVbcast e vd sk s
  | .vrcp e vd va => Sys2Proof.Machine.execVrcp e vd va s
  | .vrsqrt e vd va => Sys2Proof.Machine.execVrsqrt e vd va s
  | .vsqrt e vd va => Sys2Proof.Machine.execVsqrt e vd va s
  | .vexp2 e vd va => Sys2Proof.Machine.execVexp2 e vd va s
  | .vlog2 e vd va => Sys2Proof.Machine.execVlog2 e vd va s
  | .vabs e vd va => Sys2Proof.Machine.execVabs e vd va s
  | .vneg e vd va => Sys2Proof.Machine.execVneg e vd va s
  | .vmov e vd va => Sys2Proof.Machine.execVmov e vd va s
  | .sadd e sd sa sb => Sys2Proof.Machine.execSadd e sd sa sb s
  | .ssub e sd sa sb => Sys2Proof.Machine.execSsub e sd sa sb s
  | .smul e sd sa sb => Sys2Proof.Machine.execSmul e sd sa sb s
  | .sfma e sd sa sb => Sys2Proof.Machine.execSfma e sd sa sb s
  | .smin e sd sa sb => Sys2Proof.Machine.execSmin e sd sa sb s
  | .smax e sd sa sb => Sys2Proof.Machine.execSmax e sd sa sb s
  | .srcp e sd sa => Sys2Proof.Machine.execSrcp e sd sa s
  | .srsqrt e sd sa => Sys2Proof.Machine.execSrsqrt e sd sa s
  | .ssqrt e sd sa => Sys2Proof.Machine.execSsqrt e sd sa s
  | .sexp2 e sd sa => Sys2Proof.Machine.execSexp2 e sd sa s
  | .slog2 e sd sa => Sys2Proof.Machine.execSlog2 e sd sa s
  | .smov e sd sa => Sys2Proof.Machine.execSmov e sd sa s
  | .sli e sd imm => Sys2Proof.Machine.execSli e sd imm s
  | .vld e v stream => Sys2Proof.Machine.execVld e v stream s
  | .vst e v stream => Sys2Proof.Machine.execVst e v stream s
  | .lacc e k va => Sys2Proof.Machine.execLacc e k va s
  | .hacc e k va => Sys2Proof.Machine.execHacc e k va s
  | .pass e => Sys2Proof.Machine.execPass e s
  | .tile e => Sys2Proof.Machine.execTile e s
  | .endMark e => Sys2Proof.Machine.execEndMark e s
  | .optHold who e => Sys2Proof.Machine.execOptHold who e s
  | .optSoftReset who e => Sys2Proof.Machine.execOptSoftReset who e s
  | .optTest who e => Sys2Proof.Machine.execOptTest who e s
  | .schedule q idx ecc => Sys2Proof.Machine.execSchedule q idx ecc s
  | .assign q idx ecc => Sys2Proof.Machine.execAssign q idx ecc s
  | .sinkhorn q idx ecc => Sys2Proof.Machine.execSinkhorn q idx ecc s
  | .gemm q idx ecc => Sys2Proof.Machine.execGemm q idx ecc s
  | .validate q idx ecc => Sys2Proof.Machine.execValidate q idx ecc s
  | .snapshot q idx ecc => Sys2Proof.Machine.execSnapshot q idx ecc s
  | .portmapSet => Sys2Proof.Machine.execPortmapSet s
  | .portmapGet => Sys2Proof.Machine.execPortmapGet s
  | .plnHold who die => Sys2Proof.Machine.execPlnHold who die s
  | .plnSoftReset who die => Sys2Proof.Machine.execPlnSoftReset who die s
  | .plnTest who die => Sys2Proof.Machine.execPlnTest who die s
  | .fecBlockReceive n b => Sys2Proof.Machine.execFecBlockReceive n b s
  | .replayTimeout n => Sys2Proof.Machine.execReplayTimeout n s
  | .laneFail n lane => Sys2Proof.Machine.execLaneFail n lane s
  | .retrainDone n lanes => Sys2Proof.Machine.execRetrainDone n lanes s
  | .retrainTimeout n => Sys2Proof.Machine.execRetrainTimeout n s
  | .lnkWiden who n => Sys2Proof.Machine.execLnkWiden who n s
  | .linkLoss n => Sys2Proof.Machine.execLinkLoss n s
  | .trainingAttempt n => Sys2Proof.Machine.execTrainingAttempt n s
  | .trainingPatternReceive n => Sys2Proof.Machine.execTrainingPatternReceive n s
  | .trainingDone n lanes => Sys2Proof.Machine.execTrainingDone n lanes s
  | .init n m => Sys2Proof.Machine.execInit n m s
  | .linkIdle n => Sys2Proof.Machine.execLinkIdle n s
  | .linkWrite n m => Sys2Proof.Machine.execLinkWrite n m s
  | .linkRead n m ecc => Sys2Proof.Machine.execLinkRead n m ecc s
  | .rdata n m => Sys2Proof.Machine.execRdata n m s
  | .wack n m => Sys2Proof.Machine.execWack n m s
  | .regwr n m => Sys2Proof.Machine.execRegwr n m s
  | .regack n m => Sys2Proof.Machine.execRegack n m s
  | .linkCredit n m => Sys2Proof.Machine.execLinkCredit n m s
  | .reach n m => Sys2Proof.Machine.execReach n m s
  | .creditReturn n => Sys2Proof.Machine.execCreditReturn n s
  | .reachSend => Sys2Proof.Machine.execReachSend s
  | .routeDrainRelease p => Sys2Proof.Machine.execRouteDrainRelease p s
  | .partCfgWrite who n value => Sys2Proof.Machine.execPartCfgWrite who n value s
  | .linkTableSet => Sys2Proof.Machine.execLinkTableSet s
  | .linkTableGet => Sys2Proof.Machine.execLinkTableGet s
  | .fppEnable who p on => Sys2Proof.Machine.execFppEnable who p on s
  | .portTrainDone p => Sys2Proof.Machine.execPortTrainDone p s
  | .portDown p => Sys2Proof.Machine.execPortDown p s
  | .kftData p f => Sys2Proof.Machine.execKftData p f s
  | .kftToken p f => Sys2Proof.Machine.execKftToken p f s
  | .kftAck p f => Sys2Proof.Machine.execKftAck p f s
  | .kftNak p f => Sys2Proof.Machine.execKftNak p f s
  | .kftCredit p f => Sys2Proof.Machine.execKftCredit p f s
  | .burstEnd p f => Sys2Proof.Machine.execBurstEnd p f s
  | .kftBranch p f => Sys2Proof.Machine.execKftBranch p f s
  | .ackDelayExpiry p => Sys2Proof.Machine.execAckDelayExpiry p s
  | .rtoExpiry p => Sys2Proof.Machine.execRtoExpiry p s
  | .brTimeoutExpiry p => Sys2Proof.Machine.execBrTimeoutExpiry p s
  | .branchRepeat p => Sys2Proof.Machine.execBranchRepeat p s
  | .lnkTest who n mode => Sys2Proof.Machine.execLnkTest who n mode s
  | .fppTest who p mode => Sys2Proof.Machine.execFppTest who p mode s
  | .planeLinkUp lanes => Sys2Proof.Machine.execPlaneLinkUp lanes s
  | .planeLaneLoss lane => Sys2Proof.Machine.execPlaneLaneLoss lane s
  | .sample bytes => Sys2Proof.Machine.execSample bytes s
  | .actuator tile late => Sys2Proof.Machine.execActuator tile late s
  | .tileLost tile => Sys2Proof.Machine.execTileLost tile s
  | .axisMigrate axis => Sys2Proof.Machine.execAxisMigrate axis s
  | .slotWrite who offset value => Sys2Proof.Machine.execSlotWrite who offset value s
  | .slotHold who on => Sys2Proof.Machine.execSlotHold who on s
  | .mirTrimWrite who axisY value => Sys2Proof.Machine.execMirTrimWrite who axisY value s
  | .autotuneGo who => Sys2Proof.Machine.execAutotuneGo who s
  | .autotuneStop who => Sys2Proof.Machine.execAutotuneStop who s
  | .autotuneTimeout => Sys2Proof.Machine.execAutotuneTimeout s
  | .jogEdge k a b => Sys2Proof.Machine.execJogEdge k a b s
  | .jogClear who mask => Sys2Proof.Machine.execJogClear who mask s
  | .accordLoad who => Sys2Proof.Machine.execAccordLoad who s
  | .accordAbort who entry => Sys2Proof.Machine.execAccordAbort who entry s
  | .accordEntryLoad => Sys2Proof.Machine.execAccordEntryLoad s
  | .accordLoadDone ecc => Sys2Proof.Machine.execAccordLoadDone ecc s
  | .accordValidateDone => Sys2Proof.Machine.execAccordValidateDone s
  | .groupSettleTimeout g => Sys2Proof.Machine.execGroupSettleTimeout g s
  | .peakTimeout g => Sys2Proof.Machine.execPeakTimeout g s
  | .peakRetry => Sys2Proof.Machine.execPeakRetry s
  | .lpeHold who e => Sys2Proof.Machine.execLpeHold who e s
  | .lpeDrainDone e => Sys2Proof.Machine.execLpeDrainDone e s
  | .lpeRelease who e => Sys2Proof.Machine.execLpeRelease who e s
  | .lpeSoftReset who e => Sys2Proof.Machine.execLpeSoftReset who e s
  | .lpeTest who e => Sys2Proof.Machine.execLpeTest who e s
  | .loopEngineFault e => Sys2Proof.Machine.execLoopEngineFault e s
  | .cageInsert p first => Sys2Proof.Machine.execCageInsert p first s
  | .cageRemove p => Sys2Proof.Machine.execCageRemove p s
  | .fselForceWrite who p value => Sys2Proof.Machine.execFselForceWrite who p value s
  | .channelConversion a ch raw => Sys2Proof.Machine.execChannelConversion a ch raw s
  | .heaterUpdate l activity lit localMax => Sys2Proof.Machine.execHeaterUpdate l activity lit localMax s
  | .ditherPeriodEnd l length used => Sys2Proof.Machine.execDitherPeriodEnd l length used s
  | .pilotCheckStart l => Sys2Proof.Machine.execPilotCheckStart l s
  | .pilotCheckDone l levels => Sys2Proof.Machine.execPilotCheckDone l levels s
  | .reacqDarkTimeout l => Sys2Proof.Machine.execReacqDarkTimeout l s
  | .loopEnable who p on => Sys2Proof.Machine.execLoopEnable who p on s
  | .loopReacq who p => Sys2Proof.Machine.execLoopReacq who p s
  | .ffParamWrite who p offset value => Sys2Proof.Machine.execFfParamWrite who p offset value s
  | .branchPathRelease p => Sys2Proof.Machine.execBranchPathRelease p s
  | .branchPathTimeout p => Sys2Proof.Machine.execBranchPathTimeout p s
  | .fslHold who p on => Sys2Proof.Machine.execFslHold who p on s
  | .powerupCalibration averages => Sys2Proof.Machine.execPowerupCalibration averages s
  | .calOffset who => Sys2Proof.Machine.execCalOffset who s
  | .calFringe who => Sys2Proof.Machine.execCalFringe who s
  | .calPlane who => Sys2Proof.Machine.execCalPlane who s
  | .calAbort who => Sys2Proof.Machine.execCalAbort who s
  | .fringeScanDone l r => Sys2Proof.Machine.execFringeScanDone l r s
  | .calCommandEnd averages plane ms => Sys2Proof.Machine.execCalCommandEnd averages plane ms s
  | .fixSave who => Sys2Proof.Machine.execFixSave who s
  | .fixativeSaveDone readBackOk => Sys2Proof.Machine.execFixativeSaveDone readBackOk s
  | .claimAttempt => Sys2Proof.Machine.execClaimAttempt s
  | .claimInAssert => Sys2Proof.Machine.execClaimInAssert s
  | .claimInDeassert => Sys2Proof.Machine.execClaimInDeassert s
  | .claimHoldoffEnd => Sys2Proof.Machine.execClaimHoldoffEnd s
  | .raceBackoffCheck => Sys2Proof.Machine.execRaceBackoffCheck s
  | .claimWaitExpiry => Sys2Proof.Machine.execClaimWaitExpiry s
  | .claimFault => Sys2Proof.Machine.execClaimFault s
  | .output m => Sys2Proof.Machine.execOutput m s
  | .partnerSilent tile => Sys2Proof.Machine.execPartnerSilent tile s
  | .engineTestDone failed => Sys2Proof.Machine.execEngineTestDone failed s
  | .check m => Sys2Proof.Machine.execCheck m s
  | .checkMissing => Sys2Proof.Machine.execCheckMissing s
  | .status m => Sys2Proof.Machine.execStatus m s
  | .integ m => Sys2Proof.Machine.execInteg m s
  | .coef m => Sys2Proof.Machine.execCoef m s
  | .trim m => Sys2Proof.Machine.execTrim m s
  | .accord m => Sys2Proof.Machine.execAccord m s
  | .syncReq m => Sys2Proof.Machine.execSyncReq m s
  | .syncReqRepeat => Sys2Proof.Machine.execSyncReqRepeat s
  | .syncImageTake => Sys2Proof.Machine.execSyncImageTake s
  | .syncData m => Sys2Proof.Machine.execSyncData m s
  | .syncRefuse m => Sys2Proof.Machine.execSyncRefuse m s
  | .syncTimeout => Sys2Proof.Machine.execSyncTimeout s
  | .yield who => Sys2Proof.Machine.execYield who s
  | .rdnSync who => Sys2Proof.Machine.execRdnSync who s
  | .rdnClear who => Sys2Proof.Machine.execRdnClear who s
  | .yieldedAutoClear => Sys2Proof.Machine.execYieldedAutoClear s
  | .bucketRefill b => Sys2Proof.Machine.execBucketRefill b s
  | .recordWrite => Sys2Proof.Machine.execRecordWrite s
  | .rdSeqWrite who seq => Sys2Proof.Machine.execRdSeqWrite who seq s
  | .sillageRelease who seq => Sys2Proof.Machine.execSillageRelease who seq s
  | .hostmark who sev => Sys2Proof.Machine.execHostmark who sev s
  | .checkpointWrite => Sys2Proof.Machine.execCheckpointWrite s
  | .sillagePersist => Sys2Proof.Machine.execSillagePersist s
  | .sillageRead => Sys2Proof.Machine.execSillageRead s
  | .crcGo who g => Sys2Proof.Machine.execCrcGo who g s
  | .crcLearn who g => Sys2Proof.Machine.execCrcLearn who g s
  | .crcStop who g => Sys2Proof.Machine.execCrcStop who g s
  | .crcPassEnd g upsetA upsetB ecc => Sys2Proof.Machine.execCrcPassEnd g upsetA upsetB ecc s
  | .crcPeriodStart g => Sys2Proof.Machine.execCrcPeriodStart g s
  | .blotterRegionStart => Sys2Proof.Machine.execBlotterRegionStart s
  | .blotterCopyDone => Sys2Proof.Machine.execBlotterCopyDone s
  | .blotterTestDone failAt => Sys2Proof.Machine.execBlotterTestDone failAt s
  | .blotterRestoreDone => Sys2Proof.Machine.execBlotterRestoreDone s
  | .blotterRetry => Sys2Proof.Machine.execBlotterRetry s
  | .bltHold who on => Sys2Proof.Machine.execBltHold who on s
  | .schHold who die on => Sys2Proof.Machine.execSchHold who die on s
  | .acdHold who on => Sys2Proof.Machine.execAcdHold who on s
  | .copyEngineHold who atomizer e on => Sys2Proof.Machine.execCopyEngineHold who atomizer e on s
  | .positionLossTimeout => Sys2Proof.Machine.execPositionLossTimeout s
  | .pendingRouteResume p => Sys2Proof.Machine.execPendingRouteResume p s
  | .pageCtlEnWrite who page inst on => Sys2Proof.Machine.execPageCtlEnWrite who page inst on s
  | .blotterSpareTestDone bad => Sys2Proof.Machine.execBlotterSpareTestDone bad s

end Sys2Proof.Machine
end

