-- ==== Sys2Proof/Machine/StepOps.lean ====
section
/-!
DEFINITION. What the block does by itself when no command waits.
-/

namespace Sys2Proof.Machine

/-- On an empty queue one nanosecond passes (DESIGN CHOICE): the counter NS of R181 counts outside
reset; everything else that time does is a command of the table. [DESIGN CHOICE: log 2] -/
def idleStep (s : State) : State := if s.pwr.inReset then s else { s with ns := s.ns + 1#64 }

end Sys2Proof.Machine
end

