-- ==== Sys2Proof/Safety.lean ====
section
/-!
DEFINITION. The terms in which claims about the block are stated: a safe run, what a report may write,
and which writes reach their block.
-/

namespace Sys2Proof

/-- A run of `k` steps from `s` that reaches a next state. -/
def SafeRun (k : Nat) (s : Machine.State) : Prop := ∃ t, core.run k s = .next t

namespace Machine

/-- The registers that a report of an event may write besides the page's own `IRQ_STAT`: `IRQ_STAT` of HST and EVR,
and Sillage's counters of lost and suppressed events (R401, R403). -/
def reportKeys : List Nat := [Reg.HST_IRQ_STAT, Reg.EVR_IRQ_STAT, Reg.EVR_CNT_LOST, Reg.EVR_CNT_SUPPRESSED]

/-- `t` is `s` but for what reports of events write (R85 to R87, R399 to R403): the registers in `ks` and in
`reportKeys`, Sillage's FIFO and rate limiter, the sessions' NOTIFY state, and the frames sent. -/
structure Reports (ks : List Nat) (s t : State) : Prop where
  rest : t = { s with regs := t.regs, evr := t.evr, hst := t.hst, out := t.out, fresh := t.fresh }
  evr : t.evr = { s.evr with buckets := t.evr.buckets, fifo := t.evr.fifo, losses := t.evr.losses, lossFirst := t.evr.lossFirst, lossLast := t.evr.lossLast }
  hst : t.hst = { s.hst with sessions := t.hst.sessions, armed := t.hst.armed }
  regs : ∀ k, k ∉ ks → k ∉ reportKeys → getReg t k = getReg s k

/-- Fuses blown so far: a security-version floor of at least `n`, the owner key `o` if one is named, and owner 0
revoked if `r` (R95, R98). -/
def FusesAtLeast (n : Nat) (o : Option (BitVec 384)) (r : Bool) (s : State) : Prop :=
  n ≤ s.otp.floor ∧ (∀ x, o = some x → s.otp.owner1 = some x) ∧ (r = true → s.otp.owner0Revoked = true)

/-- The byte memories, their marks and the register file are in their canonical form. -/
def Canonical (s : State) : Prop := Memory.wf s.mem = true ∧ tblWf regDefault s.regs = true

/-- A write by `who` of the register at an offset of a page passes steps 6 to 9 of R68: the module is out of reset,
the page exists, the class has the write right, the register is not sealed, and the unit takes it. -/
def Reaches (s : State) (who : Requester) (ty inst o : Nat) : Prop :=
  s.pwr.inReset = false ∧ pageExists ty inst = true ∧ mayAccess s (classOf who) ty o true = true ∧
    sealedReg s ty o = false ∧ notReady s ty inst o = false

/-- The write reaches its block and EN is 1, so the block takes commands (R64). -/
def Commands (s : State) (who : Requester) (ty inst o : Nat) : Prop :=
  Reaches s who ty inst o ∧ enOf s ty inst = true

/-- `t` is `s` with a refusal recorded in a page (R66): STATUS in `ERR_CODE` bits 31:16, one more in `ERR_COUNT`,
nothing else changed. -/
def RefusedWith (s t : State) (ty inst st : Nat) : Prop :=
  t = { s with regs := t.regs } ∧ fld (getReg t (pageKey ty inst + 0x01C)) 16 16 = st ∧
    getReg t (pageKey ty inst + 0x020) = satAdd (getReg s (pageKey ty inst + 0x020)) 1 ∧
    ∀ k, k ≠ pageKey ty inst + 0x01C → k ≠ pageKey ty inst + 0x020 → getReg t k = getReg s k

/-- A register of the AON domain: the PWR and EVR pages. -/
def AonReg (k : Nat) : Prop := k / 0x100000 = 0x02 ∨ k / 0x100000 = 0x07

/-- `t` is `m` held in a module reset whose cause is bit `b` of `RESET_CAUSE` (R30, R32, R41): every die is OFF with
its contents lost, CLAIM_OUT is not asserted, nothing is sent; the AON domain, fuses and flash keep what they hold. -/
structure InModuleReset (m t : State) (b : Nat) : Prop where
  inReset : t.pwr.inReset = true
  units : ∀ u, unitSt t u = .off
  aon : ∀ k, AonReg k → k ≠ Reg.PWR_RESET_CAUSE → getReg t k = getReg m k
  cause : getReg t Reg.PWR_RESET_CAUSE = getReg m Reg.PWR_RESET_CAUSE ||| toWord (2 ^ b)
  others : ∀ k, ¬ AonReg k → getReg t k = regDefault k
  counters : t.pwr.optime = m.pwr.optime ∧ t.pwr.pcycle = m.pwr.pcycle
  sillage : t.evr = { m.evr with sevMap := [] }
  kept : t.otp = m.otp ∧ t.mem.flash = m.mem.flash
  claim : t.rdn.out = false
  quiet : t.out = m.out
  lost : t.flow = {} ∧ t.ct = [] ∧ t.opt = [] ∧ t.ste = {} ∧ t.hst = {} ∧ t.board = {}

/-- Every condition of R33, R56 and R429 for a reset to release holds. -/
def ReadyForRelease (m : State) : Prop :=
  m.pwr.inReset = true ∧ m.pwr.pwrgd = true ∧ m.pwr.resetN = false ∧ m.pwr.rails = 0x7FFFF#19 ∧ m.pwr.tripped = false

/-- `t` is `m` with its reset released: straps sampled and checked, and the power-up order at its start (R37, R38, R52). -/
structure Released (m t : State) : Prop where
  rest : Reports [Reg.PWR_STRAPS, Reg.PWR_STRAP_ERR] { m with
    ns := 0#64
    pwr := { m.pwr with
      inReset := false
      upStep := 0
      jtag := if m.pwr.jtag = .idcode then .idcode else .bypass
      jtagDrive := none } } t
  straps : getReg t Reg.PWR_STRAPS = toWord m.pwr.strapPins.toNat
  strapErr : getReg t Reg.PWR_STRAP_ERR =
    if boardSize t ≤ ownPos t then 1#32 else if strapPlan t = 3 then 2#32 else 0#32

/-- `t` is `s` with HOLD of a page's `PAGE_CTL` as given and EN as it was (R64); nothing else changed. -/
def HoldSet (s t : State) (ty inst : Nat) (on : Bool) : Prop :=
  t = { s with regs := t.regs } ∧ holdOf t ty inst = on ∧ enOf t ty inst = enOf s ty inst ∧
    ∀ k, k ≠ pageKey ty inst + 0x008 → getReg t k = getReg s k

/-- `t` is `s` with a page put into a soft reset (R64): EN as it was and HOLD as given, every register of the page
that the reset does not leave at its reset value, nothing else changed but what a report changes. -/
def PageReset (s t : State) (ty inst : Nat) (hold : Bool) : Prop :=
  inSrst t ty inst = true ∧ enOf t ty inst = enOf s ty inst ∧ holdOf t ty inst = hold ∧
    (∀ o, o < 0x1000 → srstKeeps ty inst o = false → getReg t (pageKey ty inst + o) = regDefault (pageKey ty inst + o)) ∧
    Reports ((List.range 0x1000).map (pageKey ty inst + ·)) { s with hst := { s.hst with srst := t.hst.srst } } t ∧
    ∀ k, k ≠ pageKey ty inst → tget (fun _ => false) t.hst.srst k = tget (fun _ => false) s.hst.srst k

/-! ## Boot and firmware services -/

/-- The header in force asks for a trial of its slot that has not been taken (R96). -/
def trialIsArmed (m : State) : Bool := match headerInForce m with | some (_, b) => hdrTrial b == 0x0F | none => false

/-- The header's trial was taken by an earlier boot, so the other slot comes first (R96). -/
def trialIsTaken (m : State) : Bool :=
  match headerInForce m with | some (_, b) => hdrTrial b != 0xFF && hdrTrial b != 0x0F | none => false

/-- The slot that the boot ROM tries first (R96). -/
def firstSlot (m : State) : Nat :=
  match headerInForce m with | some (_, b) => if trialIsTaken m then 1 - hdrPref b else hdrPref b | none => 0

/-- Slot `slot` runs as stage 1 in `t`, with the flags of `BOOT_STAT` and the set of the site record chosen (R96, R100, R101). -/
def RunsStage1 (m t : State) (slot : Nat) (fallback trial : Bool) : Prop :=
  t.boot = { m.boot with
    phase := .stage1
    slot := slot
    staged := m.boot.sealOn
    loading := siteSetup ((siteChoice m).map Prod.snd)
    keyPtr := 0
    siteNew := t.boot.siteNew
    measNew := t.boot.measNew } ∧
    (t.boot.siteNew.map SiteRec.slot) = (siteChoice m).map Prod.fst ∧
    fld (getReg t Reg.BOOT_BOOT_STAT) 0 3 = slot + 2 * b2n fallback + 4 * b2n trial ∧
    fld (getReg t Reg.BOOT_SVN) 0 8 = manifestSvn (manifest m slot)

/-- `t` is `m` after the boot ROM's choice of a slot (R94, R96, R97). -/
structure Booted (m t : State) : Prop where
  first : (slotCheck m (firstSlot m)).1 = stOK →
    RunsStage1 m t (firstSlot m) (trialIsTaken m) (trialIsArmed m) ∧
      getReg t Reg.BOOT_IRQ_STAT = getReg m Reg.BOOT_IRQ_STAT ||| (if (siteChoice m).isNone then 16#32 else 0#32)
  second : (slotCheck m (firstSlot m)).1 ≠ stOK → (slotCheck m (1 - firstSlot m)).1 = stOK →
    RunsStage1 m t (1 - firstSlot m) true (trialIsTaken m) ∧
      getReg t Reg.BOOT_IRQ_STAT = getReg m Reg.BOOT_IRQ_STAT ||| (if (siteChoice m).isNone then 17#32 else 1#32)
  neither : (slotCheck m (firstSlot m)).1 ≠ stOK → (slotCheck m (1 - firstSlot m)).1 ≠ stOK →
    t.boot = { m.boot with phase := .recovery } ∧ getReg t Reg.BOOT_IRQ_STAT = getReg m Reg.BOOT_IRQ_STAT ||| 8#32
  result : fld (getReg t Reg.BOOT_SLOT_RES) (16 * firstSlot m) 16 = (slotCheck m (firstSlot m)).1 ∧
    fld (getReg t Reg.BOOT_SLOT_DET) (8 * firstSlot m) 8 = (slotCheck m (firstSlot m)).2
  flash : ∀ a, tget (fun _ => 0xFF#8) t.mem.flash a =
    (match headerInForce m with
      | some (k, _) => if trialIsArmed m = true ∧ a = 65536 * k + 9 then 0x00#8 else tget (fun _ => 0xFF#8) m.mem.flash a
      | none => tget (fun _ => 0xFF#8) m.mem.flash a)
  rest : Reports [Reg.BOOT_SLOT_RES, Reg.BOOT_SLOT_DET, Reg.BOOT_BOOT_STAT, Reg.BOOT_SVN, Reg.BOOT_IRQ_STAT]
    { m with boot := t.boot, mem := { m.mem with flash := t.mem.flash } } t

/-- Firmware runs, and the mailbox asks for the service `code` from one of the classes with a body of `n` bytes (R89, R112). -/
structure Asks (s : State) (code n : Nat) (classes : List Nat) : Prop where
  runs : s.boot.phase = .firmware
  asked : asked s code = true
  cls : fld (getReg s Reg.HST_MBX_DB_SRC) 16 2 ∈ classes
  len : leNat (mbxPeek s 4 4) = n

/-- `t` is `m` with a reply of firmware (R89, R112): the reply with code, status, length, tag and body stands in the
upper half of the mailbox, and doorbell bit 0 rings the host. Nothing else changed but the request's doorbell and what
the accesses to scratch SRAM do to a Blotter that works on that region (R417). -/
def MailReply (m t : State) (code : Nat) (tag body : List Byte) (st : Nat) : Prop :=
  (∀ i b, (leBytes 2 code ++ leBytes 2 st ++ leBytes 4 body.length ++ tag ++ body)[i]? = some b →
    scratchByte t (mbxBase + 0x8000 + i) = b) ∧
  (∀ a, a < mbxBase + 0x8000 ∨ mbxBase + 0x8010 + body.length ≤ a → scratchByte t a = scratchByte m a) ∧
  (getReg t Reg.HST_MBX_F2H_DB).getLsbD 0 = true ∧
  Reports [Reg.HST_MBX_F2H_DB, Reg.HST_MBX_H2F_DB, Reg.BLT_CUR, Reg.BLT_CNT_ABORT, Reg.BLT_IRQ_STAT]
    { m with blt := t.blt, mem := { m.mem with scratch := t.mem.scratch, spare := t.mem.spare } } t

/-- A request is taken from the mailbox and answered: its doorbell bit is cleared too. -/
def Answered (m t : State) (code : Nat) (tag body : List Byte) (st : Nat) : Prop :=
  MailReply m t code tag body st ∧ (getReg t Reg.HST_MBX_H2F_DB).getLsbD 0 = false

/-- The services of R112, R138, R183, R246 and R279 that need no memory write or save of their own before they answer: code,
classes and body lengths. -/
def serviceOf (c : Instr) : Option (Nat × List Nat × (Nat → Bool)) :=
  match c with
  | .identGet => some (0x0401, [0, 1, 2, 3], fun n => n == 0)
  | .attest => some (0x0402, [0, 1, 2, 3], fun n => n == 32)
  | .imageWrite => some (0x0403, [0], fun n => decide (4 ≤ n ∧ n ≤ 32752))
  | .imageActivate => some (0x0404, [0], fun n => n == 1)
  | .bootConfirm => some (0x0405, [0], fun n => n == 0)
  | .siteWrite => some (0x0406, [0], fun n => n == 1520)
  | .ownerAdd => some (0x0407, [0], fun n => n == 97)
  | .mgmtRestart => some (0x0408, [0], fun n => n == 0)
  | .jobAdmit => some (0x0501, [0, 1], fun n => decide (8 ≤ n ∧ n ≤ 4104))
  | .jobRelease => some (0x0502, [0, 1], fun n => n == 4)
  | .memQuery => some (0x0503, [0, 1, 2, 3], fun n => n == 0)
  | .queueBind => some (0x0601, [0, 1], fun n => n == 32)
  | .queueUnbind => some (0x0602, [0, 1], fun n => n == 4)
  | .tokenBind => some (0x0603, [0, 1], fun n => n == 8)
  | .tokenUnbind => some (0x0604, [0, 1], fun n => n == 8)
  | .portmapSet => some (0x0901, [0], fun n => n == 4616)
  | .portmapGet => some (0x0902, [0, 1, 2, 3], fun n => n == 0)
  | .linkTableGet => some (0x0A02, [0, 1, 2, 3], fun n => n == 0)
  | _ => none

/-! ## Memory ranges and flow descriptors -/

/-- Every granule of [a, a + n) can be read and written: its unit is not FAILED, its channel is not lost, and it is
not poisoned (R118, R128, R130). -/
def Usable (s : State) (a n : Nat) : Prop := ∀ i, i < n → granuleReadStatus s (a + i) = stOK

/-- Two ranges share no byte. -/
def Apart (a n b m : Nat) : Prop := a + n ≤ b ∨ b + m ≤ a

/-- The completion record of a descriptor: 32 bytes at slot INDEX mod SIZE (R181). -/
def recordAt (s : State) (q : Nat) (d : Desc) : Nat := (queueOf s q).cq + 32 * (d.idx.toNat % (queueOf s q).size)

/-- `t` is `m` with a descriptor whose signal is not remote completed with a status and detail (R159, R166, R181,
R182): it has left its queue, which counts it; a failure is recorded and halts the queue when ERR_STOP says so; OK
adds to its signal token, a failure poisons it; memory changes only in the record's slot. -/
structure Completed (m t : State) (q : Nat) (d : Desc) (st det : Nat) : Prop where
  gone : findDesc t q d.idx = none
  counted : (queueOf t q).done = (queueOf m q).done + 1#32
  others : ∀ p, p ≠ q → queueOf t p = queueOf m p
  failed : st ≠ stOK → (queueOf t q).lastErr = toWord (st + dType d * 2 ^ 16 + det * 2 ^ 24) ∧ (queueOf t q).lastIdx = d.idx ∧
    (queueOf t q).lastTag = toWord (dTag d) ∧
    ((queueOf m q).errStop = true → (queueOf m q).state = .running → (queueOf t q).state = .halted)
  well : st = stOK → (queueOf t q).lastErr = (queueOf m q).lastErr
  signalled : st = stOK → dSigs d = true → tokBound m (dSigTok d) (dDomain d) = true → unitSt m (dSigTok d / 1024) ≠ .failed →
    (tokOf t (dSigTok d)).value = (if 0xFFFFFFFF < (tokOf m (dSigTok d)).value.toNat + dInc d then 0xFFFFFFFF#32
      else (tokOf m (dSigTok d)).value + toWord (dInc d))
  poisoned : st ≠ stOK → dSigs d = true → tokBound m (dSigTok d) (dDomain d) = true → unitSt m (dSigTok d / 1024) ≠ .failed →
    (tokOf t (dSigTok d)).poison = true
  tokens : (st = stOK ∨ (dType d ≠ tyRECV ∧ dType d ≠ tyATOMIZE)) → ∀ k, (dSigs d = true → k ≠ dSigTok d) → tokOf t k = tokOf m k
  memory : ∀ a, Apart a 1 (recordAt m q d) 32 → readByte t a = readByte m a
  regs : (st = stOK ∨ dType d ≠ tyATOMIZE) →
    ∀ k, k / 0x100000 ∉ ([0x06, 0x07, 0x10, 0x11, 0x12, 0x13, 0x16, 0x47] : List Nat) → getReg t k = getReg m k
  rest : t = { m with
    regs := t.regs
    evr := t.evr
    hst := t.hst
    out := t.out
    fresh := t.fresh
    flow := t.flow
    mem := t.mem
    pwr := t.pwr
    board := t.board }

/-- A queue's TAIL has moved (R146): an idle or running queue runs while it has work, the die is woken when it is not ON. -/
def TailMoved (s t : State) (q : Nat) (tail : Word) : Prop :=
  let x := queueOf s q
  t = { s with flow := { s.flow with queues := t.flow.queues }, pwr := t.pwr } ∧ (∀ p, p ≠ q → queueOf t p = queueOf s p) ∧
    queueOf t q = { x with
      tail := tail
      state := if x.state = .idle ∨ x.state = .running then (if x.head = tail ∧ x.descs = [] then .idle else .running) else x.state
      wokeLeft := if unitSt s (q / 16) = .on then x.wokeLeft else (tail - x.head).toNat } ∧
    (unitSt s (q / 16) = .on → t.pwr = s.pwr)

/-! ## Plans -/

/-- A PLAN whose signal is not remote is released, its OUT range can be used and lies apart from its record. -/
structure PlanReady (s : State) (q : Nat) (idx : Word) (d : Desc) : Prop where
  runs : running s q idx tyPLAN = some d
  local_ : sigRemote s d = false
  aligned : planOut d % 64 = 0
  usable : Usable s (planOut d) (outBytesNeeded d)
  record : Apart (recordAt s q d) 32 (planOut d) (outBytesNeeded d)

/-- The result header of R257: MAGIC, MODE, the count of tables, STATUS and DETAIL. -/
structure PlanHeader (t : State) (d : Desc) (p st det : Nat) : Prop where
  magic : readBytes t (planOut d) 4 = [0x4B#8, 0x50#8, 0x52#8, 0x31#8]
  mode : readByte t (planOut d + 4) = BitVec.ofNat 8 (pMode d)
  count : readByte t (planOut d + 5) = BitVec.ofNat 8 p
  status : readBytes t (planOut d + 8) 2 = leBytes 2 st
  detail : readByte t (planOut d + 10) = BitVec.ofNat 8 det

/-- The table on which table `p` of a result is based (R255, R259): the present one, or the one before it. -/
def baseOf (s : State) (ts : List AccTable) (p : Nat) : AccTable :=
  if p = 0 then s.ste.present else ts.getD (p - 1) s.ste.present

/-- The Accord tables of a SCHEDULE or ASSIGN (R255, R257, R260): one to PMAX of them stand at OUT in their order,
numbered from ACCORD_FIRST, each with its base's number and with every pin in the circuit it has; `st` and `det` are
those of the first one that fails validation, byte 11 of the header its index. -/
structure PlanTables (s t : State) (d : Desc) (ts : List AccTable) (st det : Nat) : Prop where
  many : 1 ≤ ts.length
  most : ts.length ≤ pPmax d
  bytes : ∀ p x, ts[p]? = some x → x.number = toWord (pFirst d + p) ∧
    readBytes t (planOut d + 320 + 4672 * p) 4672 = tableBytes (planeNo s) (baseOf s ts p).number x
  pinned : ∀ x ∈ ts, ∀ i ∈ portList s (pPins d) (pNpins d),
    peerOf x i = peerOf s.ste.present i ∧ holdFlag x i = true
  checked : let check (p : Nat) (x : AccTable) : Nat × Nat :=
      validateTable s (tableBytes (planeNo s) (baseOf s ts p).number x) (baseOf s ts p)
    ((st, det) = (stOK, 0) ∧ readByte t (planOut d + 11) = 0xFF#8 ∧ ∀ p x, ts[p]? = some x → (check p x).1 = stOK) ∨
    (∃ p x, ts[p]? = some x ∧ check p x = (st, det) ∧ st ≠ stOK ∧ readByte t (planOut d + 11) = BitVec.ofNat 8 p ∧
      ∀ j y, j < p → ts[j]? = some y → (check j y).1 = stOK)

/-! ## Optimizer engines -/

/-- Only engine `e` of the optimizer engines may have changed. -/
def EngineOnly (s t : State) (e : Nat) : Prop := t = { s with opt := t.opt } ∧ ∀ k, k ≠ e → optOf t k = optOf s k

/-- A vector instruction: only V(vd) of engine `e` may have changed, and its program counter went on by one (R214, R221). -/
def VectorWrite (s t : State) (e vd : Nat) : Prop :=
  EngineOnly s t e ∧ optOf t e = { optOf s e with pc := (optOf s e).pc + 1, v := (optOf t e).v } ∧
    ∀ r, r ≠ vd → vReg (optOf t e) r = vReg (optOf s e) r

/-- A scalar instruction with result `w`: S(sd) holds it when a program may write that register, no other one changed,
and the program counter went on by one (R214, R220). -/
def ScalarWrite (s t : State) (e sd : Nat) (w : Word) : Prop :=
  EngineOnly s t e ∧ optOf t e = { optOf s e with pc := (optOf s e).pc + 1, s := (optOf t e).s } ∧
    sReg (optOf t e) sd = (if sd ≤ 55 then w else sReg (optOf s e) sd) ∧
    ∀ r, r ≠ sd → sReg (optOf t e) r = sReg (optOf s e) r

/-! ## Board links -/

/-- Nothing but link `n` may have changed. -/
def LinkOnly (s t : State) (n : Nat) : Prop :=
  t = { s with board := { s.board with links := t.board.links } } ∧ ∀ k, k ≠ n → linkOf t k = linkOf s k

/-- Link `n`, which was UP or retraining, is lost (R273): it backs off with empty buffers and a fresh stream, DOWN is
set and counted, and no other link changes its state or its lanes. -/
structure LinkLost (s t : State) (n : Nat) : Prop where
  idle : linkOf t n = { linkOf s n with
    st := .backoff
    lanes := 0#4
    before := 0#4
    widen := false
    inited := false
    verdict := 0
    theirs := 0
    interval := 1
    bseq := 0#8
    expect := 0#8
    naked := false
    retry := []
    replays := 0
    txq := []
    credits := []
    sizes := []
    owed := [] }
  others : ∀ k, k ≠ n → (linkOf t k).st = (linkOf s k).st ∧ (linkOf t k).lanes = (linkOf s k).lanes
  down : (getReg t (Reg.at Reg.LNK_IRQ_STAT n)).getLsbD 1 = true
  count : getReg t (Reg.at Reg.LNK_CNT_DOWN n) = satAdd (getReg s (Reg.at Reg.LNK_CNT_DOWN n)) 1

/-- Link `n` replays its retry buffer, which starts with block `b` (R271): every block from `b` on is sent again, and the
eighth replay without progress retrains the link at its width, counted, with REPLAY set. -/
structure Replayed (s t : State) (n : Nat) (b : RetryBlock) : Prop where
  few : (linkOf s n).replays + 1 < 8 →
    t = { s with
      board := { s.board with links := t.board.links }
      out := .linkReplay n b.bseq.toNat (linkOf s n).retry.length :: s.out } ∧
    linkOf t n = { linkOf s n with replays := (linkOf s n).replays + 1 }
  limit : 8 ≤ (linkOf s n).replays + 1 →
    linkOf t n = { linkOf s n with
      replays := 0
      st := .retraining
      before := (linkOf s n).lanes
      widen := false } ∧
    (getReg t (Reg.at Reg.LNK_IRQ_STAT n)).getLsbD 4 = true ∧
    getReg t (Reg.at Reg.LNK_CNT_REPLAY n) = satAdd (getReg s (Reg.at Reg.LNK_CNT_REPLAY n)) 1
  others : ∀ k, k ≠ n → linkOf t k = linkOf s k

/-- A message of link `n` was put on the wire as the last thing sent, or waits at the end of the link's queue (R281). -/
def PutOn (s t : State) (n : Nat) (o : OutMsg) : Prop :=
  (∃ l, t.out = .link n o :: (l ++ s.out)) ∨ (linkOf t n).txq = (linkOf s n).txq ++ [o]

/-- A request `m` that came over link `n` is answered on it with kind, status and data, to its source with its TAG
(R136, R269). -/
def LinkAnswer (s t : State) (n k : Nat) (m : LinkMsg) (st : Nat) (data : List Byte) : Prop :=
  ∃ o : OutMsg, o.kind = k ∧ o.hdr.tag = m.tag ∧ o.hdr.domain.toNat = m.domain.toNat % 4096 ∧
    o.hdr.address.toNat / 2 ^ 44 = m.src.toNat % 16 ∧ o.hdr.status = BitVec.ofNat 16 st ∧ o.hdr.data = data ∧ PutOn s t n o

/-- Only links, the frames sent and the credits owed over link `n` for message `m` changed. -/
def LinksMoved (s t : State) : Prop := t = { s with board := { s.board with links := t.board.links }, out := t.out }

/-- The slots of message `m` are owed to the peer of link `n` (R281, R282). -/
def SlotsOwed (s t : State) (n : Nat) (m : LinkMsg) : Prop :=
  let need := msgNeed { kind := 0, hdr := m }
  (linkOf t n).owed = tmod (fun _ => 0) (linkOf s n).owed (partTaken (linkOf s n) m need) (· + need)

/-! ## Face-plate ports -/

/-- A frame on the receive branch of an UP port is counted there (R298). -/
def countedRx (s : State) (p : Nat) (f : KftFrame) : State :=
  setPort s p { portOf s p with brRx := tmod (fun _ => 0) (portOf s p).brRx (portOf s p).rxBr (· + f.size) }

/-- The counter of the first of steps 1 to 4 of R287 that a frame fails; none when it passes them. -/
def dropCounter (s : State) (p : Nat) (f : KftFrame) : Option Nat :=
  if f.fcsOk = false ∨ 9216 < f.size then some Reg.FPP_CNT_FCS
  else if f.dst ≠ portMac p then some Reg.FPP_CNT_MAC
  else if f.etype.toNat ≠ fld (getReg s (Reg.at Reg.FPP_ETYPE p)) 0 16 then some Reg.FPP_CNT_ETYPE
  else if kftHeaderOk f = false then some Reg.FPP_CNT_HDR
  else none

/-- A frame arrives on the receive branch of an UP port and passes steps 1 to 4 of R287. -/
def FrameArrives (s : State) (p : Nat) (f : KftFrame) : Prop :=
  (portOf s p).st = .up ∧ f.branch.toNat = (portOf s p).rxBr ∧ dropCounter s p f = none

/-- A frame of a type leaves port `p`: it is on the line, or owed on its branch (R298). -/
def PortSends (t : State) (p kind : Nat) (g : KftFrame) : Prop :=
  .kft p (BitVec.ofNat 8 kind) g ∈ t.out ∨ (g.branch.toNat, BitVec.ofNat 8 kind, g) ∈ (portOf t p).owed

/-- Nothing but port `p` and the frames sent may have changed. -/
def PortOnly (s t : State) (p : Nat) : Prop :=
  t = { s with kft := { s.kft with ports := t.kft.ports }, out := t.out } ∧ ∀ k, k ≠ p → portOf t k = portOf s k

/-- Port `p`, which was UP or TRAINING, has left that state (R162, R286): DOWN is set, its change has ended, no
transfer of it is left, and no other port changed. -/
structure PortLeft (s t : State) (p : Nat) (after : PortSt) : Prop where
  port : portOf t p = { portOf s p with
    st := after
    paused := false
    visited := 0#4
    owed := []
    change := none }
  others : ∀ k, k ≠ p → portOf t k = portOf s k
  down : (getReg t (Reg.at Reg.FPP_IRQ_STAT p)).getLsbD 1 = true
  transfers : ∀ u ∈ t.kft.transfers, u.port ≠ p

/-- A change of branch has started on port `p` (R296, R297): BURST_END went out on the old transmit branch and names
the next one; a transmit change moved the branch, counted the EPOCH up and sent BRANCH on the new one. -/
structure ChangeStarted (s t : State) (p : Nat) (c : Change) : Prop where
  tx : (portOf t p).txBr = if c.tx then c.branch else (portOf s p).txBr
  rx : (portOf t p).rxBr = (portOf s p).rxBr
  epoch : (portOf t p).epTx = if c.tx then (portOf s p).epTx + 1#8 else (portOf s p).epTx
  burstEnd : ∃ g, .kft p 6#8 g ∈ t.out ∧ g.branch = BitVec.ofNat 2 (portOf s p).txBr ∧ g.epoch = (portOf s p).epTx ∧
    g.arg0 = toWord (if c.tx then c.branch else (portOf s p).txBr)
  branch : c.tx = true → ∃ g, .kft p 7#8 g ∈ t.out ∧ g.branch = BitVec.ofNat 2 c.branch ∧
    g.epoch = (portOf s p).epTx + 1#8 ∧ bitOf g.arg0 8 = false

/-- The frames of the lone transfer `u` that are new, due or named by `sel` go out (R294), with RETX when they were
sent before; one that was sent `RETX_MAX` times ends the transfer with RETX_FAIL. -/
structure Resent (s t : State) (u : Transfer) (sel : TxFrame → Bool) : Prop where
  limit : (∃ x ∈ u.frames, (x.sends = 0 ∨ x.again = true ∨ sel x = true) ∧
      fld (getReg s (Reg.at Reg.FPP_KFT_CFG u.port)) 16 8 ≤ x.sends) →
    t.kft.transfers = [] ∧ (getReg t (Reg.at Reg.FPP_IRQ_STAT u.port)).getLsbD 3 = true
  sent : (∀ x ∈ u.frames, x.sends = 0 ∨ x.again = true ∨ sel x = true →
      x.sends < fld (getReg s (Reg.at Reg.FPP_KFT_CFG u.port)) 16 8) →
    t.kft.transfers = [{ u with frames := u.frames.map fun x =>
      if x.sends = 0 ∨ x.again = true ∨ sel x = true then { x with sends := x.sends + 1, again := false } else x }] ∧
    ∀ x ∈ u.frames, x.sends = 0 ∨ x.again = true ∨ sel x = true → ∃ g, .kft u.port 1#8 g ∈ t.out ∧
      g.seq = toWord (u.number * 2 ^ 24 + x.no) ∧ g.flags.getLsbD 0 = decide (0 < x.sends) ∧
      g.offset = BitVec.ofNat 48 (u.base + x.at_) ∧ g.length = BitVec.ofNat 16 x.len

/-! ## Steering, Accords and redundancy -/

/-- `t` is `u` after the look at STATUS and at the service state that follows a change of either (R327, R391): `before`
is the service state before the change. A new service state sets the interrupt bit of ACD and lets ACCORD_WAITs end;
new contents of STATUS are sent at once while a partner link is up; else nothing follows. -/
structure StatusFollows (before : Nat) (u t : State) : Prop where
  ste : t.ste = u.ste
  sel : t.sel = u.sel
  rdn : t.rdn = { u.rdn with lastStatus := t.rdn.lastStatus }
  quiet : service u = before → partnerUp u = false ∨ statusBytes u (eligible u) = u.rdn.lastStatus → t = u
  changed : service u ≠ before → (getReg t Reg.ACD_IRQ_STAT).getLsbD 4 = true
  sent : partnerUp u = true → statusBytes u (eligible u) ≠ u.rdn.lastStatus →
    t.rdn.lastStatus = statusBytes u (eligible u) ∧ ∃ m : SteerMsg, .steer 0x11 m ∈ t.out ∧
      m.b32 = BitVec.ofNat 16 (beAt (statusBytes u (eligible u)) 0 2) ∧ m.data = (statusBytes u (eligible u)).drop 2

/-- A steering message with these contents went out on some partner link. -/
def SteerSent (t : State) (sub : Nat) (m : SteerMsg) : Prop := ∃ n, .steer sub { m with link := n } ∈ t.out

/-- A SAMPLE frame of tile `k` comes over a plane link that is up, passes the checks of R304 and is newer than the
last frame accepted. -/
def Accepts (s : State) (bs : List Byte) (k : Nat) : Prop :=
  planeUp s = true ∧ sampleGood bs = true ∧ leAt bs 1 1 = k ∧
    ((tileOf s k).seen = true → 1 ≤ (toWord (beAt bs 4 4) - (tileOf s k).seq).toNat ∧
      (toWord (beAt bs 4 4) - (tileOf s k).seq).toNat < 2 ^ 31)

/-- Nothing but the law acts on axis `a` at a sample of its tile: no write waits, no mirror moves or is in PEAK, no
auto-tune runs, the tile was not lost, no preload is due and none of its slots is held. -/
structure Steady (s : State) (a : Nat) : Prop where
  writes : s.ste.writes = []
  move : s.ste.move = none
  retries : s.ste.retries = []
  tune : s.ste.tune.running = false ∧ s.ste.tune.ending = false
  tile : (tileOf s (a / 128)).lost = false
  preload : (axisOf s a).preload = none
  free : ∀ j, j < 4 → Machine.slotHold (slotOf s (4 * a + j)) = false ∧ (slotOf s (4 * a + j)).held = false

/-- Entry `i` of the Accord queue ended with a status and detail, and with it every later entry that had not committed,
ABORTED (R336, R337): each is free and out of the order, counted, its bound signal token poisoned; the last one stands
in `LAST_ACCORD` and `LAST_RESULT`. -/
structure QueueEnded (s t : State) (i st det : Nat) : Prop where
  freed : ∀ k ∈ entriesFrom s i, entryOf t k = {}
  others : ∀ k, k ∉ entriesFrom s i → entryOf t k = entryOf s k
  order : t.ste.order = s.ste.order.filter fun k => !(entriesFrom s i).contains k
  counted : getReg t Reg.ACD_CNT_REFUSED = satAdd (getReg s Reg.ACD_CNT_REFUSED) (entriesFrom s i).length
  record : ∀ k, (entriesFrom s i).getLast? = some k →
    getReg t Reg.ACD_LAST_RESULT = toWord ((if k = i then st + det * 2 ^ 16 else stABORTED) + k * 2 ^ 24) ∧
    (getReg t Reg.ACD_IRQ_STAT).getLsbD 2 = true
  tokens : ∀ k ∈ entriesFrom s i, bitOf (entryOf s k).sig 15 = true → (tokOf s (fld (entryOf s k).sig 0 12)).bound.isSome = true →
    unitSt s (tokDie (fld (entryOf s k).sig 0 12)) ≠ .failed → (tokOf t (fld (entryOf s k).sig 0 12)).poison = true

/-! ## Lock-in loops and calibration -/

/-- Nothing but loop `l` may have changed. -/
def LoopOnly (s t : State) (l : Nat) : Prop :=
  t = { s with sel := { s.sel with loops := t.sel.loops } } ∧ ∀ k, k ≠ l → loopOf t k = loopOf s k

/-- A loop at the start of a re-acquisition attempt: heater code 0, everything checked forgotten, one attempt more (R358). -/
def reacquiring (x : Loop) : Loop := { x with
  st := .reacq
  v := -x.ff
  goodPeriods := 0
  badPeriods := 0
  pilotOk := false
  pilotFails := 0
  cntReacq := satAdd x.cntReacq 1 }

/-- An attempt of loop `l` has failed: the next one starts, or the third in a row puts it in FAULT with its bit set (R358). -/
structure AttemptFailed (s t : State) (l : Nat) : Prop where
  next : (loopOf s l).attempts + 1 < 3 → LoopOnly s t l ∧
    loopOf t l = reacquiring { loopOf s l with attempts := (loopOf s l).attempts + 1 }
  fault : 3 ≤ (loopOf s l).attempts + 1 →
    loopOf t l = { loopOf s l with st := .fault, attempts := (loopOf s l).attempts + 1 } ∧
    (getReg t (Reg.at Reg.FSL_IRQ_STAT (l / 6))).getLsbD 3 = true
  others : ∀ k, k ≠ l → loopOf t k = loopOf s k

/-- A check of R357 has failed on loop `l`: counted with its cause, WRONG set; it re-acquires, or, within 100 ms of an
attempt, that attempt has failed and the third failure in a row put it in FAULT. -/
structure CheckFailed (s t : State) (l cause : Nat) : Prop where
  count : (loopOf t l).cntWrong = satAdd (loopOf s l).cntWrong 1
  cause : (loopOf t l).lastCause = cause
  wrong : (getReg t (Reg.at Reg.FSL_IRQ_STAT (l / 6))).getLsbD 2 = true
  state : (loopOf t l).st = .reacq ∧ (loopOf t l).cntReacq = satAdd (loopOf s l).cntReacq 1 ∨
    (loopOf t l).st = .fault ∧ 2 ≤ (loopOf s l).attempts ∧ 0 < (loopOf s l).lastReacq.toNat ∧
      s.ns.toNat ≤ (loopOf s l).lastReacq.toNat + 100000000
  others : ∀ k, k ≠ l → loopOf t k = loopOf s k

/-- `q` is the quotient of two integers, between two integers either of them. -/
def Quotient (a : Int) (n : Nat) (q : Int) : Prop := q = a / n ∨ (a % n ≠ 0 ∧ q = a / n + 1)

/-- A calibration command has started: its operation, units and MZIs, and no failure counted yet (R365). -/
def CalStarted (t : State) (op total : Nat) (todo : List Nat) : Prop :=
  t.sel.cal = { op := op, abort := false, todo := todo, refused := false, done := 0, total := total } ∧
    getReg t Reg.CAL_FAIL_PORTS = 0#32 ∧ getReg t Reg.CAL_FAIL_MIRRORS = 0#32

/-- A save of the Fixative store runs in `t` with the values of `s` (R370): it goes to the slot not in use, or to slot A
when none is valid, which is erased and no longer valid; its SEQ is one above that of the slot in use, or 1. -/
structure SaveRuns (s t : State) : Prop where
  running : t.sel.fix.saving = true ∧ t.sel.fix.pending = false
  busy : t.boot.flashBusy = true
  image : t.sel.fix.image = fixImage s (if s.sel.fix.none_ then 1#32 else s.sel.fix.seq + 1#32)
  erased : let b := !s.sel.fix.none_ && !s.sel.fix.slotB
    (∀ a, fixBase b ≤ a → a < fixBase b + 0x100000 → tget (fun _ => 0xFF#8) t.mem.flash a = 0xFF#8) ∧
    (∀ a, a < fixBase b ∨ fixBase b + 0x100000 ≤ a →
      tget (fun _ => 0xFF#8) t.mem.flash a = tget (fun _ => 0xFF#8) s.mem.flash a)
  kept : t.sel.fix.slotB = s.sel.fix.slotB ∧ t.sel.fix.seq = s.sel.fix.seq ∧ t.sel.fix.none_ = s.sel.fix.none_

/-! ## Pair redundancy -/

/-- `s` with CLAIM_OUT asserted and its hold-off begun; a SYNC in progress is dropped (R375 steps 1 and 2). -/
def contending (s : State) : State := { s with rdn := { s.rdn with
  from_ := s.rdn.st
  st := .contending
  out := true
  outSense := true
  race := false
  raced := false
  backedOff := false
  syncReq := false
  syncMsgs := 0
  syncImage := []
  syncAfter := [] } }

/-- No SYNC is outstanding, a partner link is up, and the module has sealed and calibrated (R376). -/
def MayAsk (m : State) : Prop :=
  m.rdn.syncReq = false ∧ partnerUp m = true ∧ m.boot.sealOn = true ∧ m.boot.calibrated = true

/-- `u` is `m` with a SYNC asked for: SYNC_REQ went to the partner (R388 step 1). -/
structure SyncAsked (m u : State) : Prop where
  rdn : u.rdn = { m.rdn with syncReq := true, syncMsgs := 0, syncImage := [], syncAfter := [] }
  sent : ∃ d : SteerMsg, SteerSent u 0x14 d ∧ d.b28 = 0#32 ∧ d.b32 = 0#16 ∧ d.data = []
  stat : getReg u Reg.RDN_SYNC_STAT = 0#32 ∧ ∀ k, k ≠ Reg.RDN_SYNC_STAT → getReg u k = getReg m k
  rest : u = { m with regs := u.regs, rdn := u.rdn, board := u.board, out := u.out }

/-- `u` is `m`, with a SYNC asked for where the module is WAITING or SYNCING, senses the partner's claim and may ask
(R376). -/
structure MaybeAsks (m u : State) : Prop where
  asks : m.rdn.st = .waiting ∨ m.rdn.st = .syncing → m.rdn.in_ = true → MayAsk m → SyncAsked m u
  quiet : ¬ ((m.rdn.st = .waiting ∨ m.rdn.st = .syncing) ∧ m.rdn.in_ = true ∧ MayAsk m) → u = m

/-- `RDN.ERR_CODE` of `m` records a status and a detail. -/
def RdnErr (m : State) (st det : Nat) : Prop :=
  fld (getReg m (pageKey 0x0A 0 + 0x01C)) 16 16 = st ∧ fld (getReg m (pageKey 0x0A 0 + 0x01C)) 0 8 = det

/-- A steering message of the partner came over a link that is not, or is no longer, an UP partner link; it has no effect. -/
def Unheard (s : State) (d : SteerMsg) : Prop := d.link ∉ partnerLinks s

/-- Two codes of axis i of a tile differ by more than `CMP_TOL`, and neither OUTPUT marks the axis excluded (R379). -/
def AxisDiffers (s : State) (a b : List Byte) (i : Nat) : Prop :=
  i < 128 ∧ (leAt a (256 + i / 8) 1).testBit (i % 8) = false ∧ (leAt b (256 + i / 8) 1).testBit (i % 8) = false ∧
    (beAt a (2 * i) 2 + fld (getReg s Reg.RDN_CMP_TOL) 0 16 < beAt b (2 * i) 2 ∨
      beAt b (2 * i) 2 + fld (getReg s Reg.RDN_CMP_TOL) 0 16 < beAt a (2 * i) 2)

/-! ## Sillage -/

/-- `t` is `s` with a record lost (R403, R404): the loss count of its severity and `CNT_LOST` rise, the times of the
first and the last loss follow, and `IRQ_STAT.LOST` is set. A SUPPRESSED record counts with its ARG0. -/
structure RecLost (s t : State) (r : Rec) : Prop where
  rest : t = { s with
    regs := t.regs
    evr := { s.evr with
      losses := t.evr.losses
      lossFirst := if s.evr.losses = [] then s.pwr.optime.setWidth 32 else s.evr.lossFirst
      lossLast := s.pwr.optime.setWidth 32 } }
  count : tget (fun _ => 0) t.evr.losses r.sev =
    tget (fun _ => 0) s.evr.losses r.sev + (if r.typ = 3 then (r.args.headD 0#32).toNat else 1)
  others : ∀ k, k ≠ r.sev → tget (fun _ => 0) t.evr.losses k = tget (fun _ => 0) s.evr.losses k
  lost : getReg t Reg.EVR_CNT_LOST = satAdd (getReg s Reg.EVR_CNT_LOST) 1
  irq : getReg t Reg.EVR_IRQ_STAT = getReg s Reg.EVR_IRQ_STAT ||| 2#32
  regs : ∀ k, k ≠ Reg.EVR_CNT_LOST → k ≠ Reg.EVR_IRQ_STAT → getReg t k = getReg s k

/-- `t` is `s` after the record `r` met the pending FIFO (R402, R403): it enters behind the others; at a full FIFO it
is lost when a more severe one is pending, else the newest of the lowest severity is lost in its place. -/
def EntersFifo (s t : State) (r : Rec) : Prop :=
  (s.evr.fifo.length < 64 → t = { s with evr := { s.evr with fifo := s.evr.fifo ++ [r] } }) ∧
  (64 ≤ s.evr.fifo.length → (∃ y ∈ s.evr.fifo, r.sev < y.sev) → RecLost s t r) ∧
  (64 ≤ s.evr.fifo.length → (∀ y ∈ s.evr.fifo, y.sev ≤ r.sev) → ∃ older x newer, s.evr.fifo = older ++ x :: newer ∧
    (∀ y ∈ s.evr.fifo, x.sev ≤ y.sev) ∧ (∀ y ∈ newer, x.sev < y.sev) ∧
    RecLost { s with evr := { s.evr with fifo := older ++ newer ++ [r] } } t x)

/-- `t` is `s` after the record `r` met the rate limiter and the FIFO (R401): exempt, with a token, or suppressed. -/
def MeetsLimiter (s t : State) (r : Rec) : Prop :=
  let b := r.code % 1024
  let k := bucketOf s b
  let exempt := fld (getReg s Reg.EVR_CFG) 8 3 ≤ r.sev
  (exempt → EntersFifo s t r) ∧
  (¬ exempt → 0 < k.tokens → ∃ m, m = { s with evr := { s.evr with buckets := m.evr.buckets } } ∧
    (∀ j, bucketOf m j = if j = b then { k with tokens := k.tokens - 1 } else bucketOf s j) ∧ EntersFifo m t r) ∧
  (¬ exempt → k.tokens = 0 → t = { s with regs := t.regs, evr := { s.evr with buckets := t.evr.buckets } } ∧
    (bucketOf t b).tokens = 0 ∧ (bucketOf t b).supp = min (k.supp + 1) 65535 ∧ (bucketOf t b).code = r.code ∧
    (bucketOf t b).page = r.page ∧ (bucketOf t b).inst = r.inst ∧ (bucketOf t b).last = s.pwr.optime.setWidth 32 ∧
    (bucketOf t b).sev = (if k.supp = 0 then r.sev else max k.sev r.sev) ∧
    (bucketOf t b).first = (if k.supp = 0 then s.pwr.optime.setWidth 32 else k.first) ∧
    (∀ j, j ≠ b → bucketOf t j = bucketOf s j) ∧
    ∀ a, getReg t a = if a = Reg.EVR_CNT_SUPPRESSED then satAdd (getReg s a) 1 else getReg s a)

/-- `t` is `s` after the writer wrote the record `r` (R402, R405): it takes the next SEQ at the end of the ring; at a
full ring it replaces the oldest of equal or lower severity, or is dropped where there is none. -/
def EntersRing (s t : State) (r : Rec) : Prop :=
  let n : Rec := { r with seq := s.evr.newest + 1#32 }
  let bits := (if fld (getReg s Reg.EVR_CFG) 0 3 ≤ r.sev then 1#32 else 0#32) ||| (if r.typ = 3 then 4#32 else 0#32)
  (s.evr.ring.length < 1024 →
    Reports [Reg.EVR_IRQ_STAT] { s with evr := { s.evr with ring := s.evr.ring ++ [n], newest := n.seq } } t ∧
    getReg t Reg.EVR_IRQ_STAT = getReg s Reg.EVR_IRQ_STAT ||| bits) ∧
  (∀ older x newer, 1024 ≤ s.evr.ring.length → s.evr.ring = older ++ x :: newer → x.sev ≤ r.sev → (∀ y ∈ older, r.sev < y.sev) →
    let late := qualifies s x && !x.persisted
    Reports [Reg.EVR_IRQ_STAT, Reg.EVR_CNT_PERSIST_LOST]
      { s with evr := { s.evr with ring := older ++ newer ++ [n], newest := n.seq } } t ∧
    getReg t Reg.EVR_CNT_PERSIST_LOST = satAdd (getReg s Reg.EVR_CNT_PERSIST_LOST) (b2n late) ∧
    getReg t Reg.EVR_IRQ_STAT = getReg s Reg.EVR_IRQ_STAT ||| bits ||| (if late then 16#32 else 0#32)) ∧
  (1024 ≤ s.evr.ring.length → (∀ y ∈ s.evr.ring, r.sev < y.sev) →
    Reports [Reg.EVR_IRQ_STAT, Reg.EVR_CNT_DROPPED] s t ∧
    getReg t Reg.EVR_CNT_DROPPED = satAdd (getReg s Reg.EVR_CNT_DROPPED) 1 ∧
    getReg t Reg.EVR_IRQ_STAT = getReg s Reg.EVR_IRQ_STAT ||| 8#32)

/-- A checkpoint of the present time is due and its writer runs (R408). -/
def checkpointDue (s : State) : Prop :=
  (getReg s Reg.EVR_TIME_STAT).getLsbD 0 = true ∧ (s.boot.phase = .firmware ∨ s.boot.phase = .recovery) ∧
    (match ckNewest s with | some (_, _, b) => leAt b 0 5 | none => 0) + 60000 ≤ s.pwr.optime.toNat

/-- The checkpoint entry of a state's counters (R409). -/
def checkpointEntry (s : State) : List Byte :=
  let b := leBytes 5 s.pwr.optime.toNat ++ leBytes 3 s.pwr.pcycle.toNat ++ [0#8, 0#8, 0#8, 0#8]
  b ++ leBytes 4 (crc32c b).toNat

/-! ## CRC engines and the Blotter -/

/-- A range that starts in one tier and ends beyond it (R411): a stack, a Flow die's staging SRAM, DDR5, or for
instance 4 scratch SRAM. -/
def CrossesTier (g a n : Nat) : Prop :=
  if g = 4 then a < 2 ^ 24 ∧ 2 ^ 24 < a + n
  else (∃ k, k < 8 ∧ k * stackSize ≤ a ∧ a < (k + 1) * stackSize ∧ (k + 1) * stackSize < a + n) ∨
    (∃ d, d < 4 ∧ stagingBase + d * 0x10000000 ≤ a ∧ a < stagingBase + (d + 1) * 0x10000000 ∧
      stagingBase + (d + 1) * 0x10000000 < a + n) ∨ (ddrBase ≤ a ∧ a < 2 * ddrBase ∧ 2 * ddrBase < a + n)

/-- The start address lies in what instance `g` reaches (R411). -/
def CrcReaches (g a : Nat) : Prop :=
  if g = 4 then a < 2 ^ 24
  else (2 * g * stackSize ≤ a ∧ a < (2 * g + 2) * stackSize) ∨
    (stagingBase + g * 0x10000000 ≤ a ∧ a < stagingBase + (g + 1) * 0x10000000)

/-- `t` is `s` with a pass begun at instance `g` (R411, R413): the engine runs, and a sleeping die is woken (R45). -/
structure PassBegun (s t : State) (g : Nat) (learn : Bool) : Prop where
  rest : t = { s with crc := t.crc, pwr := t.pwr }
  own : crcOf t g = { crcOf s g with run := .running, learn := learn }
  others : ∀ k, k ≠ g → crcOf t k = crcOf s k
  awake : g = 4 ∨ unitSt s g = .on → t.pwr = s.pwr
  off : g < 4 → unitSt s g = .off → unitSt t g = .powering
  idle : g < 4 → unitSt s g = .idle → unitSt t g = .waking

/-- The registers that the end of a pass of instance `g` writes (R412). -/
def crcPassKeys (g : Nat) : List Nat :=
  [0x010, 0x04C, 0x050, 0x060, 0x064, 0x068, 0x06C, 0x070].map (pageKey 0x08 g + ·)

/-- `t` is `s` after a pass of instance `g` ended (R412, R413): RESULT as given, PASSES and DONE, the engine idle or
waiting, the counter and the bit of each flag, and no memory changed. An access to scratch SRAM may abort the Blotter. -/
structure PassEnded (s t : State) (g st det flags : Nat) (upsetA upsetB learned : Bool) : Prop where
  rest : Reports (crcPassKeys g ++ if g = 4 then [Reg.BLT_CUR, Reg.BLT_CNT_ABORT, Reg.BLT_IRQ_STAT] else []) { s with
    crc := t.crc
    blt := if g = 4 then t.blt else s.blt
    mem := { s.mem with traffic := t.mem.traffic } } t
  own : crcOf t g = {
    run := if (crcOf s g).learn = true ∨ fld (getReg s (pageKey 0x08 g + 0x05C)) 0 16 = 0 then .idle else .waiting
    learn := false
    parA := learned || ((crcOf s g).parA && !upsetA)
    parB := learned || ((crcOf s g).parB && !upsetB) }
  others : ∀ k, k ≠ g → crcOf t k = crcOf s k
  result : getReg t (pageKey 0x08 g + 0x060) = toWord (st + det * 2 ^ 16 + flags * 2 ^ 24)
  passes : getReg t (pageKey 0x08 g + 0x068) = getReg s (pageKey 0x08 g + 0x068) + 1#32
  irq : getReg t (pageKey 0x08 g + 0x010) = getReg s (pageKey 0x08 g + 0x010) |||
    toWord (1 + 2 * b2n (flags.testBit 0) + 4 * b2n (flags.testBit 1))
  check : getReg t (pageKey 0x08 g + 0x06C) = satAdd (getReg s (pageKey 0x08 g + 0x06C)) (b2n (flags.testBit 0))
  reffault : getReg t (pageKey 0x08 g + 0x070) = satAdd (getReg s (pageKey 0x08 g + 0x070)) (b2n (flags.testBit 1))

/-- The Blotter may start work (R416, R418). -/
def BlotterFree (s : State) : Prop :=
  unitSt s dieSTE = .on ∧ enOf s 0x48 0 = true ∧ holdOf s 0x48 0 = false ∧ s.blt.run = .waiting

/-- `t` is `m` gone on to the region after `r` (R416): after region 255 a pass is counted and the spare is next. -/
structure NextRegion (m t : State) (r : Nat) : Prop where
  between : r ≠ 255 → t = { m with regs := t.regs } ∧
    ∀ a, getReg t a = if a = Reg.BLT_CUR then toWord (r + 1) else getReg m a
  last : r = 255 → Reports [Reg.BLT_CUR, Reg.BLT_PASSES, Reg.BLT_IRQ_STAT] { m with blt := { m.blt with spareNext := true } } t ∧
    getReg t Reg.BLT_CUR = 0#32 ∧ getReg t Reg.BLT_PASSES = getReg m Reg.BLT_PASSES + 1#32 ∧
    getReg t Reg.BLT_IRQ_STAT = getReg m Reg.BLT_IRQ_STAT ||| 1#32

/-! ## KRT requests -/

/-- A frame passes steps 1 and 2 of R68: the port is up, MAC, EtherType and format fit, and the agent is ready. -/
def Heard (s : State) (f : KrtFrame) : Prop :=
  krtListens s = true ∧ krtCounter s f = none ∧ s.hst.answers = true ∧ s.hst.ready = true

/-- Step 3: slot `i` is the open session of the frame's SID, and the tag verifies. -/
def InSession (s : State) (op : Byte) (f : KrtFrame) (i : Nat) : Prop :=
  Heard s f ∧ ((List.range 8).find? fun i => (sessOf s i).isOpen && (sessOf s i).sid == f.sid) = some i ∧
    krtTagOk (sessOf s i).keyIn op f = true

/-- Steps 4 and 5: a new SEQ, and a LENGTH and FLAGS that fit the operation. -/
def NewRequest (s : State) (op : Byte) (f : KrtFrame) (i : Nat) : Prop :=
  InSession s op f i ∧ f.seq.toNat < 0xFFFFFF00 ∧ replayOf (sessOf s i) f.seq = .new ∧ krtShapeOk op f = true

/-- `s` with a frame's source recorded in its session and its SEQ accepted (R73, R81). -/
def accepted (s : State) (i : Nat) (f : KrtFrame) : State :=
  let s := setSess s i { sessOf s i with mac := f.src }
  setSess s i (acceptSeq (sessOf s i) f.seq)

/-- `t` is `m` with the response of a request sent and cached in its session: to the frame's source, with its SEQ and
TAG, the status and the payload (R72, R74, R81). Other sessions are as in `m`. -/
def Replied (m t : State) (op : Byte) (f : KrtFrame) (i : Nat) (st : Nat) (payload : List Byte) : Prop :=
  t = { m with hst := { m.hst with sessions := t.hst.sessions }, out := t.out, fresh := t.fresh } ∧
    (∀ j, j ≠ i → sessOf t j = sessOf m j) ∧
    ∃ o : KrtOut, t.out = .krt o :: m.out ∧ o.dst = f.src ∧ o.resp = true ∧ o.op = op ∧ o.sid = f.sid ∧ o.seq = f.seq ∧
      o.tag = f.tag ∧ o.status = BitVec.ofNat 16 st ∧ o.payload = payload ∧
      ((sessOf m i).isOpen = true → (sessOf m i).sid = f.sid → (f.seq, o) ∈ (sessOf t i).cache)

end Machine

end Sys2Proof
end

