-- ==== Sys2Proof/WellFormed.lean ====
section
/-!
DEFINITION. Which commands are well formed: a frame's, a block's and a message's bytes fit the sizes of the spec's
layouts, and a numbered thing exists. `exec` has a meaning for every command, well formed or not; the
ill-formed ones stand for nothing that the hardware can receive.
-/

namespace Sys2Proof

/-- A KRT frame has a 16-byte tag, and its size is that of its headers and payload, at least the 64 bytes of an Ethernet frame (R71). [DEDUCED: log 135] -/
def KrtFrame.wf (f : KrtFrame) : Bool := f.auth.length == 16 && f.size == max 64 (58 + f.payload.length)

/-- A KFT frame's size is that of its header and payload (R287). [DEDUCED: log 135] -/
def KftFrame.wf (f : KftFrame) : Bool := f.size == max 64 (50 + f.payload.length)

/-- A board-link message carries at most 40 body bytes and 8,192 data bytes (R268). [DEDUCED: log 135] -/
def LinkMsg.wf (m : LinkMsg) : Bool := m.body.length ≤ 40 && m.data.length ≤ 8192

/-- A steering message comes over one of the 64 links and carries at most 8,192 data bytes (R339, R391). [DEDUCED: log 135] -/
def SteerMsg.wf (m : SteerMsg) : Bool := m.link < 64 && m.data.length ≤ 8192

/-- A FEC block holds 1,280 flit bytes (R267). [DEDUCED: log 135] -/
def FecBlock.wf (b : FecBlock) : Bool := b.flits.length == 1280

/-- ECC findings name granule addresses of the local space (R129). -/
def eccWf (l : List EccHit) : Bool := l.all fun h => h.addr < 2 ^ 44

/-- A calibration reading names a mirror, and gives six points or none (R364). -/
def planeWf (l : List PlaneReading) : Bool :=
  l.all fun r => r.mirror < 2304 && (match r.points with | some p => p.length == 6 | none => true)

/-- A port B write to a mailbox word covers its four bytes (R415). -/
def mbxWf (b : Option MbxPortB) : Bool := match b with | some x => x.bytes.length ≤ 4 | none => true

/-- Bytes rewritten in the flash lie in its 64 MiB (R91, R97). -/
def flashWf (l : List ByteAt) : Bool := l.all fun x => x.1 < 0x4000000

/-- How many engines of a kind the module has (R61). -/
def EngineKind.count : EngineKind → Nat
  | .red => 128 | .opt => 64 | .cpy => 32 | .atm => 4 | .pln => 4 | .lpe => 48

/-- A command is well formed. [DEDUCED: log 135] -/
def Instr.wf (i : Instr) : Bool :=
  match i with
  | .engineIdle kind n => n < kind.count
  | .read f _ => f.wf
  | .write f portB => f.wf && mbxWf portB
  | .rmw f => f.wf
  | .bulkRead f => f.wf
  | .bulkWrite f => f.wf
  | .notifyAck f => f.wf
  | .openSession f => f.wf
  | .close f => f.wf
  | .keepalive f => f.wf
  | .krtPending _ f => f.wf
  | .recoveryRetry rewritten => flashWf rewritten
  | .ddr5ChannelTrain dimms => dimms.length ≤ 2
  | .descriptorFetch _ ecc => eccWf ecc
  | .copy _ _ ecc => eccWf ecc
  | .reduce _ _ ecc => eccWf ecc
  | .emit _ _ ecc => eccWf ecc
  | .atomize _ _ ecc => eccWf ecc
  | .optim _ _ ecc => eccWf ecc
  | .selfTestDone kind n _ => n < kind.count
  | .schedule _ _ ecc => eccWf ecc
  | .assign _ _ ecc => eccWf ecc
  | .sinkhorn _ _ ecc => eccWf ecc
  | .gemm _ _ ecc => eccWf ecc
  | .validate _ _ ecc => eccWf ecc
  | .snapshot _ _ ecc => eccWf ecc
  | .fecBlockReceive _ b => b.wf
  | .init _ m => m.wf
  | .linkWrite _ m => m.wf
  | .linkRead _ m ecc => m.wf && eccWf ecc
  | .rdata _ m => m.wf
  | .wack _ m => m.wf
  | .regwr _ m => m.wf
  | .regack _ m => m.wf
  | .linkCredit _ m => m.wf
  | .reach _ m => m.wf
  | .kftData _ f => f.wf
  | .kftToken _ f => f.wf
  | .kftAck _ f => f.wf
  | .kftNak _ f => f.wf
  | .kftCredit _ f => f.wf
  | .burstEnd _ f => f.wf
  | .kftBranch _ f => f.wf
  | .sample bytes => 4 ≤ bytes.length
  | .accordLoadDone ecc => eccWf ecc
  | .calCommandEnd _ plane _ => planeWf plane
  | .output m => m.wf
  | .check m => m.wf
  | .status m => m.wf
  | .integ m => m.wf
  | .coef m => m.wf
  | .trim m => m.wf
  | .accord m => m.wf
  | .syncReq m => m.wf
  | .syncData m => m.wf
  | .syncRefuse m => m.wf
  | .crcPassEnd _ _ _ ecc => eccWf ecc
  | .vddAonRise | .railFault _ | .railRecovery | .resetAssert _ | .pwrgdAssert _ | .resetRelease _
  | .powerupUnitStart | .refclk25Loss | .sdsref156Loss | .sdsref156Return | .optimeTick | .optimeLoRead _
  | .idleAfterExpiry _ | .offAfterExpiry _ | .hubOff _ | .hubWake _ | .wakePhaseStart | .powerGateDone
  | .zeroingDone _ | .clockUngateDone | .offEntryDone | .flwWake _ _ | .flwIdle _ _ | .flwOff _ _
  | .powerMeasure _ | .capRelease | .thermalThrottle _ _ | .thermalDieOff _ _ | .thermalTrip _ _ | .bypass
  | .idcode | .samplePreload _ _ | .extest | .clamp | .highz | .registerWrite _ _ _ | .sessionIdleExpiry _
  | .krtAnswerStart | .notifyRetry _ _ | .hostPortUp _ | .hostPortRetrain _ | .irqForce _ _ _ _
  | .softReset _ _ _ _ | .softResetDone _ _ | .mbxAcquire _ _ | .mbxRelease _ _ | .mbxH2fDoorbell _ _ _
  | .mbxF2hDoorbell _ | .stage1Start | .rightsWrite _ _ | .keySelWrite _ _ | .keyLoad _ _ | .seal _
  | .identGet | .attest | .imageWrite | .imageActivate | .bootConfirm | .siteWrite | .ownerAdd | .mgmtRestart
  | .restartCmd _ | .wdogKick _ | .watchdogExpiry | .mgmtRestartBegin | .ddr5TrainingEnd _
  | .ddr5ChannelFail _ | .scrubVisit _ _ _ _ _ | .heldAccessResume | .jobAdmit | .jobAdmitResume
  | .jobRelease | .memQuery | .rangeZeroingDone | .tailWrite _ _ _ | .dbAdd _ _ _ | .tokSignal _ _ _ _
  | .tokSet _ _ _ _ | .tokValWrite _ _ _ | .queueStop _ _ | .queueResume _ _ | .queueFlush _ _
  | .descriptorRelease _ | .recv _ _ | .branch _ _ | .tokenAdd _ _ | .tokenSet _ _ | .tokenDoorbell _ _
  | .fence _ _ | .accordWait _ _ | .waitLimitExpiry _ | .recvWindowTimeout _ _ | .queueBind | .queueUnbind
  | .tokenBind | .tokenUnbind | .flowLoad | .ctDiscard _ _ | .discardSweepDone _ _ | .redHold _ _
  | .redSoftReset _ _ | .redTest _ _ | .nop _ | .vadd _ _ _ _ | .vsub _ _ _ _ | .vmul _ _ _ _ | .vfma _ _ _ _
  | .vmin _ _ _ _ | .vmax _ _ _ _ | .vcpys _ _ _ _ | .vadds _ _ _ _ | .vmuls _ _ _ _ | .vfmas _ _ _ _
  | .vaxpb _ _ _ _ | .vmins _ _ _ _ | .vmaxs _ _ _ _ | .vbcast _ _ _ | .vrcp _ _ _ | .vrsqrt _ _ _
  | .vsqrt _ _ _ | .vexp2 _ _ _ | .vlog2 _ _ _ | .vabs _ _ _ | .vneg _ _ _ | .vmov _ _ _ | .sadd _ _ _ _
  | .ssub _ _ _ _ | .smul _ _ _ _ | .sfma _ _ _ _ | .smin _ _ _ _ | .smax _ _ _ _ | .srcp _ _ _
  | .srsqrt _ _ _ | .ssqrt _ _ _ | .sexp2 _ _ _ | .slog2 _ _ _ | .smov _ _ _ | .sli _ _ _ | .vld _ _ _
  | .vst _ _ _ | .lacc _ _ _ | .hacc _ _ _ | .pass _ | .tile _ | .endMark _ | .optHold _ _
  | .optSoftReset _ _ | .optTest _ _ | .portmapSet | .portmapGet | .plnHold _ _ | .plnSoftReset _ _
  | .plnTest _ _ | .replayTimeout _ | .laneFail _ _ | .retrainDone _ _ | .retrainTimeout _ | .lnkWiden _ _
  | .linkLoss _ | .trainingAttempt _ | .trainingPatternReceive _ | .trainingDone _ _ | .linkIdle _
  | .creditReturn _ | .reachSend | .routeDrainRelease _ | .partCfgWrite _ _ _ | .linkTableSet | .linkTableGet
  | .fppEnable _ _ _ | .portTrainDone _ | .portDown _ | .ackDelayExpiry _ | .rtoExpiry _ | .brTimeoutExpiry _
  | .branchRepeat _ | .lnkTest _ _ _ | .fppTest _ _ _ | .planeLinkUp _ | .planeLaneLoss _ | .actuator _ _
  | .tileLost _ | .axisMigrate _ | .slotWrite _ _ _ | .slotHold _ _ | .mirTrimWrite _ _ _ | .autotuneGo _
  | .autotuneStop _ | .autotuneTimeout | .jogEdge _ _ _ | .jogClear _ _ | .accordLoad _ | .accordAbort _ _
  | .accordEntryLoad | .accordValidateDone | .groupSettleTimeout _ | .peakTimeout _ | .peakRetry
  | .lpeHold _ _ | .lpeDrainDone _ | .lpeRelease _ _ | .lpeSoftReset _ _ | .lpeTest _ _ | .loopEngineFault _
  | .cageInsert _ _ | .cageRemove _ | .fselForceWrite _ _ _ | .channelConversion _ _ _
  | .heaterUpdate _ _ _ _ | .ditherPeriodEnd _ _ _ | .pilotCheckStart _ | .pilotCheckDone _ _
  | .reacqDarkTimeout _ | .loopEnable _ _ _ | .loopReacq _ _ | .ffParamWrite _ _ _ _ | .branchPathRelease _
  | .branchPathTimeout _ | .fslHold _ _ _ | .powerupCalibration _ | .calOffset _ | .calFringe _ | .calPlane _
  | .calAbort _ | .fringeScanDone _ _ | .fixSave _ | .fixativeSaveDone _ | .claimAttempt | .claimInAssert
  | .claimInDeassert | .claimHoldoffEnd | .raceBackoffCheck | .claimWaitExpiry | .claimFault
  | .partnerSilent _ | .engineTestDone _ | .checkMissing | .syncReqRepeat | .syncImageTake | .syncTimeout
  | .yield _ | .rdnSync _ | .rdnClear _ | .yieldedAutoClear | .bucketRefill _ | .recordWrite
  | .rdSeqWrite _ _ | .sillageRelease _ _ | .hostmark _ _ | .checkpointWrite | .sillagePersist | .sillageRead
  | .crcGo _ _ | .crcLearn _ _ | .crcStop _ _ | .crcPeriodStart _ | .blotterRegionStart | .blotterCopyDone
  | .blotterTestDone _ | .blotterRestoreDone | .blotterRetry | .bltHold _ _ | .schHold _ _ _ | .acdHold _ _
  | .copyEngineHold _ _ _ _ | .positionLossTimeout | .pendingRouteResume _ | .pageCtlEnWrite _ _ _ _
  | .blotterSpareTestDone _ => true

end Sys2Proof
end

