-- ==== Sys2Proof/Certificates/Slice0/Obligations.lean ====
section
/-!
DEFINITION. The statements about the block, for the provers.
-/

open Sys2Proof Sys2Proof.Machine

/-- A step runs the command at the front of the queue on the state with the queue's rest; an empty queue idles
(95_what_each_step_holds.md, 03_register_pages_and_host_transport.md R68). -/
def Obligations.StepRunsTheFrontCommand : Prop :=
  (∀ (s : State) (c : Instr) (rest : List Instr),
    step { s with pending := c :: rest } = exec c { s with pending := rest }) ∧
  (∀ s : State, s.pending = [] → s.pwr.inReset = false → step s = .next { s with ns := s.ns + 1#64 }) ∧
  (∀ s : State, s.pending = [] → s.pwr.inReset = true → step s = .next s)

/-- Every command ends in a next state in every state, and leaves the queue of waiting commands as it is
(15_first_second_faults_status_codes.md R426, 03_register_pages_and_host_transport.md R66). -/
def Obligations.EveryCommandAnswersAndLeavesTheQueue : Prop :=
  ∀ (c : Instr) (s : State), ∃ t, exec c s = .next t ∧ t.pending = s.pending

/-- No step lowers the security-version floor, changes owner key 1 once it is blown, or takes back the revocation of
owner key 0 (04_boot_identity_protection.md R95, 04_boot_identity_protection.md R98). -/
def Obligations.FusesAreOnlyBlown : Prop :=
  ∀ (n : Nat) (o : Option (BitVec 384)) (r : Bool) (s t : State), FusesAtLeast n o r s → step s = .next t → FusesAtLeast n o r t

/-- Every step keeps local memory, its marks, scratch, spare, flash and the register file in their canonical form
(05_memory_tiers_and_board_address_space.md, 03_register_pages_and_host_transport.md R61). -/
def Obligations.StepsKeepMemoriesAndRegisterFileCanonical : Prop :=
  ∀ s t : State, Canonical s → step s = .next t → Canonical t

/-- The state after reset has canonical memories and register file, and no fuse beyond manufacture blown
(02_module_power_clocks.md R41, 03_register_pages_and_host_transport.md R61). -/
def Obligations.ResetStateMeetsTheInvariants : Prop :=
  Canonical State.reset ∧ FusesAtLeast 0 none false State.reset ∧
    State.reset.otp.owner1 = none ∧ State.reset.otp.owner0Revoked = false

/-- What reset leaves: dies OFF, queues unbound, registers at their tables' values, slots, buckets and redundancy at
theirs (02_module_power_clocks.md R41, 06_flow_programs_scheduler_tokens.md R147, 07_reduction_arithmetic.md
R201, 13_pair_redundancy_and_live_service.md R372, 14_sillage_check_units_scratch_banks.md R401). -/
def Obligations.ResetLeavesTheSpecsValues : Prop :=
  (∀ u, unitSt State.reset u = .off) ∧ (∀ q, (queueOf State.reset q).state = .unbound) ∧
  (∀ t, (tokOf State.reset t).value = 0#32 ∧ (tokOf State.reset t).poison = false ∧ (tokOf State.reset t).bound = none) ∧
  (∀ i, (ctOf State.reset i).state = .free) ∧ (∀ k, getReg State.reset k = regDefault k) ∧
  getReg State.reset Reg.PWR_PCAP = 1800#32 ∧ getReg State.reset Reg.HST_ETYPE = 0x88B5#32 ∧
  (∀ k, (slotOf State.reset k).outMax = 0x7FFFFFFF#32 ∧ (slotOf State.reset k).cfg = 0#32 ∧ (slotOf State.reset k).integ = 0#32) ∧
  State.reset.rdn.st = .waiting ∧ State.reset.rdn.out = false ∧ (∀ b, (bucketOf State.reset b).tokens = 16) ∧
  (∀ a, readByte State.reset a = 0#8) ∧ State.reset.pending = []

/-- Only the causes of a module reset put the module into reset or take a unit out of FAILED
(02_module_power_clocks.md R30, 02_module_power_clocks.md R32, 02_module_power_clocks.md R56). -/
def Obligations.OnlyModuleResetsEndFailedAndEnterReset : Prop :=
  ∀ (c : Instr) (s t : State), exec c s = .next t →
    c ≠ .vddAonRise → (∀ rail, c ≠ .railFault rail) → (∀ b, c ≠ .resetAssert b) → (∀ d k, c ≠ .thermalTrip d k) →
    (∀ u, unitSt s u = .failed → unitSt t u = .failed) ∧ (s.pwr.inReset = false → t.pwr.inReset = false)

/-- A lost rail, RESET_N, PWRGD, a thermal trip and a rise of VDD_AON put the module into reset, or fail the units a
rail feeds (02_module_power_clocks.md R30, 02_module_power_clocks.md R32, 02_module_power_clocks.md R39,
02_module_power_clocks.md R56, 02_module_power_clocks.md R41). -/
def Obligations.RailsResetPinTripAndAonRiseReset : Prop :=
  (∀ (s : State) (rail : Fin 19), s.pwr.inReset = false → (rail.val < 6 ∨ rail.val = 14) →
    ∃ m t, exec (.railFault rail) s = .next t ∧
      Reports [Reg.PWR_RAIL_FAULT, Reg.PWR_IRQ_STAT] { s with pwr := { s.pwr with rails := s.pwr.rails &&& ~~~ (BitVec.ofNat 19 (2 ^ rail.val)) } } m ∧
      getReg m Reg.PWR_RAIL_FAULT = getReg s Reg.PWR_RAIL_FAULT ||| (BitVec.ofNat 19 (2 ^ rail.val)).setWidth 32 ∧
      getReg m Reg.PWR_IRQ_STAT = getReg s Reg.PWR_IRQ_STAT ||| 1#32 ∧ InModuleReset m t 3) ∧
  (∀ (s : State) (rail : Fin 19) (u : Nat), s.pwr.inReset = false →
    ((6 ≤ rail.val ∧ rail.val ≤ 9 ∧ u = rail.val - 6) ∨ (rail.val = 10 ∧ dieHUB ≤ u ∧ u < dieHUB + 4) ∨
      ((rail.val = 11 ∨ rail.val = 15 ∨ rail.val = 18) ∧ dieIOD ≤ u ∧ u < dieIOD + 8) ∨
      ((rail.val = 12 ∨ rail.val = 16) ∧ dieSTK ≤ u ∧ u < dieSTK + 8) ∨
      ((rail.val = 13 ∨ rail.val = 17) ∧ dieDMC ≤ u ∧ u < dieDMC + 2)) →
    ∃ t, exec (.railFault rail) s = .next t ∧ unitSt t u = .failed ∧ t.pwr.inReset = false) ∧
  (∀ (s : State) (rail : Fin 19), s.pwr.inReset = true →
    ∃ t, exec (.railFault rail) s = .next t ∧
      Reports [Reg.PWR_RAIL_FAULT, Reg.PWR_IRQ_STAT] { s with pwr := { s.pwr with rails := s.pwr.rails &&& ~~~ (BitVec.ofNat 19 (2 ^ rail.val)) } } t) ∧
  (∀ (s : State) (fell : Bool), s.pwr.inReset = false →
    ∃ t, exec (.resetAssert fell) s = .next t ∧ InModuleReset s t 1 ∧ t.pwr.tripped = false ∧
      t.pwr.resetN = (s.pwr.resetN || !fell) ∧ t.pwr.pwrgd = (s.pwr.pwrgd && !fell)) ∧
  (∀ (s : State) (fell : Bool), s.pwr.inReset = true → s.pwr.tripped = false →
    exec (.resetAssert fell) s = .next { s with pwr := { s.pwr with resetN := s.pwr.resetN || !fell, pwrgd := s.pwr.pwrgd && !fell } }) ∧
  (∀ (s : State) (u : Fin 32) (temp : Byte), s.pwr.inReset = false → 115 ≤ temp.toNat →
    ∃ t, exec (.thermalTrip u temp) s = .next t ∧ InModuleReset (setTemp s u.val temp.toNat) t 2 ∧ t.pwr.tripped = true) ∧
  (∀ (s : State) (u : Fin 32) (temp : Byte), temp.toNat < 115 →
    exec (.thermalTrip u temp) s = .next (setTemp s u.val temp.toNat)) ∧
  (∀ s : State, s.pwr.resetN = true →
    ∃ t, exec .vddAonRise s = .next t ∧ t.pwr.inReset = true ∧ (∀ u, unitSt t u = .off) ∧ (∀ k, getReg t k = regDefault k) ∧
      t.pwr.optime = 0#40 ∧ t.pwr.rails.getLsbD 0 = true ∧ t.otp = s.otp ∧ t.mem.flash = s.mem.flash ∧
      t.rdn.out = false ∧ t.out = s.out)

/-- RAIL_RECOVERY, PWRGD_ASSERT and RESET_RELEASE set the pins; the reset releases exactly when PWRGD, RESET_N,
every rail and no trip allow (02_module_power_clocks.md R33, 02_module_power_clocks.md R37,
02_module_power_clocks.md R38, 02_module_power_clocks.md R429). -/
def Obligations.ResetReleasesWhenEveryConditionHolds : Prop :=
  ∀ s : State,
    (let m : State := { s with pwr := { s.pwr with rails := s.pwr.rails ||| 0x7FFFE#19 } }
     (ReadyForRelease m → ∃ t, exec .railRecovery s = .next t ∧ Released m t) ∧
     (¬ ReadyForRelease m → exec .railRecovery s = .next m)) ∧
    (∀ rails : BitVec 19,
      let now := rails ||| (s.pwr.rails &&& 1#19)
      let m : State := orReg { s with pwr := { s.pwr with pwrgd := true, rails := now } } Reg.PWR_RAIL_FAULT ((~~~ now).setWidth 32)
      (ReadyForRelease m → ∃ t, exec (.pwrgdAssert rails) s = .next t ∧ Released m t) ∧
      (¬ ReadyForRelease m → exec (.pwrgdAssert rails) s = .next m)) ∧
    (∀ straps : BitVec 12, s.pwr.resetN = true →
      let m : State := { s with pwr := { s.pwr with resetN := false, strapPins := straps } }
      (ReadyForRelease m → ∃ t, exec (.resetRelease straps) s = .next t ∧ Released m t) ∧
      (¬ ReadyForRelease m → exec (.resetRelease straps) s = .next m)) ∧
    (∀ straps : BitVec 12, s.pwr.resetN = false → exec (.resetRelease straps) s = .next s)

/-- Power-up order, step phases one at a time, zeroing, ungating and entry into OFF (02_module_power_clocks.md R43,
02_module_power_clocks.md R46, 02_module_power_clocks.md R47, 02_module_power_clocks.md R48,
02_module_power_clocks.md R49, 02_module_power_clocks.md R52). -/
def Obligations.UnitsTakeTheirStepPhases : Prop :=
  (∀ (s : State) (n u : Nat), s.pwr.inReset = false → s.pwr.upStep = n →
    ([31, 4, 5, 6, 7, 8, 9, 10, 11, 12, 13, 14, 15, 16, 17, 18, 19, 20, 23, 24, 25, 26, 27, 28, 29, 30, 21, 22] : List Nat)[n]? = some u →
    (∀ m v, n = m + 1 → ([31, 4, 5, 6, 7, 8, 9, 10, 11, 12, 13, 14, 15, 16, 17, 18, 19, 20, 23, 24, 25, 26, 27, 28, 29, 30, 21, 22] : List Nat)[m]? = some v →
      unitSt s v ≠ .off ∧ unitSt s v ≠ .powering ∧ unitSt s v ≠ .zeroing ∧ unitSt s v ≠ .waking) →
    unitSt s u = .off →
    ∃ t, exec .powerupUnitStart s = .next t ∧ t = { s with pwr := t.pwr, ste := t.ste } ∧
      t.ste = { s.ste with training := s.ste.training || decide (u = dieIOD + 7) } ∧ t.pwr.upStep = n + 1 ∧
      (∀ v, v ≠ u → unitSt t v = unitSt s v) ∧
      unitSt t u = (if dieIOD ≤ u ∧ u < dieHUB then .on
        else if dieSTK ≤ u ∧ u < dieCLK then (if unitSt s ((u - dieSTK) / 2) = .on then .on else .retain)
        else if u = dieDMC then (if unitSt s dieHUB = .on ∨ unitSt s (dieHUB + 1) = .on then .on else .retain)
        else if u = dieDMC + 1 then (if unitSt s (dieHUB + 2) = .on ∨ unitSt s (dieHUB + 3) = .on then .on else .retain)
        else .powering) ∧
      t.pwr.wakeQ = s.pwr.wakeQ ++ (if unitSt t u = .powering then [{ unit := u, kind := .gateUp }] else [])) ∧
  (∀ s : State, exec .wakePhaseStart s = .next (match s.pwr.phase, s.pwr.wakeQ with
    | none, p :: rest => { s with pwr := { s.pwr with phase := some p, wakeQ := rest } }
    | _, _ => s)) ∧
  (∀ (s : State) (u : Nat), s.pwr.phase = some { unit := u, kind := .gateUp } → unitSt s u = .powering →
    ∃ t, exec .powerGateDone s = .next t ∧ t = { s with pwr := t.pwr } ∧ t.pwr.phase = none ∧
      (∀ v, v ≠ u → unitSt t v = unitSt s v) ∧ unitSt t u = (if u < 4 ∨ u = dieSTE then .zeroing else .waking) ∧
      t.pwr.wakeQ = s.pwr.wakeQ ++ (if u < 4 ∨ u = dieSTE then [] else [{ unit := u, kind := .ungate }])) ∧
  (∀ (s : State) (u : Fin 32), u.val < 4 → unitSt s u.val = .zeroing →
    ∃ t, exec (.zeroingDone u) s = .next t ∧ t = { s with pwr := t.pwr, mem := t.mem } ∧
      unitSt t u.val = (if (wakeOf s u.val).stopIdle then .idle else .waking) ∧
      (∀ a, 0xC000000000 + u.val * 0x10000000 ≤ a → a < 0xC000000000 + (u.val + 1) * 0x10000000 → readByte t a = 0#8) ∧
      (∀ a, a < 0xC000000000 + u.val * 0x10000000 ∨ 0xC000000000 + (u.val + 1) * 0x10000000 ≤ a → readByte t a = readByte s a)) ∧
  (∀ s : State, unitSt s dieSTE = .zeroing →
    ∃ t, exec (.zeroingDone ⟨4, by decide⟩) s = .next t ∧ t = { s with pwr := t.pwr, mem := { s.mem with scratch := [] } } ∧
      unitSt t dieSTE = .waking ∧ t.pwr.wakeQ = s.pwr.wakeQ ++ [{ unit := dieSTE, kind := .ungate }]) ∧
  (∀ s : State, s.pwr.phase = some { unit := dieSTE, kind := .ungate } → unitSt s dieSTE = .waking →
    ∃ t, exec .clockUngateDone s = .next t ∧ t = { s with pwr := t.pwr, boot := { s.boot with phase := .rom } } ∧
      unitSt t dieSTE = .on ∧ t.pwr.phase = none ∧ ∀ v, v ≠ dieSTE → unitSt t v = unitSt s v) ∧
  (∀ (s : State) (u : Nat), 4 < u → s.pwr.phase = some { unit := u, kind := .ungate } → unitSt s u = .waking → u ≠ dieDMC → u ≠ dieDMC + 1 →
    ∃ t, exec .clockUngateDone s = .next t ∧ t = { s with pwr := t.pwr } ∧ unitSt t u = .on ∧ t.pwr.phase = none ∧
      ∀ v, v ≠ u → v ≠ dieDMC → v ≠ dieDMC + 1 → unitSt t v = unitSt s v) ∧
  (∀ (s : State) (u : Nat), u < 4 → s.pwr.phase = some { unit := u, kind := .gateDown } → unitSt s u = .powering →
    ∃ t, exec .offEntryDone s = .next t ∧ t = { s with pwr := t.pwr, mem := t.mem } ∧ t.pwr.phase = none ∧
      unitSt t u = (if (wakeOf s u).again then .powering else .off) ∧
      t.pwr.wakeQ = s.pwr.wakeQ ++ (if (wakeOf s u).again then [{ unit := u, kind := .gateUp }] else []) ∧
      (∀ a, a < 0xC000000000 + u * 0x10000000 ∨ 0xC000000000 + (u + 1) * 0x10000000 ≤ a → readByte t a = readByte s a))

/-- IDLE_AFTER, OFF_AFTER, idle engines, hub OFF and wake, and the commands of PWR.FLW_CMD
(02_module_power_clocks.md R43, 02_module_power_clocks.md R44, 02_module_power_clocks.md R46,
02_module_power_clocks.md R51, 03_register_pages_and_host_transport.md R69). -/
def Obligations.DiesIdleSwitchOffAndWake : Prop :=
  (∀ (s : State) (d : Fin 4), unitSt s d.val = .on → diePending s d.val = false → getReg s Reg.PWR_IDLE_AFTER ≠ 0#32 →
    ∃ t, exec (.idleAfterExpiry d) s = .next t ∧ t = { s with pwr := t.pwr } ∧ unitSt t d.val = .idle ∧
      (wakeOf t d.val).offTimer = true ∧ t.pwr.wakeQ = s.pwr.wakeQ ∧ ∀ v, v ≠ d.val → unitSt t v = unitSt s v) ∧
  (∀ (s : State) (d : Fin 4), unitSt s d.val ≠ .on ∨ diePending s d.val = true ∨ getReg s Reg.PWR_IDLE_AFTER = 0#32 →
    exec (.idleAfterExpiry d) s = .next s) ∧
  (∀ (s : State) (d : Fin 4), unitSt s d.val = .idle → (wakeOf s d.val).offTimer = true → getReg s Reg.PWR_OFF_AFTER ≠ 0#32 →
    ∃ t, exec (.offAfterExpiry d) s = .next t ∧ t = { s with pwr := t.pwr } ∧
      unitSt t d.val = (if isLive s d.val then .idle else .powering) ∧
      t.pwr.wakeQ = s.pwr.wakeQ ++ (if isLive s d.val then [] else [{ unit := d.val, kind := .gateDown }]) ∧
      (wakeOf t d.val).offTimer = false ∧ ∀ v, v ≠ d.val → unitSt t v = unitSt s v) ∧
  (∀ (s : State) (n : Nat), n < 128 → engineJob s 0x11 (n / 32) (n % 32) = none →
    ∃ t, exec (.engineIdle .red n) s = .next t ∧ t = { s with pwr := { s.pwr with engOn := t.pwr.engOn } } ∧
      tget (fun _ => false) t.pwr.engOn (256 * 0x11 + n) = false ∧
      ∀ k, k ≠ 256 * 0x11 + n → tget (fun _ => false) t.pwr.engOn k = tget (fun _ => false) s.pwr.engOn k) ∧
  (∀ (s : State) (h : Fin 4), unitSt s (dieHUB + h.val) = .on → hubNeeded s h.val = false → s.mem.held = [] → s.board.heldLink = [] →
    ∃ t, exec (.hubOff h) s = .next t ∧ t = { s with pwr := t.pwr } ∧ unitSt t (dieHUB + h.val) = .powering ∧
      t.pwr.wakeQ = s.pwr.wakeQ ++ [{ unit := dieHUB + h.val, kind := .gateDown }] ∧ ∀ v, v ≠ dieHUB + h.val → unitSt t v = unitSt s v) ∧
  (∀ (s : State) (h : Fin 4), hubNeeded s h.val = true → unitSt s (dieHUB + h.val) = .off →
    ∃ t, exec (.hubWake h) s = .next t ∧ t = { s with pwr := t.pwr } ∧ unitSt t (dieHUB + h.val) = .powering ∧
      t.pwr.wakeQ = s.pwr.wakeQ ++ [{ unit := dieHUB + h.val, kind := .gateUp }] ∧ ∀ v, v ≠ dieHUB + h.val → unitSt t v = unitSt s v) ∧
  (∀ (s : State) (who : Requester) (d : Fin 4), Commands s who 0x02 0 0x044 →
    (unitSt s d.val = .failed → ∃ t, exec (.flwWake who d) s = .next t ∧ RefusedWith s t 0x02 0 stSTATE ∧
      fld (getReg t (Reg.PWR_IRQ_STAT + 0x00C)) 8 8 = 6) ∧
    (unitSt s d.val = .on → exec (.flwWake who d) s = .next s) ∧
    (unitSt s d.val = .idle → ∃ t, exec (.flwWake who d) s = .next t ∧ t = { s with pwr := t.pwr } ∧ unitSt t d.val = .waking ∧
      (wakeOf t d.val).cmd = true ∧ t.pwr.wakeQ = s.pwr.wakeQ ++ [{ unit := d.val, kind := .ungate }]) ∧
    (unitSt s d.val = .waking → ∃ t, exec (.flwIdle who d) s = .next t ∧ RefusedWith s t 0x02 0 stSTATE ∧
      fld (getReg t (Reg.PWR_IRQ_STAT + 0x00C)) 8 8 = 3) ∧
    (unitSt s d.val = .on → diePending s d.val = false → ∃ t, exec (.flwIdle who d) s = .next t ∧ t = { s with pwr := t.pwr } ∧
      unitSt t d.val = .idle) ∧
    (unitSt s d.val = .off → ∃ t, exec (.flwOff who d) s = .next t ∧ RefusedWith s t 0x02 0 stSTATE ∧
      fld (getReg t (Reg.PWR_IRQ_STAT + 0x00C)) 8 8 = 0) ∧
    (unitSt s d.val = .idle → isLive s d.val = false → ∃ t, exec (.flwOff who d) s = .next t ∧ t = { s with pwr := t.pwr } ∧
      unitSt t d.val = .powering ∧ t.pwr.wakeQ = s.pwr.wakeQ ++ [{ unit := d.val, kind := .gateDown }]))

/-- Loss and return of the references, the operating time, the power cap and the thermal limits of Flow dies
(02_module_power_clocks.md R35, 02_module_power_clocks.md R36, 02_module_power_clocks.md R39,
02_module_power_clocks.md R54, 02_module_power_clocks.md R56). -/
def Obligations.ClocksPowerAndTemperature : Prop :=
  (∀ s : State, s.pwr.aonInt = false → ∃ t, exec .refclk25Loss s = .next t ∧
    Reports [Reg.CLK_IRQ_STAT] { s with pwr := { s.pwr with ref25 := false, aonInt := true } } t ∧
    getReg t Reg.CLK_IRQ_STAT = getReg s Reg.CLK_IRQ_STAT ||| 1#32) ∧
  (∀ s : State, s.pwr.aonInt = true → exec .refclk25Loss s = .next s) ∧
  (∀ s : State, s.pwr.ref156 = true → ∃ t, exec .sdsref156Loss s = .next t ∧ t.pwr.ref156 = false ∧
    (s.pwr.inReset = false → t.pwr.inReset = false)) ∧
  (∀ s : State, s.pwr.ref156 = true → planeUp s = false →
    (∀ n, (linkOf s n).st ≠ .up ∧ (linkOf s n).st ≠ .training ∧ (linkOf s n).st ≠ .retraining) →
    (∀ p, (portOf s p).st ≠ .up ∧ (portOf s p).st ≠ .training) →
    ∃ t, exec .sdsref156Loss s = .next t ∧
      Reports [Reg.CLK_PLL_LOL, Reg.CLK_IRQ_STAT, Reg.HST_PORT_STAT] { s with pwr := { s.pwr with ref156 := false } } t ∧
      getReg t Reg.CLK_PLL_LOL = getReg s Reg.CLK_PLL_LOL ||| 0xFF#32 ∧
      getReg t Reg.CLK_IRQ_STAT = getReg s Reg.CLK_IRQ_STAT ||| 6#32 ∧ getReg t Reg.HST_PORT_STAT = 0#32) ∧
  (∀ s : State, s.pwr.ref156 = false → ∃ t, exec .sdsref156Return s = .next t ∧ t.pwr = { s.pwr with ref156 := true } ∧
    t.mem = s.mem ∧ t.regs = s.regs ∧ (unitSt s (dieIOD + 7) = .on → t.ste.training = true)) ∧
  (∀ s : State, exec .optimeTick s = .next { s with pwr := { s.pwr with
    optime := if s.pwr.rails.getLsbD 0 then s.pwr.optime + 1#40 else s.pwr.optime } }) ∧
  (∀ (s : State) (who : Requester), s.pwr.inReset = false → mayAccess s (classOf who) 0x02 0x090 false = true →
    ∃ t, exec (.optimeLoRead who) s = .next t ∧ t = { s with pwr := { s.pwr with latch := t.pwr.latch } } ∧
      tget (fun _ => none) t.pwr.latch Reg.PWR_OPTIME_HI = some (toWord (s.pwr.optime.toNat / 2 ^ 32))) ∧
  (∀ (s : State) (w : BitVec 12), (s.pwr.capped = true ∨ w.toNat ≤ (getReg s Reg.PWR_PCAP).toNat) →
    exec (.powerMeasure w) s = .next (setReg s Reg.PWR_PWR_MEAS (toWord w.toNat))) ∧
  (∀ (s : State) (w : BitVec 12), s.pwr.capped = false → (getReg s Reg.PWR_PCAP).toNat < w.toNat →
    ∃ t, exec (.powerMeasure w) s = .next t ∧
      Reports [Reg.PWR_PWR_MEAS, Reg.PWR_IRQ_STAT] { s with pwr := { s.pwr with capped := true } } t ∧
      getReg t Reg.PWR_PWR_MEAS = toWord w.toNat ∧ getReg t Reg.PWR_IRQ_STAT = getReg s Reg.PWR_IRQ_STAT ||| 8#32) ∧
  (∀ s : State, let below := decide (100 * (getReg s Reg.PWR_PWR_MEAS).toNat < 95 * (getReg s Reg.PWR_PCAP).toNat)
    exec .capRelease s = .next { s with pwr := { s.pwr with capped := s.pwr.capped && !below } }) ∧
  (∀ (s : State) (d : Fin 4) (temp : Byte), ∃ t, exec (.thermalThrottle d temp) s = .next t ∧
    (getReg t Reg.PWR_THROTTLE).getLsbD d.val = decide (fld (getReg s Reg.PWR_THERM_CFG) 0 8 ≤ temp.toNat) ∧
    (∀ e : Fin 4, e ≠ d → (getReg t Reg.PWR_THROTTLE).getLsbD e.val = (getReg s Reg.PWR_THROTTLE).getLsbD e.val) ∧
    Reports [Reg.PWR_TEMP0, Reg.PWR_THROTTLE, Reg.PWR_IRQ_STAT] s t ∧ tempOf t d.val = temp.toNat) ∧
  (∀ (s : State) (d : Fin 4) (temp : Byte), s.pwr.inReset = false → fld (getReg s Reg.PWR_THERM_CFG) 8 8 ≤ temp.toNat →
    ∃ t, exec (.thermalDieOff d temp) s = .next t ∧ unitSt t d.val = .failed ∧ t.pwr.inReset = false) ∧
  (∀ (s : State) (d : Fin 4) (temp : Byte), temp.toNat < fld (getReg s Reg.PWR_THERM_CFG) 8 8 →
    exec (.thermalDieOff d temp) s = .next (setTemp s d.val temp.toNat))

/-- JTAG instructions: the full set only with RESET_N asserted and PWRGD high, anything else acts as BYPASS
(02_module_power_clocks.md R57). -/
def Obligations.JtagAcceptsTheFullSetOnlyInReset : Prop :=
  ∀ s : State,
    let asBypass : State := { s with pwr := { s.pwr with jtag := .bypass, jtagDrive := none }, out := .jtag [false] :: s.out }
    let full := s.pwr.resetN && s.pwr.pwrgd
    exec .bypass s = .next asBypass ∧
    exec .idcode s = .next { s with
      pwr := { s.pwr with jtag := .idcode, jtagDrive := none }
      out := .jtag ((List.range 32).map fun b => (0x111520B7 : Nat).testBit b) :: s.out } ∧
    (∀ pins preload, exec (.samplePreload pins preload) s = .next (if full then { s with
      pwr := { s.pwr with jtag := .samplePreload, jtagCells := preload, jtagDrive := none }
      out := .jtag pins :: s.out } else asBypass)) ∧
    exec .extest s = .next (if full then { s with
      pwr := { s.pwr with jtag := .extest, jtagDrive := some s.pwr.jtagCells }
      out := .jtag s.pwr.jtagCells :: s.out } else asBypass) ∧
    exec .clamp s = .next (if full then { s with
      pwr := { s.pwr with jtag := .clamp, jtagDrive := some s.pwr.jtagCells }
      out := .jtag [false] :: s.out } else asBypass) ∧
    exec .highz s = .next (if full then { s with
      pwr := { s.pwr with jtag := .highz, jtagDrive := none }
      out := .jtag [false] :: s.out } else asBypass)

/-- READ, WRITE, RMW, BULK_READ and BULK_WRITE of a session make their accesses with its class and answer with the
outcome (03_register_pages_and_host_transport.md R68, 03_register_pages_and_host_transport.md R74,
03_register_pages_and_host_transport.md R75, 03_register_pages_and_host_transport.md R76,
03_register_pages_and_host_transport.md R81, 03_register_pages_and_host_transport.md R88). -/
def Obligations.KrtRequestsAccessAndAnswer : Prop :=
  (∀ (s : State) (f : KrtFrame) (i : Nat) (bad : Bool), NewRequest s 0x01#8 f i → f.space = 0x00#8 → f.address.toNat < 2 ^ 44 →
    let r := accessRead (accepted s i f) (sessOf s i).cls f.address.toNat
    ∃ t, exec (.read f bad) s = .next t ∧
      Replied r.2.2.2 t 0x01#8 f i r.1 (if r.1 = stOK then beBytes 4 r.2.2.1.toNat else beBytes 4 r.2.1.toNat)) ∧
  (∀ (s : State) (f : KrtFrame) (i : Nat), NewRequest s 0x01#8 f i → f.space = 0x01#8 → f.address.toNat < 0x10000 →
    f.address.toNat % 4 = 0 → hasRight s (sessOf s i).cls 0x06 false = true →
    let r := scratchRead (accepted s i f) (mbxBase + f.address.toNat) 4
    ∃ t, exec (.read f false) s = .next t ∧ Replied r.2 t 0x01#8 f i stOK r.1) ∧
  (∀ (s : State) (f : KrtFrame) (i : Nat) (b : Option MbxPortB), NewRequest s 0x02#8 f i → f.space = 0x00#8 → f.address.toNat < 2 ^ 44 →
    let r := accessWrite (accepted s i f) (sessOf s i).cls (sessOf s i).sid f.address.toNat (toWord (beNat (krtPayload f)))
    ∃ t, exec (.write f b) s = .next t ∧ Replied r.2.2 t 0x02#8 f i r.1 (if r.1 = stOK then [] else beBytes 4 r.2.1.toNat)) ∧
  (∀ (s : State) (f : KrtFrame) (i : Nat), NewRequest s 0x02#8 f i → f.space = 0x01#8 → f.address.toNat < 0x10000 → f.address.toNat % 4 = 0 →
    (fld (getReg s Reg.HST_MBX_LOCK) 0 16 = (sessOf s i).sid.toNat → ∃ t, exec (.write f none) s = .next t ∧
      Replied (scratchWrite (accepted s i f) (mbxBase + f.address.toNat) (krtPayload f)) t 0x02#8 f i stOK []) ∧
    (fld (getReg s Reg.HST_MBX_LOCK) 0 16 ≠ (sessOf s i).sid.toNat → ∃ t m, exec (.write f none) s = .next t ∧
      RefusedWith (accepted s i f) m 0x06 0 stRESOURCE ∧
      Replied m t 0x02#8 f i stRESOURCE (beBytes 4 (getReg m (Reg.HST_IRQ_STAT + 0x00C)).toNat))) ∧
  (∀ (s : State) (f : KrtFrame) (i : Nat), NewRequest s 0x03#8 f i → f.space = 0x00#8 → f.address.toNat < 2 ^ 44 →
    let r := accessRead (accepted s i f) (sessOf s i).cls f.address.toNat
    let mask := toWord (beAt (krtPayload f) 0 4)
    let w := accessWrite r.2.2.2 (sessOf s i).cls (sessOf s i).sid f.address.toNat
      ((r.2.2.1 &&& ~~~ mask) ||| (toWord (beAt (krtPayload f) 4 4) &&& mask))
    (r.1 = stOK → ∃ t, exec (.rmw f) s = .next t ∧
      Replied w.2.2 t 0x03#8 f i w.1 (if w.1 = stOK then beBytes 4 r.2.2.1.toNat else beBytes 4 w.2.1.toNat)) ∧
    (r.1 ≠ stOK → ∃ t, exec (.rmw f) s = .next t ∧ Replied r.2.2.2 t 0x03#8 f i r.1 (beBytes 4 r.2.1.toNat))) ∧
  (∀ (s : State) (f : KrtFrame) (i : Nat), NewRequest s 0x04#8 f i →
    let n := beAt (krtPayload f) 0 4
    let r := bulkReadWords (acceptSeq { sessOf s i with mac := f.src } f.seq) f.space f.address.toNat (n / 4) 0 [] (accepted s i f)
    f.address.toNat / 4096 = (f.address.toNat + n - 1) / 4096 →
    ∃ t, exec (.bulkRead f) s = .next t ∧ Replied r.2.2.2.2 t 0x04#8 f i r.1
      (if r.1 = stOK then r.2.2.2.1 else beBytes 4 r.2.1 ++ beBytes 4 r.2.2.1.toNat)) ∧
  (∀ (s : State) (f : KrtFrame) (i : Nat), NewRequest s 0x05#8 f i →
    let n := f.length.toNat
    let r := bulkWriteWords (acceptSeq { sessOf s i with mac := f.src } f.seq) f.space f.address.toNat (krtPayload f) (n / 4) 0 (accepted s i f)
    (f.address.toNat / 4096 = (f.address.toNat + n - 1) / 4096 →
      ∃ t, exec (.bulkWrite f) s = .next t ∧ Replied r.2.2.2 t 0x05#8 f i r.1
        (if r.1 = stOK then [] else beBytes 4 r.2.1 ++ beBytes 4 r.2.2.1.toNat)) ∧
    (f.address.toNat / 4096 ≠ (f.address.toNat + n - 1) / 4096 → f.space = 0x01#8 →
      ∃ t m, exec (.bulkWrite f) s = .next t ∧ RefusedWith (accepted s i f) m 0x06 0 stRANGE ∧
        Replied m t 0x05#8 f i stRANGE (beBytes 4 0 ++ beBytes 4 (getReg m (Reg.HST_IRQ_STAT + 0x00C)).toNat)))

/-- A frame that no open session verifies, or whose SEQ was taken before, changes no register but counters and
reports (03_register_pages_and_host_transport.md R68, 03_register_pages_and_host_transport.md R71,
03_register_pages_and_host_transport.md R80, 03_register_pages_and_host_transport.md R81). -/
def Obligations.UnverifiedAndReplayedFramesDoNothing : Prop :=
  (∀ (s t : State) (c : Instr) (op : Byte) (f : KrtFrame), Heard s f →
    (c = .rmw f ∧ op = 0x03#8 ∨ (∃ b, c = .read f b ∧ op = 0x01#8) ∨ (∃ b, c = .write f b ∧ op = 0x02#8) ∨ c = .bulkRead f ∧ op = 0x04#8 ∨
      c = .bulkWrite f ∧ op = 0x05#8 ∨ c = .notifyAck f ∧ op = 0x06#8 ∨ (c = .krtPending op f ∧ op ≠ 0x07#8) ∨
      ((c = .close f ∨ c = .keepalive f ∨ c = .openSession f) ∧ op = 0x07#8 ∧ isOpenReq f = false)) →
    (∀ i, ((List.range 8).find? fun i => (sessOf s i).isOpen && (sessOf s i).sid == f.sid) = some i →
      krtTagOk (sessOf s i).keyIn op f = false) →
    exec c s = .next t →
    Reports [Reg.HST_CNT_AUTH, Reg.HST_IRQ_STAT] s t ∧ getReg t Reg.HST_CNT_AUTH = satAdd (getReg s Reg.HST_CNT_AUTH) 1) ∧
  (∀ (s : State) (f : KrtFrame) (k : Nat), krtListens s = true → krtCounter s f = some k →
    ∃ t, exec (.rmw f) s = .next t ∧ exec (.close f) s = .next t ∧ exec (.keepalive f) s = .next t ∧ exec (.krtPending 0x01#8 f) s = .next t ∧
      Reports [k, Reg.HST_IRQ_STAT] s t ∧ getReg t k = satAdd (getReg s k) 1) ∧
  (∀ (s : State) (f : KrtFrame) (i : Nat), InSession s 0x03#8 f i → f.seq.toNat < 0xFFFFFF00 → replayOf (sessOf s i) f.seq = .old →
    ∃ t, exec (.rmw f) s = .next t ∧
      Reports [Reg.HST_CNT_REPLAY, Reg.HST_IRQ_STAT] (setSess s i { sessOf s i with mac := f.src }) t ∧
      getReg t Reg.HST_CNT_REPLAY = satAdd (getReg s Reg.HST_CNT_REPLAY) 1) ∧
  (∀ (s : State) (f : KrtFrame) (i : Nat) (w : Word × KrtOut), InSession s 0x02#8 f i → f.seq.toNat < 0xFFFFFF00 →
    replayOf (sessOf s i) f.seq = .done → (sessOf s i).cache.find? (fun c => c.1 == f.seq) = some w →
    ∀ b, exec (.write f b) s = .next { setSess s i { sessOf s i with mac := f.src } with out := .krt w.2 :: s.out })

/-- OPEN, CLOSE, KEEPALIVE, PENDING, idle expiry, the start of answers and the acknowledgement and retry of NOTIFY
(03_register_pages_and_host_transport.md R77, 03_register_pages_and_host_transport.md R78,
03_register_pages_and_host_transport.md R82, 03_register_pages_and_host_transport.md R83,
03_register_pages_and_host_transport.md R84, 03_register_pages_and_host_transport.md R87). -/
def Obligations.SessionsOpenCloseAndExpire : Prop :=
  (∀ (s : State) (f : KrtFrame) (slot : Nat), Heard s f → isOpenReq f = true → f.respFlag = false → f.flagsHigh = 0#3 → f.length = 232#16 →
    openFieldsOk (krtPayload f) = true → openAuthOk s (krtPayload f) = true → openSlot s (beAt (krtPayload f) 1 1) = some slot →
    ∃ t, exec (.openSession f) s = .next t ∧ t = { s with hst := t.hst, out := t.out, fresh := t.fresh } ∧
      t.hst = { s.hst with sessions := t.hst.sessions, openCount := s.hst.openCount + 1 } ∧
      (∀ j, j ≠ slot → sessOf t j = sessOf s j) ∧ (sessOf t slot).isOpen = true ∧ (sessOf t slot).cls = beAt (krtPayload f) 1 1 ∧
      (sessOf t slot).keySlot = beAt (krtPayload f) 2 1 ∧ (sessOf t slot).mac = f.src ∧
      (sessOf t slot).sid = BitVec.ofNat 16 (((s.hst.openCount - 1) % 8191 + 1) * 8 + slot) ∧ (sessOf t slot).h = 0#32 ∧
      ∃ o : KrtOut, t.out = .krt o :: s.out ∧ o.status = 0#16 ∧ o.dst = f.src ∧ o.sid = 0#16 ∧ o.tag = f.tag) ∧
  (∀ (s : State) (f : KrtFrame), Heard s f → isOpenReq f = true → f.respFlag = false → f.flagsHigh = 0#3 → f.length = 232#16 →
    openFieldsOk (krtPayload f) = true → openAuthOk s (krtPayload f) = false →
    ∃ t m, exec (.openSession f) s = .next t ∧ RefusedWith s m 0x06 0 stAUTH ∧ t = { m with out := t.out, fresh := t.fresh } ∧
      ∃ o : KrtOut, t.out = .krt o :: s.out ∧ o.status = BitVec.ofNat 16 stAUTH ∧ o.payload = []) ∧
  (∀ (s : State) (f : KrtFrame) (i : Nat), NewRequest s 0x07#8 f i → isOpenReq f = false → beAt (krtPayload f) 0 1 = 3 →
    ∃ t, exec (.close f) s = .next t ∧ Replied (closeSession (accepted s i f) i) t 0x07#8 f i stOK (krtPayload f) ∧ (sessOf t i).isOpen = false) ∧
  (∀ (s : State) (f : KrtFrame) (i : Nat), NewRequest s 0x07#8 f i → isOpenReq f = false → beAt (krtPayload f) 0 1 = 4 →
    ∃ t, exec (.keepalive f) s = .next t ∧ Replied (accepted s i f) t 0x07#8 f i stOK (krtPayload f) ∧ (sessOf t i).isOpen = true) ∧
  (∀ (s : State) (f : KrtFrame) (i : Nat) (op : Byte), NewRequest s op f i → (op ≠ 0x07#8 ∨ isOpenReq f = false) →
    ∃ t, exec (.krtPending op f) s = .next t ∧ t = { accepted s i f with hst := t.hst, out := t.out, fresh := t.fresh } ∧
      f.seq ∈ (sessOf t i).running ∧ ∃ o : KrtOut, t.out = .krt o :: s.out ∧ o.status = 1#16 ∧ o.seq = f.seq ∧ o.tag = f.tag) ∧
  (∀ (s : State) (slot : Fin 8), (sessOf s slot.val).isOpen = true →
    ∃ t, exec (.sessionIdleExpiry slot) s = .next t ∧ sessOf t slot.val = {} ∧ (∀ j, j ≠ slot.val → sessOf t j = sessOf s j) ∧
      t = { s with hst := t.hst, regs := t.regs } ∧ (∀ k, k ≠ Reg.HST_MBX_LOCK → getReg t k = getReg s k) ∧
      (fld (getReg s Reg.HST_MBX_LOCK) 0 16 = (sessOf s slot.val).sid.toNat → fld (getReg t Reg.HST_MBX_LOCK) 0 16 = 0) ∧
      (fld (getReg s Reg.HST_MBX_LOCK) 0 16 ≠ (sessOf s slot.val).sid.toNat → t.regs = s.regs)) ∧
  (∀ s : State, s.pwr.inReset = false → exec .krtAnswerStart s = .next { s with hst := { s.hst with answers := true } }) ∧
  (∀ (s : State) (f : KrtFrame) (i : Nat), InSession s 0x06#8 f i → f.respFlag = true → f.length = 0#16 → f.flagsHigh = 0#3 →
    exec (.notifyAck f) s = .next (setSess (setSess s i { sessOf s i with mac := f.src }) i
      { sessOf s i with mac := f.src, unacked := (sessOf s i).unacked.filter fun n => n.seq != f.seq })) ∧
  (∀ (s : State) (slot : Fin 8) (seq : Word) (n : Notify), (sessOf s slot.val).unacked.find? (fun n => n.seq == seq) = some n →
    (n.tries < fld (getReg s Reg.HST_NOTIFY_RETRY) 8 4 → ∃ t, exec (.notifyRetry slot seq) s = .next t ∧
      t = { s with hst := { s.hst with sessions := t.hst.sessions }, out := t.out, fresh := t.fresh } ∧
      ∃ o : KrtOut, t.out = .krt o :: s.out ∧ o.op = 0x06#8 ∧ o.resp = false ∧ o.seq = n.seq ∧ o.payload = n.payload) ∧
    (fld (getReg s Reg.HST_NOTIFY_RETRY) 8 4 ≤ n.tries → ∃ t, exec (.notifyRetry slot seq) s = .next t ∧
      (getReg t Reg.HST_IRQ_STAT).getLsbD 2 = true ∧
      Reports [Reg.HST_IRQ_STAT] (setSess s slot.val { sessOf s slot.val with
        unacked := (sessOf s slot.val).unacked.filter fun m => m.seq != seq
        lost := (sessOf s slot.val).lost + 1#32 }) t))

/-- Host-port width, the hold of the mailbox, and doorbells in both directions
(03_register_pages_and_host_transport.md R70, 02_module_power_clocks.md R15,
03_register_pages_and_host_transport.md R88, 03_register_pages_and_host_transport.md R89). -/
def Obligations.HostPortMailboxAndDoorbells : Prop :=
  (∀ (s : State) (lanes : BitVec 4), s.pwr.inReset = false → s.pwr.ref156 = true →
    let got (l : BitVec 4) : Nat := hostWidth (l &&& usableLanes s)
    let word (l : BitVec 4) : Word := toWord (if got l = 0 then 0 else got l + 4 * (l &&& usableLanes s).toNat)
    (fld (getReg s Reg.HST_PORT_STAT) 0 2 = 0 → ∃ t, exec (.hostPortUp lanes) s = .next t ∧
      Reports [Reg.HST_PORT_STAT, Reg.HST_IRQ_STAT] s t ∧ getReg t Reg.HST_PORT_STAT = word lanes) ∧
    (∃ t, exec (.hostPortRetrain lanes) s = .next t ∧ Reports [Reg.HST_PORT_STAT, Reg.HST_IRQ_STAT] s t ∧
      getReg t Reg.HST_PORT_STAT = word (lanes &&& portLanes s))) ∧
  (∀ (s : State) (who : Requester) (sid : BitVec 16), Commands s who 0x06 0 0x0C0 → sid ≠ 0#16 →
    let owner := fld (getReg s Reg.HST_MBX_LOCK) 0 16
    (owner = 0 ∨ owner = sid.toNat → exec (.mbxAcquire who sid) s = .next (setRegFld s Reg.HST_MBX_LOCK 0 16 sid.toNat)) ∧
    (owner ≠ 0 → owner ≠ sid.toNat → ∃ t, exec (.mbxAcquire who sid) s = .next t ∧ RefusedWith s t 0x06 0 stRESOURCE) ∧
    (owner = sid.toNat → exec (.mbxRelease who sid) s = .next (setRegFld s Reg.HST_MBX_LOCK 0 16 0)) ∧
    (owner ≠ sid.toNat → ∃ t, exec (.mbxRelease who sid) s = .next t ∧ RefusedWith s t 0x06 0 stRESOURCE)) ∧
  (∀ (s : State) (who : Requester) (sid bits : BitVec 16), Commands s who 0x06 0 0x0C4 → bits ≠ 0#16 →
    ∃ t, exec (.mbxH2fDoorbell who sid bits) s = .next t ∧ t = { s with regs := t.regs } ∧
      getReg t Reg.HST_MBX_H2F_DB = getReg s Reg.HST_MBX_H2F_DB ||| bits.setWidth 32 ∧
      getReg t Reg.HST_MBX_DB_SRC = toWord (sid.toNat + 2 ^ 16 * (classOf who % 4)) ∧
      ∀ k, k ≠ Reg.HST_MBX_H2F_DB → k ≠ Reg.HST_MBX_DB_SRC → getReg t k = getReg s k) ∧
  (∀ (s : State) (bits : BitVec 16), s.pwr.inReset = false → bits ≠ 0#16 →
    ∃ t, exec (.mbxF2hDoorbell bits) s = .next t ∧ Reports [Reg.HST_MBX_F2H_DB, Reg.HST_IRQ_STAT] s t ∧
      getReg t Reg.HST_MBX_F2H_DB = getReg s Reg.HST_MBX_F2H_DB ||| bits.setWidth 32)

/-- REGISTER_WRITE: each failed check of R68 records its refusal in the page it names and changes nothing else
(03_register_pages_and_host_transport.md R61, 03_register_pages_and_host_transport.md R62,
03_register_pages_and_host_transport.md R64, 03_register_pages_and_host_transport.md R66,
03_register_pages_and_host_transport.md R68). -/
def Obligations.RegisterWritesAreCheckedInOrder : Prop :=
  (∀ (s : State) (who : Requester) (a : BitVec 44) (v : Word), s.pwr.inReset = false →
    (a.toNat < 0x0E000000000 ∨ 0x0E010000000 ≤ a.toNat) →
    ∃ t, exec (.registerWrite who a v) s = .next t ∧ RefusedWith s t 0x06 0 stRANGE) ∧
  (∀ (s : State) (who : Requester) (a : BitVec 44) (v : Word) (ty inst o : Nat), s.pwr.inReset = false →
    a.toNat = 0x0E000000000 + ty * 0x100000 + inst * 0x1000 + o → ty < 256 → inst < 256 → o < 4096 →
    (pageExists ty inst = false → ∃ t, exec (.registerWrite who a v) s = .next t ∧ RefusedWith s t 0x06 0 stRANGE) ∧
    (pageExists ty inst = true → o % 4 ≠ 0 → ∃ t, exec (.registerWrite who a v) s = .next t ∧ RefusedWith s t ty inst stRANGE) ∧
    (pageExists ty inst = true → o % 4 = 0 → mayAccess s (classOf who) ty o true = false →
      ∃ t, exec (.registerWrite who a v) s = .next t ∧ RefusedWith s t ty inst stAUTH) ∧
    (pageExists ty inst = true → o % 4 = 0 → mayAccess s (classOf who) ty o true = true → sealedReg s ty o = true →
      ∃ t, exec (.registerWrite who a v) s = .next t ∧ RefusedWith s t ty inst stSEALED) ∧
    (pageExists ty inst = true → o % 4 = 0 → mayAccess s (classOf who) ty o true = true → sealedReg s ty o = false →
      notReady s ty inst o = true → ∃ t, exec (.registerWrite who a v) s = .next t ∧ RefusedWith s t ty inst stNOTREADY) ∧
    (Reaches s who ty inst o → o % 4 = 0 → 0x040 ≤ o → (regInfo ty o).isSome = true → (ty ≠ 0x02 ∨ o ≠ 0x044) →
      (valueOk ty o v = false → ∃ t, exec (.registerWrite who a v) s = .next t ∧ RefusedWith s t ty inst stRANGE) ∧
      (valueOk ty o v = true → isCommand ty o v = true → enOf s ty inst = false →
        ∃ t, exec (.registerWrite who a v) s = .next t ∧ RefusedWith s t ty inst stSTATE))) ∧
  (∀ (s : State) (who : Requester) (v : Word), Reaches s who 0x01 0 0x04C →
    exec (.registerWrite who 0x0E00010004C#44 v) s = .next (setReg s Reg.SYS_SCRATCH0 v))

/-- HOLD of engines, schedulers, the sequencer and the Blotter, EN of a page, and IRQ_FORCE
(03_register_pages_and_host_transport.md R63, 03_register_pages_and_host_transport.md R64,
03_register_pages_and_host_transport.md R65, 07_reduction_arithmetic.md R212,
09_planning_array_and_accord_synthesis.md, 14_sillage_check_units_scratch_banks.md R416). -/
def Obligations.HoldsEnablesAndForcedInterrupts : Prop :=
  (∀ (s : State) (who : Requester),
    (∀ e : Fin 128, Reaches s who 0x11 e.val 0x008 → ∃ t, exec (.redHold who e) s = .next t ∧ HoldSet s t 0x11 e.val true) ∧
    (∀ e : Fin 64, Reaches s who 0x12 e.val 0x008 → ∃ t, exec (.optHold who e) s = .next t ∧ HoldSet s t 0x12 e.val true) ∧
    (∀ d : Fin 4, Reaches s who 0x47 d.val 0x008 → ∃ t, exec (.plnHold who d) s = .next t ∧ HoldSet s t 0x47 d.val true) ∧
    (∀ (d : Fin 4) (on : Bool), Reaches s who 0x10 d.val 0x008 →
      ∃ t, exec (.schHold who d on) s = .next t ∧ HoldSet s t 0x10 d.val on) ∧
    (∀ (e : Fin 32) (on : Bool), Reaches s who 0x13 e.val 0x008 →
      ∃ t, exec (.copyEngineHold who false e on) s = .next t ∧ HoldSet s t 0x13 e.val on) ∧
    (∀ (e : Fin 32) (on : Bool), Reaches s who 0x16 e.val 0x008 →
      ∃ t, exec (.copyEngineHold who true e on) s = .next t ∧ HoldSet s t 0x16 e.val on) ∧
    (∀ on : Bool, Reaches s who 0x42 0 0x008 → ∃ t, exec (.acdHold who on) s = .next t ∧ HoldSet s t 0x42 0 on) ∧
    (∀ on : Bool, Reaches s who 0x48 0 0x008 → ∃ t, exec (.bltHold who on) s = .next t ∧ HoldSet s t 0x48 0 on)) ∧
  (∀ (s : State) (who : Requester) (ty inst : Byte) (on : Bool), Reaches s who ty.toNat inst.toNat 0x008 →
    (enFixed ty.toNat = true → on = false →
      ∃ t, exec (.pageCtlEnWrite who ty inst on) s = .next t ∧ RefusedWith s t ty.toNat inst.toNat stRANGE) ∧
    (enFixed ty.toNat = false → ty ≠ 0x0A#8 → ty ≠ 0x30#8 → ty ≠ 0x31#8 →
      (capHold ty.toNat = true ∨ holdOf s ty.toNat inst.toNat = false) →
      ∃ t, exec (.pageCtlEnWrite who ty inst on) s = .next t ∧ t = { s with regs := t.regs } ∧
        enOf t ty.toNat inst.toNat = on ∧ holdOf t ty.toNat inst.toNat = holdOf s ty.toNat inst.toNat ∧
        ∀ k, k ≠ pageKey ty.toNat inst.toNat + 0x008 → getReg t k = getReg s k)) ∧
  (∀ (s : State) (who : Requester) (inst : Byte), Reaches s who 0x30 inst.toNat 0x008 → holdOf s 0x30 inst.toNat = false →
    ((linkOf s inst.toNat).st ≠ .disabled → ∃ t, exec (.pageCtlEnWrite who 0x30#8 inst false) s = .next t ∧
      (linkOf t inst.toNat).st = .disabled ∧ enOf t 0x30 inst.toNat = false) ∧
    ((linkOf s inst.toNat).st = .disabled → ∃ t, exec (.pageCtlEnWrite who 0x30#8 inst true) s = .next t ∧
      (linkOf t inst.toNat).st = .backoff ∧ (linkOf t inst.toNat).interval = 1 ∧ enOf t 0x30 inst.toNat = true)) ∧
  (∀ (s : State) (who : Requester) (ty inst : Byte) (bits : Word), Reaches s who ty.toNat inst.toNat 0x018 →
    let key := pageKey ty.toNat inst.toNat + 0x010
    ∃ t, exec (.irqForce who ty inst bits) s = .next t ∧
      (ty ≠ 0x05#8 → ty ≠ 0x0A#8 → Reports [key] s t) ∧
      (∀ b, b < 32 → bits.getLsbD b = true → (irqBits ty.toNat inst.toNat).testBit b = true → (getReg t key).getLsbD b = true) ∧
      (ty ≠ 0x05#8 → ty ≠ 0x0A#8 → ty ≠ 0x06#8 → ty ≠ 0x07#8 →
        getReg t key = getReg s key ||| (bits &&& toWord (irqBits ty.toNat inst.toNat))))

/-- Soft resets of engines, their end, and self-tests (03_register_pages_and_host_transport.md R64,
07_reduction_arithmetic.md R212, 08_optimizer_engines.md R240, 09_planning_array_and_accord_synthesis.md R263). -/
def Obligations.SoftResetsAndSelfTests : Prop :=
  (∀ (s : State) (who : Requester),
    (∀ e : Fin 128, Reaches s who 0x11 e.val 0x008 → pageJob s 0x11 e.val = none →
      ∃ t, exec (.redSoftReset who e) s = .next t ∧ PageReset s t 0x11 e.val (holdOf s 0x11 e.val)) ∧
    (∀ e : Fin 64, Reaches s who 0x12 e.val 0x008 → pageJob s 0x12 e.val = none →
      ∃ t, exec (.optSoftReset who e) s = .next t ∧ PageReset s t 0x12 e.val (holdOf s 0x12 e.val)) ∧
    (∀ d : Fin 4, Reaches s who 0x47 d.val 0x008 → pageJob s 0x47 d.val = none →
      ∃ t, exec (.plnSoftReset who d) s = .next t ∧ PageReset s t 0x47 d.val (holdOf s 0x47 d.val)) ∧
    (∀ (ty inst : Byte) (hold : Bool), ([0x11#8, 0x12#8, 0x13#8, 0x16#8, 0x47#8] : List Byte).contains ty = true →
      Reaches s who ty.toNat inst.toNat 0x008 → pageJob s ty.toNat inst.toNat = none →
      ∃ t, exec (.softReset who ty inst hold) s = .next t ∧
        PageReset s t ty.toNat inst.toNat (hold || holdOf s ty.toNat inst.toNat)) ∧
    (∀ (ty inst : Byte) (hold : Bool), Reaches s who ty.toNat inst.toNat 0x008 → capSrst ty.toNat = false →
      ∃ t, exec (.softReset who ty inst hold) s = .next t ∧ RefusedWith s t ty.toNat inst.toNat stRANGE)) ∧
  (∀ (s : State) (who : Requester) (e : Fin 64) (q : Nat) (d : Desc), Reaches s who 0x12 e.val 0x008 →
    pageJob s 0x12 e.val = some (q, d) → ∃ t, exec (.optSoftReset who e) s = .next t ∧ inSrst t 0x12 e.val = true ∧
      findDesc t q d.idx = none ∧ (queueOf t q).lastErr = toWord (stABORTED + dType d * 2 ^ 16) ∧ optOf t e.val = {}) ∧
  (∀ (s : State) (who : Requester) (d : Fin 4) (q : Nat) (x : Desc), Reaches s who 0x47 d.val 0x008 →
    pageJob s 0x47 d.val = some (q, x) → ∃ t, exec (.plnSoftReset who d) s = .next t ∧ inSrst t 0x47 d.val = true ∧
      findDesc t q x.idx = none ∧ (queueOf t q).lastErr = toWord (stABORTED + dType x * 2 ^ 16)) ∧
  (∀ (s : State) (ty inst : Byte), inSrst s ty.toNat inst.toNat = true →
    let m : State := { s with hst := { s.hst with srst := tset (fun _ => false) s.hst.srst (pageKey ty.toNat inst.toNat) false } }
    (ty = 0x11#8 ∨ ty = 0x12#8 ∨ ty = 0x40#8 ∨ ty = 0x47#8 →
      exec (.softResetDone ty inst) s = .next (setEng m ty.toNat inst.toNat
        { engOf s ty.toNat inst.toNat with testing := true, fromReset := true })) ∧
    (ty = 0x13#8 ∨ ty = 0x16#8 ∨ ty = 0x30#8 ∨ ty = 0x41#8 → exec (.softResetDone ty inst) s = .next m)) ∧
  (∀ (s : State) (ty inst : Byte), inSrst s ty.toNat inst.toNat = false → exec (.softResetDone ty inst) s = .next s) ∧
  (∀ (s : State) (who : Requester),
    (∀ e : Fin 128, Commands s who 0x11 e.val 0x064 →
      (engineState s 0x11 e.val = 0x12 → exec (.redTest who e) s = .next (setEng s 0x11 e.val
        { engOf s 0x11 e.val with testing := true, fromReset := false })) ∧
      (engineState s 0x11 e.val ≠ 0x12 → ∃ t, exec (.redTest who e) s = .next t ∧ RefusedWith s t 0x11 e.val stSTATE)) ∧
    (∀ e : Fin 64, Commands s who 0x12 e.val 0x068 →
      (engineState s 0x12 e.val = 0x12 → exec (.optTest who e) s = .next (setEng s 0x12 e.val
        { engOf s 0x12 e.val with testing := true, fromReset := false })) ∧
      (engineState s 0x12 e.val ≠ 0x12 → ∃ t, exec (.optTest who e) s = .next t ∧ RefusedWith s t 0x12 e.val stSTATE)) ∧
    (∀ d : Fin 4, Commands s who 0x47 d.val 0x078 →
      (engineState s 0x47 d.val = 0x12 → exec (.plnTest who d) s = .next (setEng s 0x47 d.val
        { engOf s 0x47 d.val with testing := true, fromReset := false })) ∧
      (engineState s 0x47 d.val ≠ 0x12 → ∃ t, exec (.plnTest who d) s = .next t ∧ RefusedWith s t 0x47 d.val stSTATE))) ∧
  (∀ (s : State) (k : EngineKind) (n : Nat) (pass : Bool), n < kindCount k → (engOf s (kindPage k) n).testing = true →
    let key := pageKey (kindPage k) n
    let x := engOf s (kindPage k) n
    ∃ t, exec (.selfTestDone k n pass) s = .next t ∧
      Reports [key + 0x010, key + (testStatOf (kindPage k)).getD 0x010] { s with eng := t.eng } t ∧
      engOf t (kindPage k) n = { testing := false, faulty := if pass then x.faulty && !x.fromReset else true, fromReset := false } ∧
      (∀ ty i, 256 * ty + i ≠ 256 * kindPage k + n → engOf t ty i = engOf s ty i) ∧
      (∀ o, testStatOf (kindPage k) = some o → fld (getReg t (key + o)) 0 8 = b2n pass + 2) ∧
      (pass = true → getReg t (key + 0x010) = getReg s (key + 0x010)) ∧
      (pass = false → (getReg t (key + 0x010)).getLsbD 1 = true)) ∧
  (∀ (s : State) (k : EngineKind) (n : Nat) (pass : Bool), (engOf s (kindPage k) n).testing = false →
    exec (.selfTestDone k n pass) s = .next s)

/-- The boot ROM tries the preferred slot, then the other, records both checks, and enters RECOVERY when both fail
(04_boot_identity_protection.md R94, 04_boot_identity_protection.md R96, 04_boot_identity_protection.md R97,
04_boot_identity_protection.md R100). -/
def Obligations.BootTriesTheSlotsInOrder : Prop :=
  (∀ s : State, s.boot.phase = .rom → isOn s dieSTE = true → ∃ t, exec .stage1Start s = .next t ∧ Booted (giveBase s) t) ∧
  (∀ (s : State) (rw : List ByteAt), s.boot.phase = .recovery →
    ∃ t, exec (.recoveryRetry rw) s = .next t ∧
      Booted (giveBase (rw.foldl (fun s x => if x.1 < 0x4000000 then flashWrite s x.1 [x.2] else s) s)) t) ∧
  (∀ s : State, s.boot.phase ≠ .rom ∨ isOn s dieSTE = false → exec .stage1Start s = .next s) ∧
  (∀ (s : State) (rw : List ByteAt), s.boot.phase ≠ .recovery → exec (.recoveryRetry rw) s = .next s)

/-- RIGHTS, KEY_SEL and KEY_LOAD write the set being loaded, SEAL puts it in force in one step
(04_boot_identity_protection.md R98, 04_boot_identity_protection.md R101, 04_boot_identity_protection.md R103,
04_boot_identity_protection.md R107, 04_boot_identity_protection.md R111). -/
def Obligations.SetUpIsLoadedAndSealed : Prop :=
  (∀ (s : State) (who : Requester) (rights : BitVec 10), Commands s who 0x05 0 0x048 →
    let ty := fld (getReg s Reg.PROT_RIGHTS_SEL) 0 8
    ∃ t, exec (.rightsWrite who rights) s = .next t ∧
      t.boot = { s.boot with loading := { s.boot.loading with rights := t.boot.loading.rights } } ∧
      tget (fun _ => 0#10) t.boot.loading.rights ty = rights ∧
      (∀ k, k ≠ ty → tget (fun _ => 0#10) t.boot.loading.rights k = tget (fun _ => 0#10) s.boot.loading.rights k) ∧
      t.otp = s.otp ∧ t.mem = s.mem ∧ t.regs = s.regs) ∧
  (∀ (s : State) (who : Requester) (slot : BitVec 3), Commands s who 0x05 0 0x04C →
    ∃ t, exec (.keySelWrite who slot) s = .next t ∧ t.boot = { s.boot with keyPtr := 0 } ∧
      getReg t Reg.PROT_KEY_SEL = toWord slot.toNat ∧ (∀ k, k ≠ Reg.PROT_KEY_SEL → getReg t k = getReg s k) ∧ t.mem = s.mem) ∧
  (∀ (s : State) (who : Requester) (data : Word), Commands s who 0x05 0 0x054 →
    let slot := fld (getReg s Reg.PROT_KEY_SEL) 0 3
    (s.boot.keyPtr < 25 → ∃ t, exec (.keyLoad who data) s = .next t ∧
      t.boot = { s.boot with loading := { s.boot.loading with keys := t.boot.loading.keys }, keyPtr := s.boot.keyPtr + 1 } ∧
      (setupKey t.boot.loading slot).key.length = 97 ∧
      (∀ j, j < 97 → beAt (setupKey t.boot.loading slot).key j 1 =
        (if 4 * s.boot.keyPtr ≤ j ∧ j < 4 * s.boot.keyPtr + 4 then (data.toNat >>> (8 * (4 * s.boot.keyPtr + 3 - j))) % 256
         else beAt (setupKey s.boot.loading slot).key j 1)) ∧
      (∀ k, k ≠ slot → setupKey t.boot.loading k = setupKey s.boot.loading k) ∧ t.otp = s.otp ∧ t.regs = s.regs) ∧
    (25 ≤ s.boot.keyPtr → ∃ t, exec (.keyLoad who data) s = .next t ∧ RefusedWith s t 0x05 0 stRANGE)) ∧
  (∀ (s : State) (who : Requester), Commands s who 0x05 0 0x040 →
    (s.boot.phase = .stage1 → ∃ t, exec (.seal who) s = .next t ∧ t.boot = { s.boot with
        phase := .firmware, sealOn := true, staged := false, inForce := s.boot.loading, loading := {}, siteNew := none, meas := s.boot.measNew } ∧
      t.hst.ready = true ∧ (∀ i, i < 8 → (sessOf t i).isOpen =
        ((sessOf s i).isOpen && setupKey s.boot.inForce (sessOf s i).keySlot == setupKey s.boot.loading (sessOf s i).keySlot)) ∧
      t.otp = { s.otp with owner0Revoked := s.otp.owner0Revoked || (match s.boot.siteNew with | some r => r.owner == 1 | none => false) } ∧
      getReg t Reg.BOOT_SITE_SEQ = (match s.boot.siteNew with | some r => r.seq | none => 0#32)) ∧
    (s.boot.phase ≠ .stage1 → ∃ t, exec (.seal who) s = .next t ∧ RefusedWith s t 0x05 0 stSTATE)) ∧
  (∀ (s : State) (who : Requester) (rights : BitVec 10) (data : Word), s.pwr.inReset = false → mayAccess s (classOf who) 0x05 0x048 true = true →
    s.boot.sealOn = true → s.boot.staged = false →
    ∃ t u v, exec (.rightsWrite who rights) s = .next t ∧ RefusedWith s t 0x05 0 stSEALED ∧
      exec (.keyLoad who data) s = .next u ∧ RefusedWith s u 0x05 0 stSEALED ∧ exec (.seal who) s = .next v ∧ RefusedWith s v 0x05 0 stSEALED)

/-- RESTART_CMD, MGMT_RESTART and the watchdog ask for a restart, which begins when no flash operation runs
(04_boot_identity_protection.md R109, 04_boot_identity_protection.md R110, 04_boot_identity_protection.md R112). -/
def Obligations.RestartsOfTheManagementDomain : Prop :=
  (∀ (s : State) (who : Requester), Commands s who 0x04 0 0x05C →
    (s.boot.phase = .firmware → exec (.restartCmd who) s = .next { s with boot := { s.boot with restart := true } }) ∧
    (s.boot.phase ≠ .firmware → ∃ t, exec (.restartCmd who) s = .next t ∧ RefusedWith s t 0x04 0 stSTATE)) ∧
  (∀ (s : State) (who : Requester), Commands s who 0x04 0 0x058 → exec (.wdogKick who) s = .next s) ∧
  (∀ s : State, s.boot.phase = .firmware → s.boot.restart = false → ∃ t, exec .watchdogExpiry s = .next t ∧
    Reports [Reg.BOOT_IRQ_STAT] { s with boot := { s.boot with restart := true } } t ∧
    getReg t Reg.BOOT_IRQ_STAT = getReg s Reg.BOOT_IRQ_STAT ||| 4#32) ∧
  (∀ s : State, s.boot.phase ≠ .firmware ∨ s.boot.restart = true → exec .watchdogExpiry s = .next s) ∧
  (∀ s : State, s.boot.restart = true → s.boot.phase = .firmware → s.boot.flashBusy = false → ∃ t, exec .mgmtRestartBegin s = .next t ∧
    Reports [Reg.BOOT_RESTARTS, Reg.BOOT_IRQ_STAT] { s with boot := { s.boot with phase := .rom, restart := false } } t ∧
    getReg t Reg.BOOT_RESTARTS = toWord (min ((getReg s Reg.BOOT_RESTARTS).toNat + 1) 0xFFFF) ∧
    getReg t Reg.BOOT_IRQ_STAT = getReg s Reg.BOOT_IRQ_STAT ||| 2#32) ∧
  (∀ s : State, s.boot.restart = false ∨ s.boot.phase ≠ .firmware ∨ s.boot.flashBusy = true → exec .mgmtRestartBegin s = .next s) ∧
  (∀ s : State, Asks s 0x0408 0 [0] → ∃ t, exec .mgmtRestart s = .next t ∧
    Answered { s with boot := { s.boot with restart := true } } t 0x0408 (mbxPeek s 8 8) [] stOK)

/-- A firmware service answers AUTH to a class it does not allow and RANGE to a length it does not name, and nothing
unasked (04_boot_identity_protection.md R112, 04_boot_identity_protection.md R113,
05_memory_tiers_and_board_address_space.md R138, 06_flow_programs_scheduler_tokens.md R183,
09_planning_array_and_accord_synthesis.md R246). -/
def Obligations.ServicesCheckClassAndLength : Prop :=
  ∀ (c : Instr) (code : Nat) (classes : List Nat) (lenOk : Nat → Bool), serviceOf c = some (code, classes, lenOk) →
    (∀ s : State, s.boot.phase = .firmware → asked s code = true → fld (getReg s Reg.HST_MBX_DB_SRC) 16 2 ∉ classes →
      ∃ t, exec c s = .next t ∧ Answered s t code (mbxPeek s 8 8) [] stAUTH) ∧
    (∀ (s : State) (n : Nat), Asks s code n classes → lenOk n = false →
      ∃ t, exec c s = .next t ∧ Answered s t code (mbxPeek s 8 8) [] stRANGE) ∧
    (∀ s : State, s.boot.phase ≠ .firmware ∨ asked s code = false → exec c s = .next s)

/-- IDENT_GET, ATTEST, IMAGE_WRITE, IMAGE_ACTIVATE, BOOT_CONFIRM, SITE_WRITE and OWNER_ADD
(04_boot_identity_protection.md R92, 04_boot_identity_protection.md R95, 04_boot_identity_protection.md R98,
04_boot_identity_protection.md R107, 04_boot_identity_protection.md R112, 04_boot_identity_protection.md R113). -/
def Obligations.IdentityImageAndOwnerServices : Prop :=
  ∀ s : State, let tag := mbxPeek s 8 8
    (Asks s 0x0401 0 [0, 1, 2, 3] → ∃ t, exec .identGet s = .next t ∧ Answered s t 0x0401 tag (Config.identityCert.take 1024) stOK) ∧
    (Asks s 0x0402 32 [0, 1, 2, 3] → ∃ t k, exec .attest s = .next t ∧ Answered s t 0x0402 tag
      (attestSigned s (mbxPeek s 16 32) ++ beBytes 96 (Config.identitySign (attestSigned s (mbxPeek s 16 32)) k).toNat) stOK) ∧
    (∀ n, Asks s 0x0403 n [0] → 4 ≤ n → n ≤ 32752 →
      let o := leNat (mbxPeek s 16 4)
      (o + (n - 4) ≤ slotSize → ∃ t, exec .imageWrite s = .next t ∧
        Answered (flashWrite s (slotBase (otherSlot s) + o) (mbxPeek s 20 (n - 4))) t 0x0403 tag [] stOK) ∧
      (slotSize < o + (n - 4) → ∃ t, exec .imageWrite s = .next t ∧ Answered s t 0x0403 tag [] stRANGE)) ∧
    (Asks s 0x0404 1 [0] →
      let m := slotResult s (otherSlot s) (slotCheck s (otherSlot s)).1 (slotCheck s (otherSlot s)).2
      (inTrial s = true → ∃ t, exec .imageActivate s = .next t ∧ Answered s t 0x0404 tag [] stSTATE) ∧
      (inTrial s = false → (slotCheck s (otherSlot s)).1 ≠ stOK →
        ∃ t, exec .imageActivate s = .next t ∧ Answered m t 0x0404 tag [] (slotCheck s (otherSlot s)).1) ∧
      (inTrial s = false → (slotCheck s (otherSlot s)).1 = stOK →
        let w := writeHeader m (otherSlot s) 0x0F
        ∃ t, exec .imageActivate s = .next t ∧ Answered { w with boot := { w.boot with
          restart := w.boot.restart || (leNat (mbxPeek s 16 1)).testBit 0 } } t 0x0404 tag [] stOK)) ∧
    (Asks s 0x0405 0 [0] →
      (inTrial s = false → ∃ t, exec .bootConfirm s = .next t ∧ Answered s t 0x0405 tag [] stSTATE) ∧
      (inTrial s = true →
        let m := manifest s s.boot.slot
        let w := andNotReg (writeHeader s s.boot.slot 0xFF) Reg.BOOT_BOOT_STAT 4#32
        ∃ t, exec .bootConfirm s = .next t ∧ Answered { w with otp := { w.otp with
          floor := if (leAt m 7 1).testBit 0 then max s.otp.floor (manifestSvn m) else s.otp.floor } } t 0x0405 tag [] stOK)) ∧
    (Asks s 0x0406 1520 [0] → let b := mbxPeek s 16 1520
      (siteGood s b = false → ∃ t, exec .siteWrite s = .next t ∧ Answered s t 0x0406 tag [] stAUTH) ∧
      (siteGood s b = true → ∃ t, exec .siteWrite s = .next t ∧
        Answered (flashWrite (flashErase s (siteBase (siteTarget s)) 65536) (siteBase (siteTarget s)) b) t 0x0406 tag [] stOK)) ∧
    (Asks s 0x0407 97 [0] →
      (s.otp.owner1.isSome = true → ∃ t, exec .ownerAdd s = .next t ∧ Answered s t 0x0407 tag [] stSTATE) ∧
      (s.otp.owner1 = none → ∃ t, exec .ownerAdd s = .next t ∧
        Answered { s with otp := { s.otp with owner1 := some (Config.sha384 (mbxPeek s 16 97)) } } t 0x0407 tag [] stOK))

/-- DDR5 channels train one after another, the set is chosen after the last, a channel of the set can fail, and
scrub visits record what they find (05_memory_tiers_and_board_address_space.md R123,
05_memory_tiers_and_board_address_space.md R124, 05_memory_tiers_and_board_address_space.md R125,
05_memory_tiers_and_board_address_space.md R126, 05_memory_tiers_and_board_address_space.md R128,
05_memory_tiers_and_board_address_space.md R129, 05_memory_tiers_and_board_address_space.md R130,
05_memory_tiers_and_board_address_space.md R131). -/
def Obligations.DdrTrainingFailureAndScrubbing : Prop :=
  (∀ s : State, chanTurn s = true → (chanOf s s.mem.nextChan).dimms = [] → s.mem.nextChan < 15 →
    exec (.ddr5ChannelTrain []) s = .next { s with mem := { s.mem with nextChan := s.mem.nextChan + 1 } }) ∧
  (∀ (s : State) (dimms : List Dimm), chanTurn s = true → (chanOf s s.mem.nextChan).dimms = [] → dimms ≠ [] →
    unitSt s (dieDMC + s.mem.nextChan / 8) = .on →
    ((∀ d ∈ dimms, d.supported = true) → ∃ t, exec (.ddr5ChannelTrain dimms) s = .next t ∧
      t = { s with mem := { s.mem with chans := t.mem.chans } } ∧ chanOf t s.mem.nextChan = { dimms := dimms, train := 0 } ∧
      ∀ c, c ≠ s.mem.nextChan → chanOf t c = chanOf s c) ∧
    ((∃ d ∈ dimms, d.supported = false) → s.mem.nextChan < 15 → ∃ t, exec (.ddr5ChannelTrain dimms) s = .next t ∧
      t = { s with mem := { s.mem with chans := t.mem.chans, nextChan := s.mem.nextChan + 1 } } ∧
      chanOf t s.mem.nextChan = { dimms := dimms, train := 3 } ∧ ∀ c, c ≠ s.mem.nextChan → chanOf t c = chanOf s c)) ∧
  (∀ (s : State) (good : Bool), chanTurn s = true → (chanOf s s.mem.nextChan).dimms ≠ [] → s.mem.nextChan < 15 →
    ∃ t, exec (.ddr5TrainingEnd good) s = .next t ∧
      Reports [] { s with mem := { s.mem with chans := t.mem.chans, nextChan := s.mem.nextChan + 1 } } t ∧
      chanOf t s.mem.nextChan = { chanOf s s.mem.nextChan with train := if good then 1 else 2 } ∧
      ∀ c, c ≠ s.mem.nextChan → chanOf t c = chanOf s c) ∧
  (∀ (s : State) (good : Bool), chanTurn s = true → (chanOf s 15).dimms ≠ [] → s.mem.nextChan = 15 →
    let m := setChan s 15 { chanOf s 15 with train := if good then 1 else 2 }
    let chosen := if (setChannels 3).all (chanGood m) then 3 else if (setChannels 1).all (chanGood m) then 1
      else if (setChannels 2).all (chanGood m) then 2 else 0
    ∃ t, exec (.ddr5TrainingEnd good) s = .next t ∧ t.mem = { m.mem with
        nextChan := 16
        ddrChosen := true
        ddrSet := chosen
        ddrGib := (setChannels chosen).length * (match ddrReference m with | some r => (r.dimms.map Dimm.gib).sum | none => 0)
        ddrMts := if chosen = 0 then 0 else ddrRate m } ∧
      (∀ i, i < 2 → (getReg t (Reg.DMC_IRQ_STAT + i * 0x1000)).getLsbD 3 = true) ∧
      (chosen = 0 → ∀ i, i < 2 → fld (getReg t (Reg.DMC_IRQ_STAT + i * 0x1000 + 0x00C)) 16 16 = stCAPACITY)) ∧
  (∀ s : State, chanTurn s = false → exec (.ddr5ChannelTrain []) s = .next s ∧ exec (.ddr5TrainingEnd true) s = .next s) ∧
  (∀ (s : State) (c : Fin 16), s.mem.ddrChosen = true → c.val ∈ setChannels s.mem.ddrSet → (chanOf s c.val).train ≠ 4 →
    ∃ t, exec (.ddr5ChannelFail c) s = .next t ∧ (chanOf t c.val).train = 4 ∧ (∀ k, k ≠ c.val → chanOf t k = chanOf s k) ∧
      Reports [Reg.DMC_IRQ_STAT + c.val / 8 * 0x1000] { s with mem := { s.mem with chans := t.mem.chans } } t ∧
      getReg t (Reg.DMC_IRQ_STAT + c.val / 8 * 0x1000) = getReg s (Reg.DMC_IRQ_STAT + c.val / 8 * 0x1000) ||| 16#32) ∧
  (∀ (s : State) (tier : ScrubTier) (g : Nat), let p := scrubPage tier
    let key := pageKey p.1 p.2.1
    pageUnit s p.1 p.2.1 = .on → enOf s p.1 p.2.1 = true → scrubIn s tier g = true →
    (exec (.scrubVisit tier g .clean false false) s = .next s) ∧
    (∃ t, exec (.scrubVisit tier g .corrected false false) s = .next t ∧
      Reports [key + 0x010, key + (eccRegs p.1).1] s t ∧
      getReg t (key + (eccRegs p.1).1) = satAdd (getReg s (key + (eccRegs p.1).1)) 1 ∧ (getReg t (key + 0x010)).getLsbD 0 = true) ∧
    (poisoned s (scrubAddr tier g) = true → exec (.scrubVisit tier g .uncorrectable false false) s = .next s) ∧
    (poisoned s (scrubAddr tier g) = false → ∃ t, exec (.scrubVisit tier g .uncorrectable false false) s = .next t ∧
      poisoned t (scrubAddr tier g) = true ∧ (∀ a, a / 64 ≠ scrubAddr tier g / 64 → poisoned t a = poisoned s a) ∧
      getReg t (key + (eccRegs p.1).2.1) = satAdd (getReg s (key + (eccRegs p.1).2.1)) 1 ∧
      (getReg t (key + 0x010)).getLsbD 1 = true ∧ t.mem = { s.mem with poison := t.mem.poison } ∧
      ∀ a, readByte t a = readByte s a) ∧
    (∀ late, ∃ t, exec (.scrubVisit tier g .clean true late) s = .next t ∧
      Reports [key + 0x010, key + p.2.2] s t ∧ (getReg t (key + 0x010)).getLsbD 2 = true ∧
      getReg t (key + p.2.2) = toWord ((fld (getReg s (key + p.2.2)) 0 16 + 1) % 65536 + 65536 * b2n late)))

/-- JOB_ADMIT waits for the channel set, pins and zeroing; JOB_RELEASE frees a domain; MEM_QUERY counts; released
ranges are zeroed (05_memory_tiers_and_board_address_space.md R138, 05_memory_tiers_and_board_address_space.md
R139, 05_memory_tiers_and_board_address_space.md R140, 05_memory_tiers_and_board_address_space.md R141,
05_memory_tiers_and_board_address_space.md R142, 05_memory_tiers_and_board_address_space.md R144). -/
def Obligations.JobsAreAdmittedPlacedAndReleased : Prop :=
  (∀ (s : State) (n : Nat), Asks s 0x0501 n [0, 1] → 8 ≤ n → n ≤ 4104 →
    let b := mbxPeek s 16 n
    let tag := mbxPeek s 8 8
    let r := admitCheck s b
    let a : Admit := { domain := admitDomain b, tag := tag, body := b, regions := none }
    (s.mem.ddrChosen = false → ∃ t, exec .jobAdmit s = .next t ∧ t.mem.admits = s.mem.admits ++ [a] ∧
      t.mem.domains = s.mem.domains ∧ (getReg t Reg.HST_MBX_H2F_DB).getLsbD 0 = false ∧
      getReg t Reg.HST_MBX_F2H_DB = getReg s Reg.HST_MBX_F2H_DB) ∧
    (s.mem.ddrChosen = true → r.1 ≠ stOK → ∃ t, exec .jobAdmit s = .next t ∧ Answered s t 0x0501 tag [] r.1) ∧
    (s.mem.ddrChosen = true → r.1 = stOK → (∀ d ∈ pinDies r.2, unitSt s d = .on) → stillZeroing s r.2 = false →
      ∃ t, exec .jobAdmit s = .next t ∧ Answered (r.2.foldl (writePin (admitDomain b)) (setDomain s (admitDomain b) (some r.2))) t
        0x0501 tag (admitReply (admitDomain b) r.2) stOK) ∧
    (s.mem.ddrChosen = true → r.1 = stOK → (∀ d ∈ pinDies r.2, unitSt s d ≠ .failed) →
      (∃ d ∈ pinDies r.2, unitSt s d ≠ .on) ∨ stillZeroing s r.2 = true → ∃ t, exec .jobAdmit s = .next t ∧
      domainOf t (admitDomain b) = some r.2 ∧ t.mem.admits = s.mem.admits ++ [{ a with regions := some r.2 }] ∧
      getReg t Reg.HST_MBX_F2H_DB = getReg s Reg.HST_MBX_F2H_DB)) ∧
  (∀ (s : State) (a : Admit) (l : List Region), s.boot.phase = .firmware → s.mem.admits = [a] → a.regions = some l → a.tag.length = 8 →
    ((∀ d ∈ pinDies l, unitSt s d = .on) → stillZeroing s l = false → ∃ t, exec .jobAdmitResume s = .next t ∧
      MailReply (l.foldl (writePin a.domain) { s with mem := { s.mem with admits := [] } }) t 0x0501 a.tag (admitReply a.domain l) stOK) ∧
    ((∀ d ∈ pinDies l, unitSt s d ≠ .failed) → (∃ d ∈ pinDies l, unitSt s d ≠ .on) → exec .jobAdmitResume s = .next s)) ∧
  (∀ s : State, s.boot.phase ≠ .firmware → exec .jobAdmitResume s = .next s) ∧
  (∀ s : State, s.mem.ddrChosen = false → (∀ a ∈ s.mem.admits, a.regions = none) → exec .jobAdmitResume s = .next s) ∧
  (∀ s : State, Asks s 0x0502 4 [0, 1] →
    let tag := mbxPeek s 8 8
    let dom := leNat (mbxPeek s 16 2)
    (4096 ≤ dom ∨ leNat (mbxPeek s 18 2) ≠ 0 → ∃ t, exec .jobRelease s = .next t ∧ Answered s t 0x0502 tag [] stRANGE) ∧
    (dom < 4096 → leNat (mbxPeek s 18 2) = 0 → admitted s dom = none →
      ∃ t, exec .jobRelease s = .next t ∧ Answered s t 0x0502 tag [] stSTATE) ∧
    (dom < 4096 → leNat (mbxPeek s 18 2) = 0 → domainBusy s dom = true →
      ∃ t, exec .jobRelease s = .next t ∧ Answered s t 0x0502 tag [] stSTATE) ∧
    (∀ l, dom < 4096 → leNat (mbxPeek s 18 2) = 0 → admitted s dom = some l → domainBusy s dom = false →
      ∃ t, exec .jobRelease s = .next t ∧ domainOf t dom = none ∧ (∀ k, k ≠ dom → domainOf t k = domainOf s k) ∧
        t.mem.zeroing = s.mem.zeroing ++ l.map (fun r => (r.base, r.size)) ∧
        (∀ d i, (pinOf t d i).valid = true → (pinOf t d i).domain.toNat ≠ dom) ∧
        (∀ q, (queueOf s q).domain.toNat = dom → (queueOf s q).state ≠ .failed → (queueOf t q).state = .unbound) ∧
        (∀ q, queueOf t q = queueOf s q ∨ queueOf t q = { queueOf s q with state := .unbound }) ∧
        (∀ k, (tokOf s k).bound = some (BitVec.ofNat 12 dom) → tokOf t k = {}) ∧
        scratchByte t 0xFF8002 = 0#8 ∧ scratchByte t 0xFF8003 = 0#8 ∧ (getReg t Reg.HST_MBX_F2H_DB).getLsbD 0 = true)) ∧
  (∀ s : State, Asks s 0x0503 0 [0, 1, 2, 3] →
    let stack (k : Nat) : Nat := if unitSt s (k / 2) = .failed then 0 else freeIn s (k * stackSize) ((k + 1) * stackSize)
    let staging (d : Nat) : Nat := if unitSt s d = .failed then 0
      else freeIn s (stagingBase + d * 0x10000000) (stagingBase + (d + 1) * 0x10000000)
    ∃ t, exec .memQuery s = .next t ∧ Answered s t 0x0503 (mbxPeek s 8 8)
      (([0, 1, 2, 3, 4, 5, 6, 7] : List Nat).flatMap (fun k => leBytes 8 (stack k)) ++
        ([0, 1, 2, 3] : List Nat).flatMap (fun d => leBytes 8 (staging d)) ++
        leBytes 8 (freeIn s ddrBase (ddrBase + s.mem.ddrGib * 2 ^ 30)) ++ leBytes 8 (s.mem.zeroing.map Prod.snd).sum) stOK) ∧
  (∀ s : State, s.mem.zeroing = [] → exec .rangeZeroingDone s = .next s) ∧
  (∀ (s : State) (lo n : Nat) (rest : List (Nat × Nat)), s.mem.zeroing = (lo, n) :: rest →
    ∃ t, exec .rangeZeroingDone s = .next t ∧ t = { s with mem := { s.mem with
        zeroing := rest, cells := t.mem.cells, poison := t.mem.poison, unfresh := t.mem.unfresh } } ∧
      (∀ a, lo ≤ a → a < lo + n → readByte t a = 0#8) ∧ (∀ a, a < lo ∨ lo + n ≤ a → readByte t a = readByte s a) ∧
      (∀ a, lo / 64 ≤ a / 64 → a / 64 < (lo + n) / 64 → poisoned t a = false ∧ isFresh t a = true) ∧
      (∀ a, a / 64 < lo / 64 ∨ (lo + n) / 64 ≤ a / 64 → poisoned t a = poisoned s a ∧ isFresh t a = isFresh s a))

/-- QUEUE_BIND, QUEUE_UNBIND, TOKEN_BIND, TOKEN_UNBIND and FLOW_LOAD: the checks in their order and the effect on OK
(06_flow_programs_scheduler_tokens.md R183, 06_flow_programs_scheduler_tokens.md R184,
06_flow_programs_scheduler_tokens.md R147, 05_memory_tiers_and_board_address_space.md R117). -/
def Obligations.QueuesAndTokensAreBoundAndProgramsLoaded : Prop :=
  (∀ s : State, Asks s 0x0601 32 [0, 1] →
    let b := mbxPeek s 16 32
    let dom := leAt b 0 2
    let q := leAt b 2 1
    let size := leAt b 4 4
    let ring := leAt b 8 8
    let cq := leAt b 16 8
    let bad : Prop := 4096 ≤ dom ∨ 64 ≤ q ∨ 4 ≤ leAt b 3 1 ∨ size = 0 ∨ 65536 < size ∨ ringPlaceOk (q / 16) ring = false ∨
      ringPlaceOk (q / 16) cq = false ∨ leAt b 26 6 ≠ 0
    let bound : Prop := (queueOf s q).state ≠ .unbound ∧ (queueOf s q).state ≠ .failed
    let answers (st : Nat) : Prop := ∃ t, exec .queueBind s = .next t ∧ Answered s t 0x0601 (mbxPeek s 8 8) [] st
    (bad → answers stRANGE) ∧ (¬ bad → admitted s dom = none → answers stSTATE) ∧
    (¬ bad → admitted s dom ≠ none → bound → answers stRESOURCE) ∧
    (¬ bad → admitted s dom ≠ none → ¬ bound → unitSt s (q / 16) = .failed → answers stNOTREADY) ∧
    (¬ bad → admitted s dom ≠ none → ¬ bound → unitSt s (q / 16) ≠ .failed →
      (inRegion s dom ring (64 * size) = false ∨ inRegion s dom cq (32 * size) = false) → answers stAUTH) ∧
    (¬ bad → admitted s dom ≠ none → ¬ bound → unitSt s (q / 16) ≠ .failed →
      inRegion s dom ring (64 * size) = true → inRegion s dom cq (32 * size) = true →
      ∃ t, exec .queueBind s = .next t ∧ Answered (setQueue s q { queueOf s q with
        state := .idle
        domain := BitVec.ofNat 12 dom
        ring := ring
        cq := cq
        size := size
        head := 0#32
        tail := 0#32
        prio := (leAt b 3 1).testBit 0
        errStop := (leAt b 3 1).testBit 1
        waitLimit := BitVec.ofNat 16 (leAt b 24 2)
        wokeLeft := 0
        descs := [] }) t 0x0601 (mbxPeek s 8 8) [] stOK)) ∧
  (∀ s : State, Asks s 0x0602 4 [0, 1] →
    let b := mbxPeek s 16 4
    let q := leAt b 0 1
    let answers (st : Nat) : Prop := ∃ t, exec .queueUnbind s = .next t ∧ Answered s t 0x0602 (mbxPeek s 8 8) [] st
    (64 ≤ q ∨ leAt b 1 3 ≠ 0 → answers stRANGE) ∧
    (q < 64 → leAt b 1 3 = 0 → unitSt s (q / 16) = .failed → answers stNOTREADY) ∧
    (q < 64 → leAt b 1 3 = 0 → unitSt s (q / 16) ≠ .failed → unbindable (queueOf s q) = false → answers stSTATE) ∧
    (q < 64 → leAt b 1 3 = 0 → unitSt s (q / 16) ≠ .failed → unbindable (queueOf s q) = true →
      ∃ t, exec .queueUnbind s = .next t ∧ Answered (setQueue s q { queueOf s q with state := .unbound, descs := [] }) t
        0x0602 (mbxPeek s 8 8) [] stOK)) ∧
  (∀ s : State, Asks s 0x0603 8 [0, 1] →
    let b := mbxPeek s 16 8
    let dom := leAt b 0 2
    let answers (st : Nat) : Prop := ∃ t, exec .tokenBind s = .next t ∧ Answered s t 0x0603 (mbxPeek s 8 8) [] st
    (4096 ≤ dom ∨ tokRangeOk b = false → answers stRANGE) ∧
    (dom < 4096 → tokRangeOk b = true → admitted s dom = none → answers stSTATE) ∧
    (dom < 4096 → tokRangeOk b = true → admitted s dom ≠ none → (∃ k ∈ tokRange b, (tokOf s k).bound ≠ none) → answers stRESOURCE) ∧
    (dom < 4096 → tokRangeOk b = true → admitted s dom ≠ none → (∀ k ∈ tokRange b, (tokOf s k).bound = none) →
      (∃ k ∈ tokRange b, unitSt s (k / 1024) = .failed) → answers stNOTREADY) ∧
    (dom < 4096 → tokRangeOk b = true → admitted s dom ≠ none → (∀ k ∈ tokRange b, (tokOf s k).bound = none) →
      (∀ k ∈ tokRange b, unitSt s (k / 1024) ≠ .failed) → ∃ t, exec .tokenBind s = .next t ∧
      (∀ k ∈ tokRange b, tokOf t k = { tokOf s k with bound := some (BitVec.ofNat 12 dom) }) ∧
      (∀ k, k ∉ tokRange b → tokOf t k = tokOf s k) ∧
      Answered { s with flow := { s.flow with tokens := t.flow.tokens } } t 0x0603 (mbxPeek s 8 8) [] stOK)) ∧
  (∀ s : State, Asks s 0x0604 8 [0, 1] →
    let b := mbxPeek s 16 8
    let answers (st : Nat) : Prop := ∃ t, exec .tokenUnbind s = .next t ∧ Answered s t 0x0604 (mbxPeek s 8 8) [] st
    (leAt b 0 2 ≠ 0 ∨ tokRangeOk b = false → answers stRANGE) ∧
    (leAt b 0 2 = 0 → tokRangeOk b = true → (∃ k ∈ tokRange b, unitSt s (k / 1024) = .failed) → answers stNOTREADY) ∧
    (leAt b 0 2 = 0 → tokRangeOk b = true → (∀ k ∈ tokRange b, unitSt s (k / 1024) ≠ .failed) →
      (∃ k ∈ tokRange b, waiters s k ≠ []) → answers stSTATE) ∧
    (leAt b 0 2 = 0 → tokRangeOk b = true → (∀ k ∈ tokRange b, unitSt s (k / 1024) ≠ .failed ∧ waiters s k = []) →
      ∃ t, exec .tokenUnbind s = .next t ∧ (∀ k ∈ tokRange b, tokOf t k = {}) ∧ (∀ k, k ∉ tokRange b → tokOf t k = tokOf s k) ∧
      Answered { s with flow := { s.flow with tokens := t.flow.tokens } } t 0x0604 (mbxPeek s 8 8) [] stOK)) ∧
  (∀ (s : State) (n : Nat), Asks s 0x0605 n [0, 1] → 12 ≤ n → n ≤ 32716 → n % 64 = 12 →
    let dom := leNat (mbxPeek s 16 2)
    let a := leNat (mbxPeek s 20 8)
    (inRegion s dom a 1 = true → loadSleepers s a ≠ [] →
      ∃ t, exec .flowLoad s = .next t ∧ t = { s with pwr := t.pwr }) ∧
    (loadSleepers s a = [] → dom < 4096 → leNat (mbxPeek s 18 2) = 0 → a < 2 ^ 44 → admitted s dom ≠ none →
      (inRegion s dom a (n - 12) = false → ∃ t, exec .flowLoad s = .next t ∧ Answered s t 0x0605 (mbxPeek s 8 8) [] stAUTH) ∧
      (inRegion s dom a (n - 12) = true → (∀ i, i < n - 12 → unitStatus s (a + i) = stOK ∧ chanLost s (a + i) = false ∧ poisoned s (a + i) = false) →
        ∃ t, exec .flowLoad s = .next t ∧ (∀ i b, (mbxPeek s 28 (n - 12))[i]? = some b → readByte t (a + i) = b) ∧
          (∀ x, x < a ∨ a + (n - 12) ≤ x → readByte t x = readByte s x) ∧ t.flow = s.flow ∧
          scratchByte t 0xFF8002 = 0#8 ∧ scratchByte t 0xFF8003 = 0#8 ∧ (getReg t Reg.HST_MBX_F2H_DB).getLsbD 0 = true)))

/-- TAIL and DB_ADD, STOP, RESUME and FLUSH of a queue, and writes to tokens (06_flow_programs_scheduler_tokens.md
R146, 06_flow_programs_scheduler_tokens.md R147, 06_flow_programs_scheduler_tokens.md R155,
06_flow_programs_scheduler_tokens.md R185). -/
def Obligations.QueueAndTokenRegisterWrites : Prop :=
  (∀ (s : State) (who : Requester) (q : Fin 64) (tail : Word), Commands s who 0x10 (q.val / 16) (0x418 + 0x40 * (q.val % 16)) →
    let x := queueOf s q.val
    (x.state = .unbound ∨ x.state = .failed → ∃ t, exec (.tailWrite who q tail) s = .next t ∧ RefusedWith s t 0x10 (q.val / 16) stSTATE) ∧
    (x.state ≠ .unbound → x.state ≠ .failed → x.size < (tail - x.head).toNat →
      ∃ t, exec (.tailWrite who q tail) s = .next t ∧ RefusedWith s t 0x10 (q.val / 16) stRANGE) ∧
    (x.state ≠ .unbound → x.state ≠ .failed → (tail - x.head).toNat ≤ x.size →
      ∃ t, exec (.tailWrite who q tail) s = .next t ∧ TailMoved s t q.val tail)) ∧
  (∀ (s : State) (who : Requester) (q : Fin 64) (add : BitVec 24), Commands s who 0x10 (q.val / 16) 0x048 →
    let x := queueOf s q.val
    let tail := x.tail + add.setWidth 32
    (x.state = .unbound ∨ x.state = .failed → ∃ t, exec (.dbAdd who q add) s = .next t ∧ RefusedWith s t 0x10 (q.val / 16) stSTATE) ∧
    (x.state ≠ .unbound → x.state ≠ .failed → x.size < (tail - x.head).toNat →
      ∃ t, exec (.dbAdd who q add) s = .next t ∧ RefusedWith s t 0x10 (q.val / 16) stRANGE) ∧
    (x.state ≠ .unbound → x.state ≠ .failed → (tail - x.head).toNat ≤ x.size →
      ∃ t, exec (.dbAdd who q add) s = .next t ∧ TailMoved s t q.val tail)) ∧
  (∀ (s : State) (who : Requester) (q : Fin 64), Commands s who 0x10 (q.val / 16) (0x424 + 0x40 * (q.val % 16)) →
    let x := queueOf s q.val
    (x.state = .idle ∨ x.state = .running → exec (.queueStop who q) s = .next (setQueue s q.val { x with state := .stopped })) ∧
    (x.state ≠ .idle → x.state ≠ .running → ∃ t, exec (.queueStop who q) s = .next t ∧ RefusedWith s t 0x10 (q.val / 16) stSTATE) ∧
    (x.state = .halted ∨ x.state = .stopped → ∃ t, exec (.queueResume who q) s = .next t ∧
      t = { s with flow := { s.flow with queues := t.flow.queues } } ∧ (∀ p, p ≠ q.val → queueOf t p = queueOf s p) ∧
      queueOf t q.val = { x with state := if x.head = x.tail ∧ x.descs = [] then .idle else .running }) ∧
    (x.state ≠ .halted → x.state ≠ .stopped → ∃ t, exec (.queueResume who q) s = .next t ∧ RefusedWith s t 0x10 (q.val / 16) stSTATE) ∧
    (x.state = .halted ∨ x.state = .stopped → ∃ t, exec (.queueFlush who q) s = .next t ∧
      (∀ d ∈ (queueOf t q.val).descs, d.stage = .released) ∧ (queueOf t q.val).head = x.tail ∧ (queueOf t q.val).tail = x.tail ∧
      (queueOf t q.val).state = x.state ∧ ∀ p, p ≠ q.val → queueOf t p = queueOf s p) ∧
    (x.state ≠ .halted → x.state ≠ .stopped → ∃ t, exec (.queueFlush who q) s = .next t ∧ RefusedWith s t 0x10 (q.val / 16) stSTATE)) ∧
  (∀ (s : State) (who : Requester) (d : Fin 4) (k : BitVec 12) (inc : BitVec 20), Commands s who 0x10 d.val 0x040 →
    let x := tokOf s k.toNat
    let key := Reg.SCH_IRQ_STAT + d.val * 0x1000
    (k.toNat / 1024 = d.val → ∃ t, exec (.tokSignal who d k inc) s = .next t ∧
      tokOf t k.toNat = { x with value := if 0xFFFFFFFF < x.value.toNat + inc.toNat then 0xFFFFFFFF#32 else x.value + inc.setWidth 32 } ∧
      (∀ j, j ≠ k.toNat → tokOf t j = tokOf s j) ∧
      Reports [key] { s with flow := { s.flow with tokens := t.flow.tokens }, pwr := t.pwr } t ∧
      (unitSt s d.val = .on → t.pwr = s.pwr) ∧
      getReg t key = (if 0xFFFFFFFF < x.value.toNat + inc.toNat then getReg s key ||| 4#32 else getReg s key)) ∧
    (k.toNat / 1024 ≠ d.val → ∃ t, exec (.tokSignal who d k inc) s = .next t ∧ RefusedWith s t 0x10 d.val stRANGE)) ∧
  (∀ (s : State) (who : Requester) (d : Fin 4) (k : BitVec 12) (v : BitVec 20), Commands s who 0x10 d.val 0x044 →
    (k.toNat / 1024 = d.val → ∃ t, exec (.tokSet who d k v) s = .next t ∧
      tokOf t k.toNat = { tokOf s k.toNat with value := v.setWidth 32, poison := false, src := 0#16 } ∧
      (∀ j, j ≠ k.toNat → tokOf t j = tokOf s j) ∧ t = { s with flow := { s.flow with tokens := t.flow.tokens }, pwr := t.pwr } ∧
      (unitSt s d.val = .on → t.pwr = s.pwr)) ∧
    (k.toNat / 1024 ≠ d.val → ∃ t, exec (.tokSet who d k v) s = .next t ∧ RefusedWith s t 0x10 d.val stRANGE)) ∧
  (∀ (s : State) (who : Requester) (d : Fin 4) (v : Word), Commands s who 0x10 d.val 0x050 →
    let k := 1024 * d.val + fld (getReg s (Reg.SCH_TOK_SEL + d.val * 0x1000)) 0 10
    ∃ t, exec (.tokValWrite who d v) s = .next t ∧ tokOf t k = { tokOf s k with value := v, poison := false, src := 0#16 } ∧
      (∀ j, j ≠ k → tokOf t j = tokOf s j) ∧ t = { s with flow := { s.flow with tokens := t.flow.tokens }, pwr := t.pwr } ∧
      (unitSt s d.val = .on → t.pwr = s.pwr))

/-- Fetch with its checks, release in order with its waits, and the wait limits
(06_flow_programs_scheduler_tokens.md R152, 06_flow_programs_scheduler_tokens.md R153,
06_flow_programs_scheduler_tokens.md R160, 06_flow_programs_scheduler_tokens.md R161,
06_flow_programs_scheduler_tokens.md R163, 06_flow_programs_scheduler_tokens.md R164,
06_flow_programs_scheduler_tokens.md R169, 06_flow_programs_scheduler_tokens.md R170,
06_flow_programs_scheduler_tokens.md R431). -/
def Obligations.DescriptorsAreFetchedCheckedAndReleased : Prop :=
  (∀ (s : State) (q : Fin 64) (ecc : List EccHit), (queueOf s q.val).state = .running → (queueOf s q.val).head ≠ (queueOf s q.val).tail →
    unitSt s (q.val / 16) = .on →
    let x := queueOf s q.val
    let r := readMem s ecc (x.ring + 64 * (x.head.toNat % max x.size 1)) 64
    let d : Desc := { raw := r.2.1, idx := x.head, woke := decide (0 < x.wokeLeft) }
    (r.1 = stOK → dType d ≠ tyATOMIZE → dType d ≠ tyOPTIM → dType d ≠ tyPLAN →
      (fetchChecks s q.val d = (stOK, 0) → ∃ t, exec (.descriptorFetch q ecc) s = .next t ∧ findDesc t q.val x.head = some d ∧
        (queueOf t q.val).head = x.head + 1#32 ∧ (queueOf t q.val).tail = x.tail ∧ (queueOf t q.val).state = .running ∧
        (∀ p, p ≠ q.val → queueOf t p = queueOf s p) ∧ t.flow.tokens = s.flow.tokens ∧ ∀ a, readByte t a = readByte s a) ∧
      ((fetchChecks s q.val d).1 ≠ stOK → ∃ t, exec (.descriptorFetch q ecc) s = .next t ∧ findDesc t q.val x.head = none ∧
        (queueOf t q.val).head = x.head + 1#32 ∧ (queueOf t q.val).done = x.done + 1#32 ∧
        (queueOf t q.val).lastErr = toWord ((fetchChecks s q.val d).1 + dType d * 2 ^ 16 + (fetchChecks s q.val d).2 * 2 ^ 24) ∧
        (x.errStop = true → (queueOf t q.val).state = .halted) ∧ ∀ p, p ≠ q.val → queueOf t p = queueOf s p)) ∧
    (r.1 ≠ stOK → ∃ t, exec (.descriptorFetch q ecc) s = .next t ∧ findDesc t q.val x.head = none ∧
      (queueOf t q.val).head = x.head + 1#32 ∧ (queueOf t q.val).lastErr = toWord r.1 ∧ (queueOf t q.val).lastIdx = x.head ∧
      (queueOf t q.val).lastTag = 0#32 ∧ (queueOf t q.val).state = .halted ∧ t.flow.tokens = s.flow.tokens)) ∧
  (∀ (s : State) (q : Fin 64) (ecc : List EccHit), (queueOf s q.val).state ≠ .running ∨ (queueOf s q.val).head = (queueOf s q.val).tail ∨
    unitSt s (q.val / 16) ≠ .on → exec (.descriptorFetch q ecc) s = .next s) ∧
  (∀ (s : State) (q : Fin 64) (d : Desc), (queueOf s q.val).state = .running → unitSt s (q.val / 16) = .on →
    holdOf s 0x10 (q.val / 16) = false → oldestWaiting s q.val = some d → sigRemote s d = false →
    (dWaits d = true → dAlt d = false → (tokOf s (dWaitTok d)).poison = true →
      ∃ t, exec (.descriptorRelease q) s = .next t ∧ Completed s t q.val d stABORTED 0) ∧
    (dWaits d = true → dAlt d = true → (tokOf s (dWaitTok d)).poison = false → dThr d ≤ (tokOf s (dWaitTok d)).value.toNat →
      ∃ t, exec (.descriptorRelease q) s = .next t ∧ findDesc t q.val d.idx = none ∧ t.flow.tokens = s.flow.tokens ∧
        (queueOf t q.val).lastErr = toWord (stABORTED + dType d * 2 ^ 16)) ∧
    (∀ e, (dWaits d = true → dAlt d = (tokOf s (dWaitTok d)).poison) → releasable s q.val = some (d, e) → outranked s q.val d = false →
      (dType d ≠ tyRECV → dType d ≠ tyREDUCE → dType d ≠ tyOPTIM → dType d ≠ tyPLAN → dType d ≠ tyFENCE → dType d ≠ tyACCORD →
        ∃ t, exec (.descriptorRelease q) s = .next t ∧ findDesc t q.val d.idx = some { d with
            stage := .released
            engine := if (enginePage (dType d)).isSome then some e else none
            start := s.ns.setWidth 32
            waitPois := dWaits d && dAlt d } ∧
          t = { s with flow := { s.flow with queues := t.flow.queues }, pwr := { s.pwr with engOn := t.pwr.engOn } } ∧
          ∀ p, p ≠ q.val → queueOf t p = queueOf s p) ∧
      (dType d = tyRECV → (∀ w ∈ s.flow.windows, w.domain.toNat = dDomain d → w.stream = recvStream d →
          Apart w.base w.len (recvBase d) (recvLen d)) → ∃ t, exec (.descriptorRelease q) s = .next t ∧
        ∃ w : Window, t.flow.windows = s.flow.windows ++ [w] ∧ w.queue = q.val ∧ w.idx = d.idx ∧ w.domain = BitVec.ofNat 12 (dDomain d) ∧
          w.port = recvPort d ∧ w.stream = recvStream d ∧ w.format = recvFormat d ∧ w.dst = recvDst d ∧ w.base = recvBase d ∧
          w.len = recvLen d ∧ w.placed = []) ∧
      (dType d = tyRECV → 0 < recvLen d → (∃ w ∈ s.flow.windows, w.domain.toNat = dDomain d ∧ w.stream = recvStream d ∧
          ¬ Apart w.base w.len (recvBase d) (recvLen d)) → ∃ t, exec (.descriptorRelease q) s = .next t ∧
        findDesc t q.val d.idx = none ∧ (queueOf t q.val).lastErr = toWord (stRESOURCE + tyRECV * 2 ^ 16)))) ∧
  (∀ (s : State) (q : Fin 64), (queueOf s q.val).state ≠ .running ∨ unitSt s (q.val / 16) ≠ .on ∨ holdOf s 0x10 (q.val / 16) = true ∨
    oldestWaiting s q.val = none → exec (.descriptorRelease q) s = .next s) ∧
  (∀ (s : State) (q : Fin 64) (d : Desc), oldestWaiting s q.val = some d → sigRemote s d = false → (queueOf s q.val).waitLimit ≠ 0#16 →
    ∃ t, exec (.waitLimitExpiry q) s = .next t ∧ Completed s t q.val d stDEADLINE 0) ∧
  (∀ (s : State) (q : Fin 64), oldestWaiting s q.val = none ∨ (queueOf s q.val).waitLimit = 0#16 →
    exec (.waitLimitExpiry q) s = .next s) ∧
  (∀ (s : State) (q : Fin 64) (idx : Word) (w : Window) (d : Desc), windowOf s q.val idx = some w → findDesc s q.val idx = some d →
    sigRemote s d = false → dType d = tyRECV → (queueOf s q.val).waitLimit ≠ 0#16 →
    ∃ t, exec (.recvWindowTimeout q idx) s = .next t ∧ Completed s t q.val d stDEADLINE 0 ∧ windowOf t q.val idx = none) ∧
  (∀ (s : State) (q : Fin 64) (idx : Word), windowOf s q.val idx = none ∨ (queueOf s q.val).waitLimit = 0#16 →
    exec (.recvWindowTimeout q idx) s = .next s)

/-- COPY moves every row and completes, is held for sleeping units, and RECV completes when its window is full
(06_flow_programs_scheduler_tokens.md R166, 06_flow_programs_scheduler_tokens.md R168,
06_flow_programs_scheduler_tokens.md R170, 05_memory_tiers_and_board_address_space.md R117,
05_memory_tiers_and_board_address_space.md R136). -/
def Obligations.CopyAndReceiveMoveTheirBytes : Prop :=
  (∀ (s : State) (q : Fin 64) (idx : Word) (d : Desc), running s q.val idx tyCOPY = some d → sigRemote s d = false →
    let src := copySrc d % 2 ^ 44
    let dst := copyDst d % 2 ^ 44
    let sleeping := spanSleepers s (q.val / 16) src (copySpan (copyLen d) (copyRows d) (copySrcStride d)) ++
      spanSleepers s (q.val / 16) dst (copySpan (copyLen d) (copyRows d) (copyDstStride d))
    (copySrc d / 2 ^ 44 % 16 = ownPos s → copyDst d / 2 ^ 44 % 16 = ownPos s → sleeping = [] →
      copyLen d % 64 = 0 → src % 64 = 0 → dst % 64 = 0 → copySrcStride d % 64 = 0 → copyDstStride d % 64 = 0 →
      (copyRows d ≤ 1 ∨ copyLen d ≤ copyDstStride d) →
      Usable s src (copySpan (copyLen d) (copyRows d) (copySrcStride d)) →
      Usable s dst (copySpan (copyLen d) (copyRows d) (copyDstStride d)) →
      Apart src (copySpan (copyLen d) (copyRows d) (copySrcStride d)) dst (copySpan (copyLen d) (copyRows d) (copyDstStride d)) →
      Apart (recordAt s q.val d) 32 dst (copySpan (copyLen d) (copyRows d) (copyDstStride d)) →
      ∃ m t, exec (.copy q idx []) s = .next t ∧ Completed m t q.val d stOK 0 ∧ queueOf m = queueOf s ∧ tokOf m = tokOf s ∧
        m = { s with regs := m.regs, mem := m.mem } ∧
        (∀ r i, r < copyRows d → i < copyLen d → readByte t (dst + r * copyDstStride d + i) = readByte s (src + r * copySrcStride d + i)) ∧
        (∀ a, Apart a 1 (recordAt s q.val d) 32 → (∀ r, r < copyRows d → Apart a 1 (dst + r * copyDstStride d) (copyLen d)) →
          readByte t a = readByte s a)) ∧
    (∀ ecc, copySrc d / 2 ^ 44 % 16 = ownPos s → copyDst d / 2 ^ 44 % 16 = ownPos s → sleeping ≠ [] →
      ∃ t, exec (.copy q idx ecc) s = .next t ∧ t = { s with pwr := t.pwr, mem := { s.mem with
        held := s.mem.held ++ [{ queue := q.val, idx := d.idx, ecc := ecc }] } }) ∧
    (copySrc d / 2 ^ 44 % 16 ≠ ownPos s ∨ copyDst d / 2 ^ 44 % 16 ≠ ownPos s →
      (copySrc d / 2 ^ 44 % 16 = ownPos s → spanSleepers s (q.val / 16) src (copySpan (copyLen d) (copyRows d) (copySrcStride d)) = []) →
      (copyDst d / 2 ^ 44 % 16 = ownPos s → spanSleepers s (q.val / 16) dst (copySpan (copyLen d) (copyRows d) (copyDstStride d)) = []) →
      ∃ t, exec (.copy q idx []) s = .next t ∧ (∀ a, Apart a 1 (recordAt s q.val d) 32 → readByte t a = readByte s a) ∧
        (findDesc t q.val idx = none ∨ ∃ e, findDesc t q.val idx = some e ∧ e.ran = true ∧ e.remote = true ∧ 0 < e.outstanding))) ∧
  (∀ (s : State) (q : Fin 64) (idx : Word) (ecc : List EccHit), running s q.val idx tyCOPY = none → exec (.copy q idx ecc) s = .next s) ∧
  (∀ (s : State) (q : Fin 64) (h : HeldAcc) (d : Desc), s.mem.held = [h] → s.board.heldLink = [] → h.queue = q.val →
    running s h.queue h.idx tyCOPY = some d →
    ∃ t, exec .heldAccessResume s = .next t ∧ exec (.copy q h.idx h.ecc) { s with mem := { s.mem with held := [] } } = .next t) ∧
  (∀ s : State, s.mem.held = [] → s.board.heldLink = [] → exec .heldAccessResume s = .next s) ∧
  (∀ (s : State) (q : Fin 64) (idx : Word) (d : Desc) (w : Window), running s q.val idx tyRECV = some d → sigRemote s d = false →
    windowOf s q.val d.idx = some w →
    (w.len ≤ runBytes w.placed → ∃ t, exec (.recv q idx) s = .next t ∧ Completed s t q.val { d with done := w.len } stOK 0 ∧
      windowOf t q.val d.idx = none) ∧
    (runBytes w.placed < w.len → exec (.recv q idx) s = .next s)) ∧
  (∀ (s : State) (q : Fin 64) (idx : Word), running s q.val idx tyRECV = none → exec (.recv q idx) s = .next s)

/-- TOKEN ADD, SET and DOORBELL, FENCE with its record, and ACCORD_WAIT (06_flow_programs_scheduler_tokens.md R146,
06_flow_programs_scheduler_tokens.md R155, 06_flow_programs_scheduler_tokens.md R178,
06_flow_programs_scheduler_tokens.md R179, 06_flow_programs_scheduler_tokens.md R180,
06_flow_programs_scheduler_tokens.md R181). -/
def Obligations.TokenFenceAndAccordWaitDescriptors : Prop :=
  (∀ (s : State) (q : Fin 64) (idx : Word) (d : Desc), running s q.val idx tyTOKEN = some d → sigRemote s d = false → tokIsRemote s d = false →
    (∀ i, i < tokCount d → unitSt s ((tokTarget d + i) / 1024) ≠ .failed ∧ tokBound s (tokTarget d + i) (dDomain d) = true) →
    (tokOp d = 1 → ∃ m t, exec (.tokenAdd q idx) s = .next t ∧ Completed m t q.val d stOK 0 ∧ queueOf m = queueOf s ∧
      (∀ i, i < tokCount d → tokOf m (tokTarget d + i) = { tokOf s (tokTarget d + i) with
        value := if 0xFFFFFFFF < (tokOf s (tokTarget d + i)).value.toNat + tokValue d then 0xFFFFFFFF#32
          else (tokOf s (tokTarget d + i)).value + toWord (tokValue d) }) ∧
      (∀ k, k < tokTarget d ∨ tokTarget d + tokCount d ≤ k → tokOf m k = tokOf s k) ∧ m.mem = s.mem) ∧
    (tokOp d = 2 → ∃ m t, exec (.tokenSet q idx) s = .next t ∧ Completed m t q.val d stOK 0 ∧ queueOf m = queueOf s ∧
      (∀ i, i < tokCount d → tokOf m (tokTarget d + i) = { tokOf s (tokTarget d + i) with
        value := toWord (tokValue d), poison := false, src := 0#16 }) ∧
      (∀ k, k < tokTarget d ∨ tokTarget d + tokCount d ≤ k → tokOf m k = tokOf s k) ∧
      m = { s with flow := m.flow, pwr := m.pwr })) ∧
  (∀ (s : State) (q : Fin 64) (idx : Word) (d : Desc), running s q.val idx tyTOKEN = some d → sigRemote s d = false → tokIsRemote s d = false →
    tokOp d = 3 → (∀ i, i < tokCount d → tokTarget d + i ≠ q.val) →
    let took (k : Nat) : Prop := (queueOf s k).state ≠ .unbound ∧ (queueOf s k).state ≠ .failed ∧
      ((queueOf s k).tail + toWord (tokValue d) - (queueOf s k).head).toNat ≤ (queueOf s k).size
    ((∀ i, i < tokCount d → took (tokTarget d + i)) → ∃ m t, exec (.tokenDoorbell q idx) s = .next t ∧ Completed m t q.val d stOK 0 ∧
      (∀ i, i < tokCount d → (queueOf m (tokTarget d + i)).tail = (queueOf s (tokTarget d + i)).tail + toWord (tokValue d)) ∧
      (∀ k, k < tokTarget d ∨ tokTarget d + tokCount d ≤ k → queueOf m k = queueOf s k) ∧ tokOf m = tokOf s ∧ m.mem = s.mem) ∧
    ((∃ i, i < tokCount d ∧ ¬ took (tokTarget d + i)) → ∃ t, exec (.tokenDoorbell q idx) s = .next t ∧ findDesc t q.val d.idx = none ∧
      (∀ i, i < tokCount d → took (tokTarget d + i) → (queueOf t (tokTarget d + i)).tail = (queueOf s (tokTarget d + i)).tail + toWord (tokValue d)) ∧
      (∀ i, i < tokCount d → ¬ took (tokTarget d + i) → queueOf t (tokTarget d + i) = queueOf s (tokTarget d + i)) ∧
      fld (queueOf t q.val).lastErr 0 16 ≠ stOK)) ∧
  (∀ (s : State) (q : Fin 64) (idx : Word), running s q.val idx tyTOKEN = none →
    exec (.tokenAdd q idx) s = .next s ∧ exec (.tokenSet q idx) s = .next s ∧ exec (.tokenDoorbell q idx) s = .next s) ∧
  (∀ (s : State) (q : Fin 64) (idx : Word) (d : Desc), running s q.val idx tyFENCE = some d → sigRemote s d = false →
    let ended : Prop := ((queueOf s q.val).descs.takeWhile fun e => e.idx != d.idx) = [] ∧ ∀ x ∈ d.fence, findDesc s x.1 x.2 = none
    (ended → ∃ t, exec (.fence q idx) s = .next t ∧ Completed s t q.val d stOK 0 ∧
      (dCpl d = true → (queueOf s q.val).size ≠ 0 → Usable s (recordAt s q.val d) 32 → recordAt s q.val d % 32 = 0 →
        ∀ i b, (leBytes 2 stOK ++ leBytes 1 tyFENCE ++ leBytes 1 (d.engine.getD 0xFF) ++ leBytes 4 (dTag d) ++ leBytes 4 d.idx.toNat ++
          leBytes 4 d.done ++ leBytes 4 d.start.toNat ++ leBytes 4 (s.ns.toNat % 2 ^ 32) ++ leBytes 2 q.val ++
          leBytes 1 (b2n d.waitPois + 2 * b2n d.woke + 4 * b2n d.remote) ++ leBytes 1 0 ++ leBytes 4 0)[i]? = some b →
          readByte t (recordAt s q.val d + i) = b) ∧
      (dCpl d = false → t.mem = s.mem)) ∧
    (¬ ended → exec (.fence q idx) s = .next s)) ∧
  (∀ (s : State) (q : Fin 64) (idx : Word), running s q.val idx tyFENCE = none → exec (.fence q idx) s = .next s) ∧
  (∀ (s : State) (q : Fin 64) (idx : Word) (d : Desc), running s q.val idx tyACCORD = some d → sigRemote s d = false →
    let reached := accReached (if leAt d.raw 28 1 = 0 then s.ste.present.number else s.ste.doneNum) (leAt d.raw 24 4)
    (service s ≤ 1 → ∃ t, exec (.accordWait q idx) s = .next t ∧ Completed s t q.val d stSTATE 0) ∧
    (1 < service s → reached = true → ∃ t, exec (.accordWait q idx) s = .next t ∧ Completed s t q.val d stOK 0) ∧
    (1 < service s → reached = false → exec (.accordWait q idx) s = .next s)) ∧
  (∀ (s : State) (q : Fin 64) (idx : Word), running s q.val idx tyACCORD = none → exec (.accordWait q idx) s = .next s)

/-- REDUCE writes or combines every element, counts its contribution, closes the chunk, and ends ABORTED once its
entry is discarded; CT_DISCARD (06_flow_programs_scheduler_tokens.md R171, 07_reduction_arithmetic.md R194,
07_reduction_arithmetic.md R195, 07_reduction_arithmetic.md R196, 07_reduction_arithmetic.md R199,
07_reduction_arithmetic.md R203, 07_reduction_arithmetic.md R204). -/
def Obligations.ReduceCombinesEveryElementAndCounts : Prop :=
  (∀ (s : State) (q : Fin 64) (idx : Word) (d : Desc) (i : Nat), running s q.val idx tyREDUCE = some d → sigRemote s d = false →
    d.abort = false → d.entry = some i → (ctOf s i).state = .opened → (ctOf s i).gen = d.entryGen →
    let n := redCount d
    let size := 64 * ((n + 15) / 16)
    formatOk (redFormat d) = true → (isMx (redFormat d) = true → n % 32 = 0) → redAcc d % 64 = 0 → stagingBase ≤ redAcc d → redAcc d + size ≤ stagingBase + 0x40000000 → Usable s (redAcc d) size →
    Usable s (redSrc d) (arrayBytes (redFormat d) n) → Apart (redSrc d) (arrayBytes (redFormat d) n) (redAcc d) size →
    Apart (recordAt s q.val d) 32 (redAcc d) size → ((redDone d).testBit 15 = true → dSigs d = true → redDone d % 4096 ≠ dSigTok d) →
    ∃ m t, exec (.reduce q idx []) s = .next t ∧ Completed m t q.val { d with done := n } stOK 0 ∧ queueOf m = queueOf s ∧
      (∀ k, k < n → let old := if isFresh s (redAcc d + 4 * k) then none else some (leNat (readBytes s (redAcc d + 4 * k) 4))
        let x := (redInput s d k {}).1
        leNat (readBytes t (redAcc d + 4 * k) 4) = (match old with
          | none => x
          | some was => if redInt d then (combineInt (redOp d) was x {}).1 else (combineFp (redOp d) was x {}).1)) ∧
      (∀ a, redAcc d ≤ a → a < redAcc d + size → isFresh t a = false) ∧
      (∀ a, Apart a 1 (redAcc d) size → Apart a 1 (recordAt s q.val d) 32 → readByte t a = readByte s a) ∧
      (∀ j, j ≠ i → ctOf t j = ctOf s j) ∧
      ((ctOf s i).arrived + 1 ≠ (ctOf s i).expect →
        ctOf t i = { ctOf s i with seen := (ctOf s i).seen + 1, arrived := (ctOf s i).arrived + 1 } ∧ tokOf m = tokOf s) ∧
      ((ctOf s i).arrived + 1 = (ctOf s i).expect → (ctOf t i).state = .free ∧
        ((redDone d).testBit 15 = true → tokBound s (redDone d % 4096) (dDomain d) = true →
          unitSt s (redDone d % 4096 / 1024) ≠ .failed → (tokOf s (redDone d % 4096)).value.toNat < 0xFFFFFFFF →
          (tokOf t (redDone d % 4096)).value = (tokOf s (redDone d % 4096)).value + 1#32))) ∧
  (∀ (s : State) (q : Fin 64) (idx : Word) (d : Desc) (ecc : List EccHit), running s q.val idx tyREDUCE = some d → sigRemote s d = false →
    d.abort = true → ∃ m t, exec (.reduce q idx ecc) s = .next t ∧ Completed m t q.val { d with done := 0 } stABORTED 0 ∧
      ∀ a, Apart a 1 (recordAt s q.val d) 32 → readByte t a = readByte s a) ∧
  (∀ (s : State) (q : Fin 64) (idx : Word) (ecc : List EccHit), running s q.val idx tyREDUCE = none → exec (.reduce q idx ecc) s = .next s) ∧
  (∀ (s : State) (who : Requester) (die : Fin 4), Commands s who 0x11 (32 * die.val) 0x124 →
    let i := 2048 * die.val + fld (getReg s (Reg.RED_CT_SEL + 32 * die.val * 0x1000)) 0 11
    let e := ctOf s i
    let key := Reg.RED_IRQ_STAT + 32 * die.val * 0x1000
    (e.state = .free → ∃ t, exec (.ctDiscard who die) s = .next t ∧ RefusedWith s t 0x11 (32 * die.val) stSTATE) ∧
    (e.state = .opened → ∃ t, exec (.ctDiscard who die) s = .next t ∧ ctOf t i = { e with state := .discarded, sweeping := true } ∧
      (∀ j, j ≠ i → ctOf t j = ctOf s j) ∧ (∀ a, e.acc / 64 ≤ a / 64 → a / 64 < (e.acc + 4 * e.count + 63) / 64 → isFresh t a = true) ∧
      (∀ a, readByte t a = readByte s a) ∧ getReg t key = getReg s key ||| 4#32 ∧ t.flow.tokens = s.flow.tokens) ∧
    (e.state = .discarded → ∃ t, exec (.ctDiscard who die) s = .next t ∧ (ctOf t i).state = .free ∧
      (∀ j, j ≠ i → ctOf t j = ctOf s j) ∧ t = { s with ct := t.ct, pwr := t.pwr })) ∧
  (∀ (s : State) (die : Fin 4) (entry : Fin 2048), let i := 2048 * die.val + entry.val
    ((ctOf s i).sweeping = false → exec (.discardSweepDone die entry) s = .next s) ∧
    ((ctOf s i).sweeping = true → ∃ t, exec (.discardSweepDone die entry) s = .next t ∧ t = { s with ct := t.ct } ∧
      (∀ j, j ≠ i → ctOf t j = ctOf s j) ∧ (ctOf t i).sweeping = false ∧
      (ctOf t i).state = (if (ctOf s i).state = .discarded ∧ (ctOf s i).expect ≤ (ctOf s i).seen then .free else (ctOf s i).state)))

/-- EMIT completes in every mode, writes only its output, residual and record, and consumes its accumulator unless
KEEP (06_flow_programs_scheduler_tokens.md R172, 07_reduction_arithmetic.md R200, 07_reduction_arithmetic.md
R206, 07_reduction_arithmetic.md R207, 07_reduction_arithmetic.md R208, 07_reduction_arithmetic.md R209). -/
def Obligations.EmitConvertsAndConsumes : Prop :=
  (∀ (s : State) (q : Fin 64) (idx : Word) (d : Desc), running s q.val idx tyEMIT = some d → sigRemote s d = false →
    let n := emitCount d
    let size := 64 * ((n + 15) / 16)
    let out := if modeBit d 3 then 0 else arrayBytes (emitFormat d) n
    let res := if modeBit d 1 then (if modeBit d 5 then 2 else 4) * n else 0
    emitAcc d % 64 = 0 → emitDst d % 64 = 0 → emitResid d % 64 = 0 → (isMx (emitFormat d) = true → n % 32 = 0) → formatOk (emitFormat d) = true →
    (modeBit d 2 = true → modeBit d 3 = false) → (modeBit d 3 = true → modeBit d 1 = false) →
    stagingBase ≤ emitAcc d → emitAcc d + size ≤ stagingBase + 0x40000000 →
    Usable s (emitAcc d) size → Usable s (emitDst d) out → Usable s (emitResid d) res →
    Apart (emitAcc d) size (emitDst d) out → Apart (emitAcc d) size (emitResid d) res → Apart (emitDst d) out (emitResid d) res →
    Apart (recordAt s q.val d) 32 (emitAcc d) size → Apart (recordAt s q.val d) 32 (emitDst d) out → recordAt s q.val d % 32 = 0 →
    ∃ m t, exec (.emit q idx []) s = .next t ∧ Completed m t q.val { d with done := n } stOK 0 ∧ m = { s with regs := m.regs, mem := m.mem } ∧
      (∀ a, Apart a 1 (emitDst d) out → Apart a 1 (emitResid d) res → Apart a 1 (recordAt s q.val d) 32 → readByte t a = readByte s a) ∧
      (∀ a, emitAcc d ≤ a → a < emitAcc d + size → Apart (recordAt s q.val d / 64 * 64) 64 (emitAcc d) size →
        isFresh t a = (if modeBit d 2 then isFresh s a else true)) ∧
      (∀ k, k < n → modeBit d 1 = false → modeBit d 3 = false → isMx (emitFormat d) = false →
        let v := if isFresh s (emitAcc d + 4 * k) then 0 else leNat (readBytes s (emitAcc d + 4 * k) 4)
        let w := elemBytes (emitFormat d)
        let code := match scalarFmt (emitFormat d) with
          | none => v
          | some f => if emitFormat d = 0 then (if fp32IsNan v then nan32 else v)
            else (quantScalar (emitFormat d) f (modeBit d 4) (roundingOf (modeBit d 0) (emitSeed d) k) (fp32Val v)).1
        readBytes t (emitDst d + w * k) w = leBytes w code)) ∧
  (∀ (s : State) (q : Fin 64) (idx : Word) (ecc : List EccHit), running s q.val idx tyEMIT = none → exec (.emit q idx ecc) s = .next s)

/-- Each vector instruction writes the operation's result to every lane of VD and changes nothing else but the
program counter (08_optimizer_engines.md R214, 08_optimizer_engines.md R216, 08_optimizer_engines.md R217,
08_optimizer_engines.md R218, 08_optimizer_engines.md R219). -/
def Obligations.VectorInstructionsActOnEveryLane : Prop :=
  ∀ (s : State) (e : Fin 64) (vd va : BitVec 5),
    let x := optOf s e.val
    (∃ t, exec (.nop e) s = .next t ∧ EngineOnly s t e.val ∧ optOf t e.val = { x with pc := x.pc + 1 }) ∧
    (∀ vb : BitVec 5, ∃ t, exec (.vadd e vd va vb) s = .next t ∧ VectorWrite s t e.val vd.toNat ∧
      ∀ (l : Nat) (a b : Word), (vReg x va.toNat)[l]? = some a → (vReg x vb.toNat)[l]? = some b →
        (vReg (optOf t e.val) vd.toNat)[l]? = some (toWord (fp32Add a.toNat b.toNat))) ∧
    (∀ vb : BitVec 5, ∃ t, exec (.vsub e vd va vb) s = .next t ∧ VectorWrite s t e.val vd.toNat ∧
      ∀ (l : Nat) (a b : Word), (vReg x va.toNat)[l]? = some a → (vReg x vb.toNat)[l]? = some b →
        (vReg (optOf t e.val) vd.toNat)[l]? = some (toWord (fp32Sub a.toNat b.toNat))) ∧
    (∀ vb : BitVec 5, ∃ t, exec (.vmul e vd va vb) s = .next t ∧ VectorWrite s t e.val vd.toNat ∧
      ∀ (l : Nat) (a b : Word), (vReg x va.toNat)[l]? = some a → (vReg x vb.toNat)[l]? = some b →
        (vReg (optOf t e.val) vd.toNat)[l]? = some (toWord (fp32Mul a.toNat b.toNat))) ∧
    (∀ vb : BitVec 5, ∃ t, exec (.vmin e vd va vb) s = .next t ∧ VectorWrite s t e.val vd.toNat ∧
      ∀ (l : Nat) (a b : Word), (vReg x va.toNat)[l]? = some a → (vReg x vb.toNat)[l]? = some b →
        (vReg (optOf t e.val) vd.toNat)[l]? = some (toWord (fp32Min a.toNat b.toNat))) ∧
    (∀ vb : BitVec 5, ∃ t, exec (.vmax e vd va vb) s = .next t ∧ VectorWrite s t e.val vd.toNat ∧
      ∀ (l : Nat) (a b : Word), (vReg x va.toNat)[l]? = some a → (vReg x vb.toNat)[l]? = some b →
        (vReg (optOf t e.val) vd.toNat)[l]? = some (toWord (fp32Max a.toNat b.toNat))) ∧
    (∀ vb : BitVec 5, ∃ t, exec (.vcpys e vd va vb) s = .next t ∧ VectorWrite s t e.val vd.toNat ∧
      ∀ (l : Nat) (a b : Word), (vReg x va.toNat)[l]? = some a → (vReg x vb.toNat)[l]? = some b →
        (vReg (optOf t e.val) vd.toNat)[l]? = some (toWord (copySign a.toNat b.toNat))) ∧
    (∀ vb : BitVec 5, ∃ t, exec (.vfma e vd va vb) s = .next t ∧ VectorWrite s t e.val vd.toNat ∧
      ∀ (l : Nat) (a b c : Word), (vReg x va.toNat)[l]? = some a → (vReg x vb.toNat)[l]? = some b → (vReg x vd.toNat)[l]? = some c →
        (vReg (optOf t e.val) vd.toNat)[l]? = some (toWord (fp32Fma a.toNat b.toNat c.toNat))) ∧
    (∀ sk : BitVec 6, ∃ t, exec (.vadds e vd va sk) s = .next t ∧ VectorWrite s t e.val vd.toNat ∧
      ∀ (l : Nat) (a : Word), (vReg x va.toNat)[l]? = some a →
        (vReg (optOf t e.val) vd.toNat)[l]? = some (toWord (fp32Add a.toNat (sReg x sk.toNat).toNat))) ∧
    (∀ sk : BitVec 6, ∃ t, exec (.vmuls e vd va sk) s = .next t ∧ VectorWrite s t e.val vd.toNat ∧
      ∀ (l : Nat) (a : Word), (vReg x va.toNat)[l]? = some a →
        (vReg (optOf t e.val) vd.toNat)[l]? = some (toWord (fp32Mul a.toNat (sReg x sk.toNat).toNat))) ∧
    (∀ sk : BitVec 6, ∃ t, exec (.vmins e vd va sk) s = .next t ∧ VectorWrite s t e.val vd.toNat ∧
      ∀ (l : Nat) (a : Word), (vReg x va.toNat)[l]? = some a →
        (vReg (optOf t e.val) vd.toNat)[l]? = some (toWord (fp32Min a.toNat (sReg x sk.toNat).toNat))) ∧
    (∀ sk : BitVec 6, ∃ t, exec (.vmaxs e vd va sk) s = .next t ∧ VectorWrite s t e.val vd.toNat ∧
      ∀ (l : Nat) (a : Word), (vReg x va.toNat)[l]? = some a →
        (vReg (optOf t e.val) vd.toNat)[l]? = some (toWord (fp32Max a.toNat (sReg x sk.toNat).toNat))) ∧
    (∀ sk : BitVec 6, ∃ t, exec (.vfmas e vd va sk) s = .next t ∧ VectorWrite s t e.val vd.toNat ∧
      ∀ (l : Nat) (a c : Word), (vReg x va.toNat)[l]? = some a → (vReg x vd.toNat)[l]? = some c →
        (vReg (optOf t e.val) vd.toNat)[l]? = some (toWord (fp32Fma a.toNat (sReg x sk.toNat).toNat c.toNat))) ∧
    (∀ sk : BitVec 6, ∃ t, exec (.vaxpb e vd va sk) s = .next t ∧ VectorWrite s t e.val vd.toNat ∧
      ∀ (l : Nat) (a : Word), (vReg x va.toNat)[l]? = some a →
        (vReg (optOf t e.val) vd.toNat)[l]? = some (toWord (fp32Fma a.toNat (sReg x sk.toNat).toNat (sReg x (sk.toNat + 1)).toNat))) ∧
    (∀ sk : BitVec 6, ∃ t, exec (.vbcast e vd sk) s = .next t ∧ VectorWrite s t e.val vd.toNat ∧
      ∀ l, l < 64 → (vReg (optOf t e.val) vd.toNat)[l]? = some (sReg x sk.toNat)) ∧
    (∃ t, exec (.vrcp e vd va) s = .next t ∧ VectorWrite s t e.val vd.toNat ∧
      ∀ (l : Nat) (a : Word), (vReg x va.toNat)[l]? = some a →
        (vReg (optOf t e.val) vd.toNat)[l]? = some (toWord (fpRcp a.toNat))) ∧
    (∃ t, exec (.vrsqrt e vd va) s = .next t ∧ VectorWrite s t e.val vd.toNat ∧
      ∀ (l : Nat) (a : Word), (vReg x va.toNat)[l]? = some a →
        (vReg (optOf t e.val) vd.toNat)[l]? = some (toWord (fpRsqrt a.toNat))) ∧
    (∃ t, exec (.vsqrt e vd va) s = .next t ∧ VectorWrite s t e.val vd.toNat ∧
      ∀ (l : Nat) (a : Word), (vReg x va.toNat)[l]? = some a →
        (vReg (optOf t e.val) vd.toNat)[l]? = some (toWord (fpSqrt a.toNat))) ∧
    (∃ t, exec (.vexp2 e vd va) s = .next t ∧ VectorWrite s t e.val vd.toNat ∧
      ∀ (l : Nat) (a : Word), (vReg x va.toNat)[l]? = some a →
        (vReg (optOf t e.val) vd.toNat)[l]? = some (toWord (fpExp2 a.toNat))) ∧
    (∃ t, exec (.vlog2 e vd va) s = .next t ∧ VectorWrite s t e.val vd.toNat ∧
      ∀ (l : Nat) (a : Word), (vReg x va.toNat)[l]? = some a →
        (vReg (optOf t e.val) vd.toNat)[l]? = some (toWord (fpLog2 a.toNat))) ∧
    (∃ t, exec (.vabs e vd va) s = .next t ∧ VectorWrite s t e.val vd.toNat ∧
      ∀ (l : Nat) (a : Word), (vReg x va.toNat)[l]? = some a →
        (vReg (optOf t e.val) vd.toNat)[l]? = some (toWord (clearSign a.toNat))) ∧
    (∃ t, exec (.vneg e vd va) s = .next t ∧ VectorWrite s t e.val vd.toNat ∧
      ∀ (l : Nat) (a : Word), (vReg x va.toNat)[l]? = some a →
        (vReg (optOf t e.val) vd.toNat)[l]? = some (toWord (flipSign a.toNat))) ∧
    (∃ t, exec (.vmov e vd va) s = .next t ∧ VectorWrite s t e.val vd.toNat ∧
      ∀ (l : Nat) (a : Word), (vReg x va.toNat)[l]? = some a →
        (vReg (optOf t e.val) vd.toNat)[l]? = some (toWord (id a.toNat)))

/-- Each scalar instruction writes its result to SD when a program may write SD, and changes nothing else but the
program counter (08_optimizer_engines.md R214, 08_optimizer_engines.md R217, 08_optimizer_engines.md R219,
08_optimizer_engines.md R220). -/
def Obligations.ScalarInstructionsWriteOneRegister : Prop :=
  ∀ (s : State) (e : Fin 64) (sd sa : BitVec 6),
    let x := optOf s e.val
    (∀ k, 60 ≤ k → sReg x k = 0#32) ∧
    (∀ sb : BitVec 6, ∃ t, exec (.sadd e sd sa sb) s = .next t ∧
      ScalarWrite s t e.val sd.toNat (toWord (fp32Add (sReg x sa.toNat).toNat (sReg x sb.toNat).toNat))) ∧
    (∀ sb : BitVec 6, ∃ t, exec (.ssub e sd sa sb) s = .next t ∧
      ScalarWrite s t e.val sd.toNat (toWord (fp32Sub (sReg x sa.toNat).toNat (sReg x sb.toNat).toNat))) ∧
    (∀ sb : BitVec 6, ∃ t, exec (.smul e sd sa sb) s = .next t ∧
      ScalarWrite s t e.val sd.toNat (toWord (fp32Mul (sReg x sa.toNat).toNat (sReg x sb.toNat).toNat))) ∧
    (∀ sb : BitVec 6, ∃ t, exec (.smin e sd sa sb) s = .next t ∧
      ScalarWrite s t e.val sd.toNat (toWord (fp32Min (sReg x sa.toNat).toNat (sReg x sb.toNat).toNat))) ∧
    (∀ sb : BitVec 6, ∃ t, exec (.smax e sd sa sb) s = .next t ∧
      ScalarWrite s t e.val sd.toNat (toWord (fp32Max (sReg x sa.toNat).toNat (sReg x sb.toNat).toNat))) ∧
    (∀ sb : BitVec 6, ∃ t, exec (.sfma e sd sa sb) s = .next t ∧
      ScalarWrite s t e.val sd.toNat (toWord (fp32Fma (sReg x sa.toNat).toNat (sReg x sb.toNat).toNat (sReg x sd.toNat).toNat))) ∧
    (∃ t, exec (.srcp e sd sa) s = .next t ∧ ScalarWrite s t e.val sd.toNat (toWord (fpRcp (sReg x sa.toNat).toNat))) ∧
    (∃ t, exec (.srsqrt e sd sa) s = .next t ∧ ScalarWrite s t e.val sd.toNat (toWord (fpRsqrt (sReg x sa.toNat).toNat))) ∧
    (∃ t, exec (.ssqrt e sd sa) s = .next t ∧ ScalarWrite s t e.val sd.toNat (toWord (fpSqrt (sReg x sa.toNat).toNat))) ∧
    (∃ t, exec (.sexp2 e sd sa) s = .next t ∧ ScalarWrite s t e.val sd.toNat (toWord (fpExp2 (sReg x sa.toNat).toNat))) ∧
    (∃ t, exec (.slog2 e sd sa) s = .next t ∧ ScalarWrite s t e.val sd.toNat (toWord (fpLog2 (sReg x sa.toNat).toNat))) ∧
    (∃ t, exec (.smov e sd sa) s = .next t ∧ ScalarWrite s t e.val sd.toNat (toWord (id (sReg x sa.toNat).toNat))) ∧
    (∀ imm : BitVec 16, ∃ t, exec (.sli e sd imm) s = .next t ∧ ScalarWrite s t e.val sd.toNat (imm ++ 0#16))

/-- VLD reads a tile of its stream, VST holds back its stores, LACC and HACC sum active lanes, TILE starts the body
(08_optimizer_engines.md R221, 08_optimizer_engines.md R222, 08_optimizer_engines.md R223,
08_optimizer_engines.md R228, 08_optimizer_engines.md R229, 08_optimizer_engines.md R231). -/
def Obligations.StreamsAndSumsOfAnEngine : Prop :=
  ∀ (s : State) (e : Fin 64),
    let x := optOf s e.val
    (∀ (q : Nat) (d : Desc) (v : BitVec 5) (k : BitVec 3), optJob s e.val = some (q, d) →
      let en := shEntry d.shard k.toNat
      let n := activeLanes (some d) x
      let a := streamAddr d true en (64 * x.tile)
      let len := if enKind en = skROW then elemBytes (enFormat en) else n * elemBytes (enFormat en)
      ∃ t, exec (.vld e v k) s = .next t ∧ EngineOnly s t e.val ∧
        (enKind en = 0 ∨ n = 0 → VectorWrite s t e.val v.toNat ∧ ∀ l, l < 64 → (vReg (optOf t e.val) v.toNat)[l]? = some 0#32) ∧
        (enKind en ≠ 0 → n ≠ 0 → rangeReadStatus s a len = stOK →
          (∀ l, l < n → (vReg (optOf t e.val) v.toNat)[l]? = some (streamElem s d en (64 * x.tile + l))) ∧
          (∀ l, n ≤ l → l < 64 → (vReg (optOf t e.val) v.toNat)[l]? = some 0#32) ∧
          (∀ r, r ≠ v.toNat → vReg (optOf t e.val) r = vReg x r) ∧ (optOf t e.val).s = x.s ∧ (optOf t e.val).status = x.status ∧
          (optOf t e.val).writes = x.writes) ∧
        (enKind en ≠ 0 → n ≠ 0 → rangeReadStatus s a len ≠ stOK →
          optOf t e.val = { x with pc := x.pc + 1, status := rangeReadStatus s a len })) ∧
    (∀ (q : Nat) (d : Desc) (v : BitVec 5) (k : BitVec 3), optJob s e.val = some (q, d) →
      let en := shEntry d.shard (8 + k.toNat)
      let n := activeLanes (some d) x
      let a := streamAddr d false en (64 * x.tile)
      ∃ t, exec (.vst e v k) s = .next t ∧ EngineOnly s t e.val ∧
        (enKind en = 0 ∨ n = 0 ∨ (enKind en = skOUT ∧ optOut d = 0) → optOf t e.val = { x with pc := x.pc + 1 }) ∧
        (enKind en ≠ 0 → n ≠ 0 → ¬ (enKind en = skOUT ∧ optOut d = 0) → ¬ (enKind en = skCOL ∧ shRowTiles d.shard ≤ x.tile) →
          (optOf t e.val).writes = x.writes ++ [(a,
            ((vReg x v.toNat).take n).zipIdx.flatMap (fun w => leBytes (elemBytes (enFormat en))
              (outCode en ((optFirst d + 64 * x.tile + w.2) % 2 ^ 32) w.1).1),
            entryMirrored d en)] ∧
          (optOf t e.val).v = x.v ∧ (optOf t e.val).s = x.s ∧ (optOf t e.val).status = x.status)) ∧
    (optJob s e.val = none → ∀ v k, exec (.vld e v k) s = .next s ∧ exec (.vst e v k) s = .next s) ∧
    (∀ (k : BitVec 2) (va : BitVec 5), ∃ t, exec (.lacc e k va) s = .next t ∧ EngineOnly s t e.val ∧
      optOf t e.val = { x with pc := x.pc + 1, la := (optOf t e.val).la } ∧
      (∀ j, j ≠ k.toNat → laReg (optOf t e.val) j = laReg x j) ∧
      ∀ (l : Nat) (a b : Word), (laReg x k.toNat)[l]? = some a → (vReg x va.toNat)[l]? = some b → (vReg x va.toNat).length = 64 →
        (laReg (optOf t e.val) k.toNat)[l]? =
          some (toWord (fp32Add a.toNat (if l < activeLanes (optDesc s e.val) x then b.toNat else 0)))) ∧
    (∀ (k : BitVec 2) (va : BitVec 5), ∃ t, exec (.hacc e k va) s = .next t ∧ EngineOnly s t e.val ∧
      optOf t e.val = { x with pc := x.pc + 1, ha := (optOf t e.val).ha } ∧
      haReg (optOf t e.val) k.toNat = toWord (fp32Add (haReg x k.toNat).toNat
        (treeSum (maskLanes (activeLanes (optDesc s e.val) x) (vReg x va.toNat))).toNat) ∧
      ∀ j, j ≠ k.toNat → haReg (optOf t e.val) j = haReg x j) ∧
    (∃ t, exec (.tile e) s = .next t ∧ EngineOnly s t e.val ∧
      optOf t e.val = { x with pc := x.pc + 1, body := x.pc + 1, tile := 0, v := [], written := 0 })

/-- PASS and END commit the tile's stores at once or not at all, go to the next tile or end; OPTIM runs to its
completion and clears its engine (08_optimizer_engines.md R221, 08_optimizer_engines.md R224,
08_optimizer_engines.md R231, 08_optimizer_engines.md R233, 08_optimizer_engines.md R234). -/
def Obligations.TilesCommitAndAnOptimEnds : Prop :=
  (∀ (s : State) (e : Fin 64) (q : Nat) (d : Desc), optJob s e.val = some (q, d) →
    let x := optOf s e.val
    let w := (rowWrites d { x with pc := x.pc + 1 }).writes
    (x.status = stOK → (∀ y ∈ w, Usable s y.1 y.2.1.length ∧ y.2.2 = false) →
      (∀ y ∈ w, ∀ g ∈ x.consumed, Apart y.1 y.2.1.length (g / 64 * 64) 64) →
      let stored (t : State) : Prop := ∀ a, readByte t a = readByte (w.foldl (fun s y => storeBytes s y.1 y.2.1) s) a
      (x.tile + 1 < optTiles d → ∃ t u, exec (.endMark e) s = .next t ∧ exec (.pass e) s = .next u ∧ stored t ∧ stored u ∧
        (∀ g ∈ x.consumed, isFresh t g = true) ∧
        (optOf t e.val).tile = x.tile + 1 ∧ (optOf t e.val).pc = x.body ∧ (optOf t e.val).ended = x.ended ∧ (optOf t e.val).writes = [] ∧
        (optOf u e.val).tile = x.tile + 1 ∧ (optOf u e.val).pc = x.body ∧ ∀ k, k ≠ e.val → optOf t k = optOf s k ∧ optOf u k = optOf s k) ∧
      (optTiles d ≤ x.tile + 1 → ∃ t, exec (.endMark e) s = .next t ∧ stored t ∧ (optOf t e.val).ended = true ∧
        (optOf t e.val).status = stOK ∧ (optOf t e.val).written = x.written + activeLanes (some d) x) ∧
      (optTiles d ≤ x.tile + 1 → shPasses d.shard ≠ 2 → ∃ t, exec (.pass e) s = .next t ∧ stored t ∧ (optOf t e.val).pass2 = true ∧
        (∀ k, k < 4 → sReg (optOf t e.val) (56 + k) = treeSum (laReg x k)) ∧ (optOf t e.val).la = [] ∧ (optOf t e.val).v = [])) ∧
    (x.status ≠ stOK → ∃ t u, exec (.endMark e) s = .next t ∧ exec (.pass e) s = .next u ∧
      (optOf t e.val).ended = true ∧ (optOf t e.val).status = x.status ∧ (optOf u e.val).ended = true ∧ (optOf u e.val).status = x.status ∧
      (∀ a, readByte t a = readByte s a ∧ isFresh t a = isFresh s a ∧ readByte u a = readByte s a ∧ isFresh u a = isFresh s a))) ∧
  (∀ (s : State) (e : Fin 64), optJob s e.val = none → exec (.endMark e) s = .next s ∧ exec (.pass e) s = .next s) ∧
  (∀ (s : State) (q : Fin 64) (idx : Word) (d : Desc), running s q.val idx tyOPTIM = some d →
    let e := 16 * (q.val / 16) + d.engine.getD 0
    (∃ t, exec (.optim q idx []) s = .next t ∧ optOf t e = {} ∧
      (findDesc t q.val idx = none ∨ ∃ y, findDesc t q.val idx = some y ∧ y.ran = true ∧ 0 < y.outstanding)) ∧
    ((optOf s e).ended = true → d.outstanding = 0 → sigRemote s d = false → ∃ m t, exec (.optim q idx []) s = .next t ∧
      m = { s with opt := m.opt } ∧ (∀ k, k ≠ e → optOf m k = optOf s k) ∧
      Completed m t q.val { d with ran := true, done := (optOf s e).written, status := (optOf s e).status } (optOf s e).status d.detail)) ∧
  (∀ (s : State) (q : Fin 64) (idx : Word) (ecc : List EccHit), running s q.val idx tyOPTIM = none → exec (.optim q idx ecc) s = .next s)

/-- SCHEDULE, ASSIGN and SINKHORN complete with their result header, numbered tables or scaled matrix, and write
nothing else (09_planning_array_and_accord_synthesis.md R243, 09_planning_array_and_accord_synthesis.md R251,
09_planning_array_and_accord_synthesis.md R252, 09_planning_array_and_accord_synthesis.md R254,
09_planning_array_and_accord_synthesis.md R255, 09_planning_array_and_accord_synthesis.md R257,
09_planning_array_and_accord_synthesis.md R260). -/
def Obligations.PlansWriteTheirTables : Prop :=
  (∀ (s : State) (q : Fin 64) (idx : Word) (d : Desc), PlanReady s q.val idx d → planReads s d = stOK →
    Apart (planOut d) (outBytesNeeded d) (pWork d) (workBytes (pK d)) → 
    Apart (recordAt s q.val d) 32 (pWork d) (workBytes (pK d)) →
    portsFaulty s (portList s (pPorts d) (pK d)) (portList s (pPins d) (pNpins d)) = false →
    (pMode d = mSCHEDULE → 1 ≤ pPmax d → pPmax d ≤ 64 → ∃ m t ts st det, exec (.schedule q idx []) s = .next t ∧
      Completed m t q.val d st det ∧ queueOf m = queueOf s ∧ tokOf m = tokOf s ∧
      PlanHeader t d ts.length st det ∧ PlanTables s t d ts st det ∧
      ∀ a, Apart a 1 (planOut d) (outBytesNeeded d) → Apart a 1 (pWork d) (workBytes (pK d)) →
        Apart a 1 (recordAt s q.val d) 32 → readByte t a = readByte s a) ∧
    (pMode d = mASSIGN → pPmax d = 1 → ∃ m t ts st det, exec (.assign q idx []) s = .next t ∧
      Completed m t q.val d st det ∧ queueOf m = queueOf s ∧ tokOf m = tokOf s ∧
      PlanHeader t d 1 st det ∧ PlanTables s t d ts st det ∧ readBytes t (planOut d + 64) 4 = leBytes 4 0x3F800000 ∧
      ∀ a, Apart a 1 (planOut d) (outBytesNeeded d) → Apart a 1 (pWork d) (workBytes (pK d)) →
        Apart a 1 (recordAt s q.val d) 32 → readByte t a = readByte s a) ∧
    (pMode d = mSINKHORN → ∃ m t, exec (.sinkhorn q idx []) s = .next t ∧
      Completed m t q.val d stOK 0 ∧ queueOf m = queueOf s ∧ tokOf m = tokOf s ∧ PlanHeader t d 0 stOK 0 ∧
      (let ports := portList s (pPorts d) (pK d)
       let pins := portList s (pPins d) (pNpins d)
       let rows := probRows ports pins
       let cols := probCols s ports pins
       let f := planFactor s (q.val / 16)
       let x := planA s d rows cols
       let m := (sinkhorn d f x.1 cols.length { bad := x.2, cycles := f * tConv (pK d) }).1
       ∀ i j, i < pK d → j < pK d →
        let r := rows.findIdx (· == i)
        let c := cols.findIdx (· == j)
        readBytes t (planOut d + 64 + i * (64 * ((4 * pK d + 63) / 64)) + 4 * j) 4 =
          leBytes 4 (if r < rows.length ∧ c < cols.length then
            (m.getD r []).getD c 0 else 0)) ∧
      ∀ a, Apart a 1 (planOut d) (outBytesNeeded d) → Apart a 1 (pWork d) (workBytes (pK d)) →
        Apart a 1 (recordAt s q.val d) 32 → readByte t a = readByte s a)) ∧
  (∀ (s : State) (q : Fin 64) (idx : Word) (d : Desc) (c : Instr), PlanReady s q.val idx d → planReads s d = stOK →
    portsFaulty s (portList s (pPorts d) (pK d)) (portList s (pPins d) (pNpins d)) = true →
    (pMode d = mSCHEDULE ∧ c = .schedule q idx []) ∨ (pMode d = mASSIGN ∧ c = .assign q idx []) ∨
      (pMode d = mSINKHORN ∧ c = .sinkhorn q idx []) →
    ∃ m t, exec c s = .next t ∧ Completed m t q.val d stRANGE 0x13 ∧ queueOf m = queueOf s ∧ tokOf m = tokOf s ∧
      PlanHeader t d 0 stRANGE 0x13 ∧
      ∀ a, Apart a 1 (planOut d) 64 → Apart a 1 (recordAt s q.val d) 32 → readByte t a = readByte s a) ∧
  (∀ (s : State) (q : Fin 64) (idx : Word) (ecc : List EccHit), running s q.val idx tyPLAN = none →
    exec (.schedule q idx ecc) s = .next s ∧ exec (.assign q idx ecc) s = .next s ∧ exec (.sinkhorn q idx ecc) s = .next s)

/-- GEMM writes the product, VALIDATE answers the check of its table, SNAPSHOT places counts and takes the baseline,
and the plane port map services (09_planning_array_and_accord_synthesis.md R246,
09_planning_array_and_accord_synthesis.md R247, 09_planning_array_and_accord_synthesis.md R249,
09_planning_array_and_accord_synthesis.md R257, 09_planning_array_and_accord_synthesis.md R260,
09_planning_array_and_accord_synthesis.md R262). -/
def Obligations.GemmValidateSnapshotAndPortMap : Prop :=
  (∀ (s : State) (q : Fin 64) (idx : Word) (d : Desc), PlanReady s q.val idx d →
    (pMode d = mGEMM → gCf d ≤ 1 →
      let size := elemBytes (gCf d)
      let row (i : Nat) : Nat := gC d + i * gLdc d * 64
      (∀ r ∈ gemmReads d, Usable s r.1 r.2) → size * gN d ≤ gLdc d * 64 → 
      (∀ i, i < gM d → Usable s (row i) (size * gN d) ∧ Apart (row i) (size * gN d) (planOut d) 64 ∧
        Apart (row i) (size * gN d) (recordAt s q.val d) 32) →
      ∃ m t, exec (.gemm q idx []) s = .next t ∧ Completed m t q.val d stOK 0 ∧ queueOf m = queueOf s ∧ tokOf m = tokOf s ∧
        PlanHeader t d 0 stOK 0 ∧
        (∀ i j, i < gM d → j < gN d → readBytes t (row i + size * j) size = gemmElem s d i j) ∧
        ∀ a, (∀ i, i < gM d → Apart a 1 (row i) (size * gN d)) → Apart a 1 (planOut d) 64 →
          Apart a 1 (recordAt s q.val d) 32 → readByte t a = readByte s a) ∧
    (pMode d = mVALIDATE → Usable s (leAt d.param 8 8) 4672 →
      let v := validateTable s (readBytes s (leAt d.param 8 8) 4672) s.ste.present
      ∃ m t, exec (.validate q idx []) s = .next t ∧ Completed m t q.val d v.1 v.2 ∧ queueOf m = queueOf s ∧ tokOf m = tokOf s ∧
        PlanHeader t d 0 v.1 v.2 ∧
        ∀ a, Apart a 1 (planOut d) 64 → Apart a 1 (recordAt s q.val d) 32 → readByte t a = readByte s a) ∧
    (pMode d = mSNAPSHOT → planReads s d = stOK → portsFaulty s (portList s (pPorts d) (pK d)) [] = false →
      (∀ i, i < pK d → Apart (pDemand d + i * pStride d * 64) (4 * pK d) (planOut d) 64 ∧
        Apart (pDemand d + i * pStride d * 64) (4 * pK d) (recordAt s q.val d) 32) →
      ∃ m t, exec (.snapshot q idx []) s = .next t ∧ Completed m t q.val d stOK 0 ∧ queueOf m = queueOf s ∧ tokOf m = tokOf s ∧
        PlanHeader t d 0 stOK 0 ∧ t.ste = { s.ste with snapBase := t.ste.snapBase } ∧ t.kft = s.kft ∧
        (∀ p b, p < 32 → b < 4 → tget (fun _ => 0) t.ste.snapBase (4 * p + b) = tget (fun _ => 0) (portOf s p).brTx b ∧
          tget (fun _ => 0) t.ste.snapBase (128 + (4 * p + b)) = tget (fun _ => 0) (portOf s p).brRx b) ∧
        (∀ a, (∀ i, i < pK d → Apart a 1 (pDemand d + i * pStride d * 64) (4 * pK d)) → Apart a 1 (planOut d) 64 →
          Apart a 1 (recordAt s q.val d) 32 → readByte t a = readByte s a) ∧
        (s.ste.portMap = none →
          (∀ a, Apart a 1 (planOut d) 64 → Apart a 1 (recordAt s q.val d) 32 → readByte t a = readByte s a) ∧
          readBytes t (planOut d + 36) 4 = leBytes 4 (min 0xFFFFFFFF ((List.range 128).map fun x =>
            (tget (fun _ => 0) (portOf s (x / 4)).brTx (x % 4) - tget (fun _ => 0) s.ste.snapBase x) +
            (tget (fun _ => 0) (portOf s (x / 4)).brRx (x % 4) - tget (fun _ => 0) s.ste.snapBase (128 + x))).sum)))) ∧
  (∀ (s : State) (q : Fin 64) (idx : Word) (ecc : List EccHit), running s q.val idx tyPLAN = none →
    exec (.gemm q idx ecc) s = .next s ∧ exec (.validate q idx ecc) s = .next s ∧ exec (.snapshot q idx ecc) s = .next s) ∧
  (∀ s : State, Asks s 0x0901 4616 [0] →
    let b := mbxPeek s 16 4616
    let tag := mbxPeek s 8 8
    let good := leAt b 0 2 = planeNo s ∧ leAt b 2 2 = 0 ∧ ∀ p, p < 1152 → mapEntryOk (mapBytes b p) = true
    (¬ good → ∃ t, exec .portmapSet s = .next t ∧ Answered s t 0x0901 tag [] stRANGE) ∧
    (good → ¬ (servicePlaces b).Nodup → ∃ t, exec .portmapSet s = .next t ∧ Answered s t 0x0901 tag [] stRANGE) ∧
    (good → (servicePlaces b).Nodup → s.ste.move.isSome = true → ∃ t, exec .portmapSet s = .next t ∧ Answered s t 0x0901 tag [] stSTATE) ∧
    (good → (servicePlaces b).Nodup → s.ste.move = none → ∃ m t x, exec .portmapSet s = .next t ∧ Answered m t 0x0901 tag [] stOK ∧
      Reports [Reg.PLN_IRQ_STAT] { s with ste := { s.ste with portMap := some x } } m ∧
      getReg m Reg.PLN_IRQ_STAT = getReg s Reg.PLN_IRQ_STAT ||| 32#32 ∧ x.plane = planeNo s ∧ x.seq = toWord (leAt b 4 4) ∧
      ∀ p, p < 1152 → tget (fun _ => {}) x.entries p = mapEntry (mapBytes b p))) ∧
  (∀ s : State, Asks s 0x0902 0 [0, 1, 2, 3] →
    (s.ste.portMap = none → ∃ t, exec .portmapGet s = .next t ∧ Answered s t 0x0902 (mbxPeek s 8 8) [] stNOTREADY) ∧
    (∀ x, s.ste.portMap = some x → ∃ t, exec .portmapGet s = .next t ∧ Answered s t 0x0902 (mbxPeek s 8 8)
      (leBytes 2 x.plane ++ zeros 2 ++ leBytes 4 x.seq.toNat ++
        (List.range 1152).flatMap fun p => entryBytes (tget (fun _ => {}) x.entries p)) stOK))

/-- Training attempts, the answer to a pattern, the INIT handshake and its verdicts, IDLE messages, and PRBS tests
of a link (10_links_ports_and_flow_transport.md R268, 10_links_ports_and_flow_transport.md R274,
10_links_ports_and_flow_transport.md R275, 10_links_ports_and_flow_transport.md R299). -/
def Obligations.LinksTrainAndComeUp : Prop :=
  (∀ (s : State) (n : Fin 64), let l := linkOf s n.val
    (linkUsable s n.val = true → l.st = .quiet ∨ l.st = .backoff →
      (∃ t, exec (.trainingAttempt n) s = .next t ∧
        t = { s with board := { s.board with links := t.board.links }, out := .linkTrain n.val false :: s.out } ∧
        linkOf t n.val = { l with st := .backoff, interval := min 64 (2 * l.interval) } ∧
        ∀ k, k ≠ n.val → linkOf t k = linkOf s k) ∧
      (∃ t, exec (.trainingPatternReceive n) s = .next t ∧
        t = { s with board := { s.board with links := t.board.links }, out := .linkTrain n.val true :: s.out } ∧
        linkOf t n.val = { l with st := .training, inited := false, verdict := 0, theirs := 0 } ∧
        ∀ k, k ≠ n.val → linkOf t k = linkOf s k)) ∧
    (linkUsable s n.val = false ∨ (l.st ≠ .quiet ∧ l.st ≠ .backoff) →
      exec (.trainingAttempt n) s = .next s ∧ exec (.trainingPatternReceive n) s = .next s) ∧
    exec (.linkIdle n) s = .next s) ∧
  (∀ (s : State) (n : Fin 64) (lanes : BitVec 4), let l := linkOf s n.val
    (l.st ≠ .training ∨ lanes = 0#4 → exec (.trainingDone n lanes) s = .next s) ∧
    (l.st = .training → lanes ≠ 0#4 → ∃ t m, exec (.trainingDone n lanes) s = .next t ∧
      t = { s with board := { s.board with links := t.board.links }, out := .link n.val m :: s.out } ∧
      linkOf t n.val = { l with lanes := lanes } ∧ (∀ k, k ≠ n.val → linkOf t k = linkOf s k) ∧ m.kind = 0x09 ∧
      m.hdr.body = [BitVec.ofNat 8 (strapBoard s), BitVec.ofNat 8 (fld (getReg s Reg.PWR_STRAPS) 4 2),
        BitVec.ofNat 8 (strapPlan s), BitVec.ofNat 8 (ownPos s), BitVec.ofNat 8 n.val, BitVec.ofNat 8 l.verdict])) ∧
  (∀ (s : State) (n : Fin 64) (m : LinkMsg), let l := linkOf s n.val
    let v := beAt m.body 5 1
    let fits := beAt m.body 0 1 = strapBoard s ∧ beAt m.body 1 1 = fld (getReg s Reg.PWR_STRAPS) 4 2 ∧
      beAt m.body 2 1 = strapPlan s ∧ linkExpect s n.val = some (beAt m.body 3 1, beAt m.body 4 1)
    let wrong (t : State) : Prop := (linkOf t n.val).st = .miswired ∧ (linkOf t n.val).lanes = 0#4 ∧
      (getReg t (Reg.at Reg.LNK_IRQ_STAT n.val)).getLsbD 3 = true ∧
      fld (getReg t (pageKey 0x30 n.val + 0x01C)) 16 16 = stRANGE ∧ fld (getReg t (pageKey 0x30 n.val + 0x01C)) 0 8 = 0x10 ∧
      ∀ k, k ≠ n.val → linkOf t k = linkOf s k
    let up (t : State) : Prop := (linkOf t n.val).st = .up ∧ (linkOf t n.val).lanes = l.lanes ∧
      (getReg t (Reg.at Reg.LNK_IRQ_STAT n.val)).getLsbD 0 = true
    (l.st ≠ .training ∨ l.lanes = 0#4 → exec (.init n m) s = .next s) ∧
    (l.st = .training → l.lanes ≠ 0#4 → l.inited = false →
      (¬ fits → ∃ t, exec (.init n m) s = .next t ∧ wrong t ∧ ∃ o, .link n.val o ∈ t.out ∧ o.kind = 0x09 ∧ beAt o.hdr.body 5 1 = 2) ∧
      (fits → v = 2 → ∃ t, exec (.init n m) s = .next t ∧ wrong t) ∧
      (fits → v = 1 → ∃ t, exec (.init n m) s = .next t ∧ up t ∧
        (linkOf t n.val).peerPos = beAt m.body 3 1 % 16 ∧ (linkOf t n.val).peerLink = beAt m.body 4 1 % 64 ∧
        (linkOf t n.val).peerBoard = beAt m.body 0 1 % 8) ∧
      (fits → v = 0 → l.theirs = 0 → ∃ t o, exec (.init n m) s = .next t ∧
        t = { s with board := { s.board with links := t.board.links }, out := .link n.val o :: s.out } ∧
        (linkOf t n.val).st = .training ∧ (linkOf t n.val).inited = true ∧ (linkOf t n.val).verdict = 1 ∧
        o.kind = 0x09 ∧ beAt o.hdr.body 5 1 = 1)) ∧
    (l.st = .training → l.lanes ≠ 0#4 → l.inited = true → l.verdict = 1 →
      (v = 1 → ∃ t, exec (.init n m) s = .next t ∧ up t) ∧ (v = 2 → ∃ t, exec (.init n m) s = .next t ∧ wrong t))) ∧
  (∀ (s : State) (who : Requester) (n : Fin 64) (mode : BitVec 2), Reaches s who 0x30 n.val 0x078 →
    let l := linkOf s n.val
    (mode = 0#2 → ∃ t, exec (.lnkTest who n mode) s = .next t ∧ LinkOnly s t n.val ∧
      linkOf t n.val = { l with test := 0, interval := if l.test = 0 then l.interval else 1 }) ∧
    (mode ≠ 0#2 → linkState s n.val = 0x10 ∨ linkState s n.val = 0x14 ∨ linkState s n.val = 0x17 →
      ∃ t, exec (.lnkTest who n mode) s = .next t ∧ LinkOnly s t n.val ∧ linkOf t n.val = { l with test := mode.toNat }) ∧
    (mode ≠ 0#2 → linkState s n.val ≠ 0x10 → linkState s n.val ≠ 0x14 → linkState s n.val ≠ 0x17 →
      ∃ t, exec (.lnkTest who n mode) s = .next t ∧ RefusedWith s t 0x30 n.val stSTATE))

/-- Blocks are accepted in order or discarded with one NAK, replays and their limit, lane failures, retrains, WIDEN
and loss of a link (10_links_ports_and_flow_transport.md R267, 10_links_ports_and_flow_transport.md R270,
10_links_ports_and_flow_transport.md R271, 10_links_ports_and_flow_transport.md R272,
10_links_ports_and_flow_transport.md R273). -/
def Obligations.LinksReplayRetrainAndAreLost : Prop :=
  (∀ (s : State) (n : Fin 64) (b : FecBlock), let l := linkOf s n.val
    let good := b.decoded = true ∧ crc16 0xFFFF (blockBits b) = b.crc ∧ b.bseq = l.expect
    let kept := if b.ak = 1#2 ∨ b.ak = 2#2 then
        (match l.retry.findIdx? fun x => x.bseq == b.aseq with | some i => l.retry.drop (i + 1) | none => l.retry)
      else l.retry
    let after : Link := { l with
      expect := l.expect + 1#8
      naked := false
      rxBytes := l.rxBytes + 1280
      retry := kept
      replays := if kept.length < l.retry.length then 0 else l.replays }
    (l.st ≠ .up → exec (.fecBlockReceive n b) s = .next s) ∧
    (l.st = .up → good → l.txq = [] →
      let m : State := { setLink (bumpReg s (Reg.at Reg.LNK_CNT_CORR n.val) b.corrected) n.val after with
        out := .linkAck n.val 1 b.bseq.toNat :: s.out }
      (b.ak ≠ 2#2 ∨ kept = [] → exec (.fecBlockReceive n b) s = .next m) ∧
      (∀ x r, b.ak = 2#2 → kept = x :: r → ∃ t, exec (.fecBlockReceive n b) s = .next t ∧ Replayed m t n.val x)) ∧
    (l.st = .up → ¬ good → ∃ t, exec (.fecBlockReceive n b) s = .next t ∧
      t = { s with
        regs := t.regs
        board := { s.board with links := t.board.links }
        out := if l.naked then s.out else .linkAck n.val 2 (l.expect - 1#8).toNat :: s.out } ∧
      linkOf t n.val = { l with naked := true } ∧ (∀ k, k ≠ n.val → linkOf t k = linkOf s k) ∧
      getReg t (Reg.at Reg.LNK_CNT_UNCORR n.val) = satAdd (getReg s (Reg.at Reg.LNK_CNT_UNCORR n.val)) 1 ∧
      getReg t (Reg.at Reg.LNK_CNT_CORR n.val) = satAdd (getReg s (Reg.at Reg.LNK_CNT_CORR n.val)) b.corrected)) ∧
  (∀ (s : State) (n : Fin 64), let l := linkOf s n.val
    (l.st ≠ .up ∨ l.retry = [] → exec (.replayTimeout n) s = .next s) ∧
    (∀ x r, l.st = .up → l.retry = x :: r → ∃ t, exec (.replayTimeout n) s = .next t ∧ Replayed s t n.val x)) ∧
  (∀ (s : State) (n : Fin 64) (lane : Fin 4), let l := linkOf s n.val
    let left := l.lanes &&& ~~~ (BitVec.ofNat 4 (2 ^ lane.val))
    ((l.st ≠ .up ∧ l.st ≠ .retraining) ∨ l.lanes.getLsbD lane.val = false → exec (.laneFail n lane) s = .next s) ∧
    (l.st = .up ∨ l.st = .retraining → l.lanes.getLsbD lane.val = true →
      (left ≠ 0#4 → ∃ t, exec (.laneFail n lane) s = .next t ∧ LinkOnly s t n.val ∧ linkOf t n.val = { l with
        lanes := left
        st := .retraining
        before := if l.st = .up then l.lanes else l.before
        widen := false }) ∧
      (left = 0#4 → ∃ t, exec (.laneFail n lane) s = .next t ∧ LinkLost s t n.val))) ∧
  (∀ (s : State) (n : Fin 64) (lanes : BitVec 4), let l := linkOf s n.val
    let now := if l.widen then lanes else lanes &&& l.lanes
    (l.st ≠ .retraining → exec (.retrainDone n lanes) s = .next s ∧ exec (.retrainTimeout n) s = .next s) ∧
    (l.st = .retraining → (∃ t, exec (.retrainTimeout n) s = .next t ∧ LinkLost s t n.val) ∧
      (now = 0#4 → ∃ t, exec (.retrainDone n lanes) s = .next t ∧ LinkLost s t n.val) ∧
      (now ≠ 0#4 → l.txq = [] → ∃ t, exec (.retrainDone n lanes) s = .next t ∧
        Reports [Reg.at Reg.LNK_IRQ_STAT n.val, Reg.at Reg.LNK_CNT_NARROW n.val]
          { s with board := { s.board with links := t.board.links } } t ∧
        linkOf t n.val = { l with st := .up, lanes := now, before := 0#4, widen := false, naked := false } ∧
        (∀ k, k ≠ n.val → linkOf t k = linkOf s k) ∧
        (laneCount now < laneCount l.before →
          getReg t (Reg.at Reg.LNK_IRQ_STAT n.val) = getReg s (Reg.at Reg.LNK_IRQ_STAT n.val) ||| 4#32 ∧
          getReg t (Reg.at Reg.LNK_CNT_NARROW n.val) = satAdd (getReg s (Reg.at Reg.LNK_CNT_NARROW n.val)) 1) ∧
        (∀ x r, l.retry = x :: r → .linkReplay n.val x.bseq.toNat l.retry.length ∈ t.out)))) ∧
  (∀ (s : State) (n : Fin 64), let l := linkOf s n.val
    (l.st = .up ∨ l.st = .retraining → ∃ t, exec (.linkLoss n) s = .next t ∧ LinkLost s t n.val) ∧
    (l.st = .training → ∃ t, exec (.linkLoss n) s = .next t ∧ LinkOnly s t n.val ∧ (linkOf t n.val).st = .backoff ∧
      (linkOf t n.val).interval = 1) ∧
    (l.st ≠ .up → l.st ≠ .retraining → l.st ≠ .training → exec (.linkLoss n) s = .next s)) ∧
  (∀ (s : State) (who : Requester) (n : Fin 64), Commands s who 0x30 n.val 0x044 → let l := linkOf s n.val
    (l.st = .up → ∃ t, exec (.lnkWiden who n) s = .next t ∧ LinkOnly s t n.val ∧
      linkOf t n.val = { l with st := .retraining, before := l.lanes, widen := true }) ∧
    (l.st ≠ .up → ∃ t, exec (.lnkWiden who n) s = .next t ∧ RefusedWith s t 0x30 n.val stSTATE))

/-- WRITE, READ and REGWR are served and answered, answers end their transactions, and transit messages are
forwarded or answered LINK (05_memory_tiers_and_board_address_space.md R117,
05_memory_tiers_and_board_address_space.md R136, 06_flow_programs_scheduler_tokens.md R155,
06_flow_programs_scheduler_tokens.md R157, 06_flow_programs_scheduler_tokens.md R185,
10_links_ports_and_flow_transport.md R269, 10_links_ports_and_flow_transport.md R281,
10_links_ports_and_flow_transport.md R285). -/
def Obligations.LinkMessagesAreServedAnsweredOrForwarded : Prop :=
  (∀ (s : State) (n : Fin 64) (m : LinkMsg) (ecc : List EccHit), (linkOf s n.val).st ≠ .up →
    exec (.linkWrite n m) s = .next s ∧ exec (.linkRead n m ecc) s = .next s ∧ exec (.rdata n m) s = .next s ∧
    exec (.wack n m) s = .next s ∧ exec (.regwr n m) s = .next s ∧ exec (.regack n m) s = .next s) ∧
  (∀ (s : State) (n : Fin 64) (m : LinkMsg), (linkOf s n.val).st = .up → forHere s m = true →
    let a := m.address.toNat % 2 ^ 44
    let dom := m.domain.toNat % 4096
    let len := 64 * m.count.toNat
    (inRegion s dom a m.data.length = false → ∃ t, exec (.linkWrite n m) s = .next t ∧ LinksMoved s t ∧ SlotsOwed s t n.val m ∧
      LinkAnswer s t n.val 4 m stAUTH []) ∧
    (inRegion s dom a m.data.length = true → remoteSleepers s n.val a = [] → Usable s a m.data.length →
      ∃ t, exec (.linkWrite n m) s = .next t ∧ SlotsOwed s t n.val m ∧ LinkAnswer s t n.val 4 m stOK [] ∧
        readBytes t a m.data.length = m.data ∧ (∀ b, Apart b 1 a m.data.length → readByte t b = readByte s b) ∧
        t = { s with board := { s.board with links := t.board.links }, out := t.out, mem := t.mem }) ∧
    (inRegion s dom a m.data.length = true → remoteSleepers s n.val a ≠ [] →
      ∃ t, exec (.linkWrite n m) s = .next t ∧ SlotsOwed s t n.val m ∧
        t.board.heldLink = s.board.heldLink ++ [{ link := n.val, isWrite := true, msg := m, ecc := [] }] ∧
        ∀ b, readByte t b = readByte s b) ∧
    (inRegion s dom a len = false → ∃ t, exec (.linkRead n m []) s = .next t ∧ LinksMoved s t ∧ SlotsOwed s t n.val m ∧
      LinkAnswer s t n.val 3 m stAUTH []) ∧
    (inRegion s dom a len = true → remoteSleepers s n.val a = [] → Usable s a len →
      ∃ t, exec (.linkRead n m []) s = .next t ∧ SlotsOwed s t n.val m ∧ LinkAnswer s t n.val 3 m stOK (readBytes s a len) ∧
        ∀ b, readByte t b = readByte s b) ∧
    (inRegion s dom a len = true → remoteSleepers s n.val a ≠ [] →
      ∃ t, exec (.linkRead n m []) s = .next t ∧ SlotsOwed s t n.val m ∧
        t.board.heldLink = s.board.heldLink ++ [{ link := n.val, isWrite := false, msg := m, ecc := [] }] ∧
        ∀ b, readByte t b = readByte s b)) ∧
  (∀ (s : State) (n : Fin 64) (m : LinkMsg) (k : Nat) (c : Instr), (linkOf s n.val).st = .up → forHere s m = false →
    (k, c) ∈ [(1, .linkWrite n m), (2, .linkRead n m []), (3, .rdata n m), (4, .wack n m), (5, .regwr n m), (6, .regack n m)] →
    let ls := upLinks s (m.address.toNat / 2 ^ 44 % 16)
    let j := ls[m.tag.toNat % max ls.length 1]?
    (∀ i, j = some i → transitEn s = true → ∃ t, exec c s = .next t ∧ PutOn s t i { kind := k, hdr := m } ∧
      t = { s with board := { s.board with links := t.board.links, transit := t.board.transit }, out := t.out }) ∧
    (j = none ∨ transitEn s = false → ∃ t, exec c s = .next t ∧ LinksMoved s t ∧ SlotsOwed s t n.val m ∧
      (∀ a, answerKind k = some a → LinkAnswer s t n.val a m stLINK []) ∧ (answerKind k = none → t.out = s.out))) ∧
  (∀ (s : State) (n : Fin 64) (m : LinkMsg), (linkOf s n.val).st = .up → forHere s m = true →
    let dom := m.domain.toNat % 4096
    let p := m.src.toNat % 16
    let seen := tget (fun _ => []) s.board.seen p
    let target := regTarget (m.address.toNat % 2 ^ 44)
    let k := fld m.value 0 12
    let v := fld m.value 12 20
    let x := tokOf s k
    (m.tag ∈ seen → ∃ t, exec (.regwr n m) s = .next t ∧ LinksMoved s t ∧ LinkAnswer s t n.val 6 m stOK []) ∧
    (m.tag ∉ seen → (∀ ty d o, target = some (ty, d, o) → ty ≠ 0x10) →
      ∃ t, exec (.regwr n m) s = .next t ∧ t.flow = s.flow ∧ LinkAnswer s t n.val 6 m stAUTH []) ∧
    (∀ d, m.tag ∉ seen → d < 4 → flowMayWrite s = true → unitSt s d ≠ .failed → enOf s 0x10 d = true → k / 1024 = d →
      tokBound s k dom = true →
      (target = some (0x10, d, 0x040) → beAt m.body 0 1 = 0 → x.value.toNat + v ≤ 0xFFFFFFFF → ∃ t, exec (.regwr n m) s = .next t ∧
        tokOf t k = { x with value := x.value + toWord v, src := x.src ||| BitVec.ofNat 16 (2 ^ p) } ∧
        (∀ j, j ≠ k → tokOf t j = tokOf s j) ∧ LinkAnswer s t n.val 6 m stOK [] ∧
        m.tag ∈ tget (fun _ => []) t.board.seen p) ∧
      (target = some (0x10, d, 0x040) → beAt m.body 0 1 = 1 → ∃ t, exec (.regwr n m) s = .next t ∧
        tokOf t k = { x with poison := true } ∧ (∀ j, j ≠ k → tokOf t j = tokOf s j) ∧ LinkAnswer s t n.val 6 m stOK []) ∧
      (target = some (0x10, d, 0x044) → ∃ t, exec (.regwr n m) s = .next t ∧
        tokOf t k = { x with value := toWord v, poison := false, src := 0#16 } ∧
        (∀ j, j ≠ k → tokOf t j = tokOf s j) ∧ LinkAnswer s t n.val 6 m stOK [])) ∧
    (∀ d, m.tag ∉ seen → d < 4 → flowMayWrite s = true → unitSt s d ≠ .failed → enOf s 0x10 d = true →
      let q := 16 * d + fld m.value 0 4
      let y := queueOf s q
      let tail := y.tail + toWord (fld m.value 8 24)
      target = some (0x10, d, 0x048) → y.state ≠ .unbound → y.state ≠ .failed → y.domain.toNat = dom →
      (tail - y.head).toNat ≤ y.size → ∃ t, exec (.regwr n m) s = .next t ∧ (queueOf t q).tail = tail ∧
        (queueOf t q).head = y.head ∧ (∀ j, j ≠ q → queueOf t j = queueOf s j) ∧ LinkAnswer s t n.val 6 m stOK [])) ∧
  (∀ (s : State) (n : Fin 64) (m : LinkMsg) (k : Nat) (c : Instr), (linkOf s n.val).st = .up → forHere s m = true →
    (k, c) ∈ [(3, .rdata n m), (4, .wack n m), (6, .regack n m)] →
    let found := s.board.txns.find? fun x => x.tag == m.tag && answerKind x.msg.kind == some k
    (found = none → ∃ t, exec c s = .next t ∧ LinkOnly s t n.val ∧ SlotsOwed s t n.val m) ∧
    (∀ x, found = some x → x.kind = .poison → ∃ t, exec c s = .next t ∧
      t = { s with board := { s.board with
        links := t.board.links
        txns := s.board.txns.filter fun y => y.tag != x.tag } } ∧ SlotsOwed s t n.val m) ∧
    (∀ x d, found = some x → x.kind = .signal → findDesc s x.queue x.idx = some d →
      (m.status = 0#16 → ∃ t, exec c s = .next t ∧ findDesc t x.queue x.idx = none ∧
        (queueOf t x.queue).done = (queueOf s x.queue).done + 1#32 ∧ ∀ p, p ≠ x.queue → queueOf t p = queueOf s p) ∧
      (m.status ≠ 0#16 → ∃ t, exec c s = .next t ∧ findDesc t x.queue x.idx = none ∧
        (queueOf t x.queue).lastErr = toWord (m.status.toNat + dType d * 2 ^ 16))) ∧
    (∀ x d, found = some x → x.kind = .read ∨ x.kind = .write → findDesc s x.queue x.idx = some d → dType d = tyCOPY →
      m.status = 0#16 → d.ran = true → d.status = stOK → 1 ≤ d.outstanding → (x.kind = .read → Usable s x.local_ m.data.length) →
      let e : Desc := { d with outstanding := d.outstanding - 1, done := d.done + x.bytes }
      (2 ≤ d.outstanding → ∃ t, exec c s = .next t ∧ findDesc t x.queue x.idx = some e ∧
        (x.kind = .read → readBytes t x.local_ m.data.length = m.data ∧
          ∀ b, Apart b 1 x.local_ m.data.length → readByte t b = readByte s b) ∧
        (x.kind = .write → ∀ b, readByte t b = readByte s b)) ∧
      (d.outstanding = 1 → sigRemote s d = false → ∃ u t, exec c s = .next t ∧ Completed u t x.queue e stOK 0 ∧
        (queueOf u x.queue).done = (queueOf s x.queue).done ∧ tokOf u = tokOf s)))

/-- CREDIT and REACH messages, credit returns, PART_CFG, routes that drain or come up, lost positions, and the link
table services (05_memory_tiers_and_board_address_space.md R137, 06_flow_programs_scheduler_tokens.md R162,
10_links_ports_and_flow_transport.md R278, 10_links_ports_and_flow_transport.md R279,
10_links_ports_and_flow_transport.md R280, 10_links_ports_and_flow_transport.md R282,
10_links_ports_and_flow_transport.md R284, 15_first_second_faults_status_codes.md R422). -/
def Obligations.CreditsReachRoutesAndTheLinkTable : Prop :=
  (∀ (s : State) (n : Fin 64) (m : LinkMsg), let l := linkOf s n.val
    (l.st ≠ .up → exec (.linkCredit n m) s = .next s ∧ exec (.reach n m) s = .next s ∧ exec (.creditReturn n) s = .next s) ∧
    (l.st = .up → l.txq = [] → (beAt m.body 0 1).testBit 0 = false → ∃ t, exec (.linkCredit n m) s = .next t ∧
      LinkOnly s t n.val ∧ linkOf t n.val = { l with credits := (linkOf t n.val).credits } ∧
      ∀ p, creditsOf (linkOf t n.val) p = creditsOf l p +
        Int.ofNat (((creditPairs m).filter fun x => x.1 == p).map Prod.snd).sum) ∧
    (l.st = .up → l.txq = [] → (beAt m.body 0 1).testBit 0 = true → ((creditPairs m).map Prod.fst).Nodup →
      ∃ t, exec (.linkCredit n m) s = .next t ∧ LinkOnly s t n.val ∧
      linkOf t n.val = { l with credits := (linkOf t n.val).credits, sizes := (linkOf t n.val).sizes } ∧
      (∀ x ∈ creditPairs m, tget sizeDefault (linkOf t n.val).sizes x.1 = x.2 ∧
        creditsOf (linkOf t n.val) x.1 = creditsOf l x.1 + Int.ofNat x.2 - Int.ofNat (tget sizeDefault l.sizes x.1)) ∧
      ∀ p, p ∉ (creditPairs m).map Prod.fst → creditsOf (linkOf t n.val) p = creditsOf l p) ∧
    (l.owed = [] → exec (.creditReturn n) s = .next s) ∧
    (l.st = .up → l.owed ≠ [] → (∀ x ∈ l.owed, x.1 < 256 ∧ x.2 < 65536) → ∃ t o, exec (.creditReturn n) s = .next t ∧
      (linkOf t n.val).owed = l.owed.drop 8 ∧ o.kind = 0x07 ∧ beAt o.hdr.body 0 1 = 0 ∧ creditPairs o.hdr = l.owed.take 8 ∧
      PutOn s t n.val o ∧ LinksMoved s t) ∧
    (l.st = .up → ∃ t, exec (.reach n m) s = .next t ∧
      peerReach t l.peerPos = BitVec.ofNat 17 (beAt m.body 0 2 + 2 ^ 16 * (beAt m.body 2 1 % 2)) ∧
      (∀ p, p ≠ l.peerPos → peerReach t p = peerReach s p) ∧ ∀ k, (linkOf t k).st = (linkOf s k).st)) ∧
  (∀ s : State, ∃ t, exec .reachSend s = .next t ∧ LinksMoved s t ∧
    (∀ n, n < 64 → (linkOf s n).st = .up → ∃ o : OutMsg, o.kind = 0x08 ∧ beAt o.hdr.body 0 2 = reachMask s ∧
      beAt o.hdr.body 2 1 = b2n (transitEn s) ∧ (.link n o ∈ t.out ∨ o ∈ (linkOf t n).txq)) ∧
    ∀ n, (linkOf s n).st ≠ .up → linkOf t n = linkOf s n) ∧
  (∀ (s : State) (who : Requester) (n : Fin 64) (v : Word), Reaches s who 0x30 n.val 0x064 →
    let l := linkOf s n.val
    let e := fld (getReg s (Reg.at Reg.LNK_PART_SEL n.val)) 0 4
    let w := v &&& 0x8FFF0FFF#32
    let twin := ∃ k, k < 16 ∧ k ≠ e ∧ bitOf (partOf l k) 31 = true ∧ fld (partOf l k) 0 12 = fld w 0 12
    let left := partSlots { l with parts := tset (fun _ => 0#32) l.parts e w } 17
    (bitOf w 31 = true → twin → ∃ t, exec (.partCfgWrite who n v) s = .next t ∧ RefusedWith s t 0x30 n.val stRESOURCE) ∧
    (bitOf w 31 = true → ¬ twin → left < 128 → ∃ t, exec (.partCfgWrite who n v) s = .next t ∧ RefusedWith s t 0x30 n.val stCAPACITY) ∧
    (bitOf w 31 = false ∨ (¬ twin ∧ 128 ≤ left) → ∃ t, exec (.partCfgWrite who n v) s = .next t ∧ LinksMoved s t ∧
      (∀ k, partOf (linkOf t n.val) k = if k = e then w else partOf l k) ∧ ∀ k, k ≠ n.val → linkOf t k = linkOf s k)) ∧
  (∀ (s : State) (p : Fin 16),
    let held := s.board.txns.filter fun x => x.pos == p.val && x.link.isNone
    let draining := tget (fun _ => false) s.board.draining p.val
    let out := s.board.txns.any fun x => x.pos == p.val && x.link.isSome
    let sent (t : State) : Prop := ∀ x ∈ held, ∀ n, pickLink s p.val x.tag.toNat = some n →
      ∃ y ∈ t.board.txns, y.tag = x.tag ∧ y.link = some n
    (draining = false ∨ out = true → exec (.routeDrainRelease p) s = .next s) ∧
    (draining = true → out = false → ∃ t, exec (.routeDrainRelease p) s = .next t ∧
      tget (fun _ => false) t.board.draining p.val = false ∧ sent t) ∧
    (routeOf s p.val = 0 ∨ draining = true → exec (.pendingRouteResume p) s = .next s) ∧
    (routeOf s p.val ≠ 0 → draining = false → ∃ t, exec (.pendingRouteResume p) s = .next t ∧ sent t)) ∧
  (∀ s : State, (s.board.late = true → exec .positionLossTimeout s = .next s) ∧
    (s.board.late = false → ∃ t, exec .positionLossTimeout s = .next t ∧ t.board.late = true ∧
      ((∀ p, p < boardSize s → p ≠ ownPos s → s.board.reached.getLsbD p = true) → t = { s with board := { s.board with late := true } }) ∧
      (s.board.txns = [] → ∀ p k, p < boardSize s → p ≠ ownPos s → p < 16 → s.board.reached.getLsbD p = false →
        (tokOf s k).src.getLsbD p = true → (∃ d ∈ waiters s k, waitMet s k (dThr d) = false) → (tokOf t k).poison = true))) ∧
  (∀ s : State, Asks s 0x0A01 140 [0] → s.sel.fix.waiter = none →
    let b := mbxPeek s 16 140
    let tag := mbxPeek s 8 8
    (linkTableValid s b = false → ∃ t, exec .linkTableSet s = .next t ∧ Answered s t 0x0A01 tag [] stRANGE) ∧
    (linkTableValid s b = true → saveBarred s = true → ∃ t, exec .linkTableSet s = .next t ∧ Answered s t 0x0A01 tag [] stSTATE) ∧
    (linkTableValid s b = true → saveBarred s = false → ∃ t, exec .linkTableSet s = .next t ∧ t.sel.fix.linkNew = some b ∧
      t.sel.fix.waiter = some (0x0A01, tag) ∧ getReg t Reg.HST_MBX_F2H_DB = getReg s Reg.HST_MBX_F2H_DB ∧
      (getReg t Reg.HST_MBX_H2F_DB).getLsbD 0 = false ∧ (t.sel.fix.saving = true ∨ t.sel.fix.pending = true))) ∧
  (∀ s : State, Asks s 0x0A02 0 [0, 1, 2, 3] →
    (∀ r, linkTableStored s = some r → ∃ t, exec .linkTableGet s = .next t ∧ Answered s t 0x0A02 (mbxPeek s 8 8) r stOK) ∧
    (linkTableStored s = none → ∃ t, exec .linkTableGet s = .next t ∧ Answered s t 0x0A02 (mbxPeek s 8 8) [] stNOTREADY))

/-- Ports are enabled, trained, lost and tested; BRANCH descriptors and the burst protocol with its markers and
timeouts (06_flow_programs_scheduler_tokens.md R162, 06_flow_programs_scheduler_tokens.md R177,
10_links_ports_and_flow_transport.md R286, 10_links_ports_and_flow_transport.md R296,
10_links_ports_and_flow_transport.md R297, 10_links_ports_and_flow_transport.md R298,
10_links_ports_and_flow_transport.md R299, 12_fast_selectors_afe_calibration.md R355). -/
def Obligations.PortsTrainAndChangeTheirBranch : Prop :=
  (∀ (s : State) (who : Requester) (p : Fin 32), Reaches s who 0x31 p.val 0x008 → holdOf s 0x31 p.val = false →
    let x := portOf s p.val
    (x.st = .up ∨ x.st = .training → ∃ t, exec (.fppEnable who p false) s = .next t ∧ PortLeft s t p.val .disabled ∧
      enOf t 0x31 p.val = false) ∧
    (x.st = .disabled ∨ x.st = .down → ∃ t, exec (.fppEnable who p false) s = .next t ∧ (portOf t p.val).st = .disabled ∧
      enOf t 0x31 p.val = false) ∧
    (enOf s 0x31 p.val = false → ∃ t, exec (.fppEnable who p true) s = .next t ∧ enOf t 0x31 p.val = true ∧ portOf t p.val = x ∧
      (s.boot.calibrated = true → cagePresent s p.val = true → x.st = .disabled ∨ x.st = .down →
        ∀ j, j < 3 → (loopOf t (6 * p.val + j)).scan = true ∧ (loopOf t (6 * p.val + j)).st = .scanning))) ∧
  (∀ (s : State) (p : Fin 32), let x := portOf s p.val
    (portMayTrain s p.val = true → x.st = .training ∨ x.st = .down → ∃ t, exec (.portTrainDone p) s = .next t ∧
      portOf t p.val = { x with st := .up, visited := 0#4, paused := false } ∧ (∀ k, k ≠ p.val → portOf t k = portOf s k) ∧
      Reports [Reg.at Reg.FPP_IRQ_STAT p.val] { s with kft := { s.kft with ports := t.kft.ports } } t ∧
      getReg t (Reg.at Reg.FPP_IRQ_STAT p.val) = getReg s (Reg.at Reg.FPP_IRQ_STAT p.val) ||| 1#32) ∧
    (portMayTrain s p.val = false ∨ (x.st ≠ .training ∧ x.st ≠ .down) → exec (.portTrainDone p) s = .next s) ∧
    (x.st = .up → ∃ t, exec (.portDown p) s = .next t ∧ PortLeft s t p.val .down) ∧
    (x.st ≠ .up → exec (.portDown p) s = .next s)) ∧
  (∀ (s : State) (who : Requester) (p : Fin 32) (mode : BitVec 2), Reaches s who 0x31 p.val 0x0A8 → let x := portOf s p.val
    (mode = 0#2 → x.test = 0 → ∃ t, exec (.fppTest who p mode) s = .next t ∧ PortOnly s t p.val ∧ portOf t p.val = x) ∧
    (mode = 0#2 → x.test ≠ 0 → ∃ t, exec (.fppTest who p mode) s = .next t ∧ PortOnly s t p.val ∧ (portOf t p.val).test = 0) ∧
    (mode ≠ 0#2 → cagePresent s p.val = true → x.st = .disabled ∨ x.st = .down →
      ∃ t, exec (.fppTest who p mode) s = .next t ∧ PortOnly s t p.val ∧ portOf t p.val = { x with test := mode.toNat }) ∧
    (mode ≠ 0#2 → cagePresent s p.val = false ∨ x.st = .up ∨ x.st = .training →
      ∃ t, exec (.fppTest who p mode) s = .next t ∧ RefusedWith s t 0x31 p.val stSTATE)) ∧
  (∀ (s : State) (q : Fin 64) (idx : Word), running s q.val idx tyBRANCH = none → exec (.branch q idx) s = .next s) ∧
  (∀ (s : State) (q : Fin 64) (idx : Word) (d : Desc), running s q.val idx tyBRANCH = some d → sigRemote s d = false →
    let p := brPort d
    let x := portOf s p
    let c : Change := {
      queue := q.val
      idx := idx
      branch := brBranch d
      tx := (brDir d).testBit 0 && x.txBr != brBranch d
      rx := (brDir d).testBit 1 && x.rxBr != brBranch d
      phase := 0 }
    let moves := c.tx = true ∨ c.rx = true
    (x.change.isSome = true → exec (.branch q idx) s = .next s) ∧
    (x.change = none → fselForced s p = true → ∃ t, exec (.branch q idx) s = .next t ∧ Completed s t q.val d stSTATE 0) ∧
    (x.change = none → fselForced s p = false → x.st ≠ .up → ∃ t, exec (.branch q idx) s = .next t ∧ Completed s t q.val d stLINK 0) ∧
    (x.change = none → fselForced s p = false → x.st = .up → ¬ moves → ∃ t, exec (.branch q idx) s = .next t ∧
      Completed s t q.val d stOK 0) ∧
    (x.change = none → fselForced s p = false → x.st = .up → moves → pathReady s p c = false →
      ∃ t, exec (.branch q idx) s = .next t ∧ PortOnly s t p ∧ portOf t p = { x with change := some c } ∧ t.out = s.out) ∧
    (x.change = none → fselForced s p = false → x.st = .up → moves → pathReady s p c = true →
      (∀ u ∈ s.kft.transfers, u.port ≠ p) →
      (c.rx = false → ∃ m t, exec (.branch q idx) s = .next t ∧ ChangeStarted s t p c ∧ Completed m t q.val d stOK 0 ∧
        queueOf m = queueOf s ∧ tokOf m = tokOf s ∧ (portOf t p).change = none) ∧
      (c.rx = true → ∃ t, exec (.branch q idx) s = .next t ∧ ChangeStarted s t p c ∧ PortOnly s t p ∧
        (portOf t p).change = some { c with phase := 1 }))) ∧
  (∀ (s : State) (p : Fin 32) (c : Change), (portOf s p.val).change = some c → c.phase = 0 →
    (pathReady s p.val c = false → exec (.branchPathRelease p) s = .next s) ∧
    (pathReady s p.val c = true → c.branch < 4 → ∃ t, exec (.branchPathRelease p) s = .next t ∧ ChangeStarted s t p.val c) ∧
    (∀ d, findDesc s c.queue c.idx = some d → sigRemote s d = false → ∃ m t, exec (.branchPathTimeout p) s = .next t ∧
      Completed m t c.queue d stLINK 0 ∧ portOf t p.val = { portOf s p.val with change := none } ∧
      (getReg t (Reg.at Reg.FSL_IRQ_STAT p.val)).getLsbD 4 = true)) ∧
  (∀ (s : State) (p : Fin 32), (∀ c, (portOf s p.val).change = some c → c.phase ≠ 0) →
    exec (.branchPathRelease p) s = .next s ∧ exec (.branchPathTimeout p) s = .next s) ∧
  (∀ (s : State) (p : Fin 32) (c : Change), (portOf s p.val).change = some c → let x := portOf s p.val
    (c.phase = 1 → ∃ t, exec (.brTimeoutExpiry p) s = .next t ∧
      portOf t p.val = { x with rxBr := c.branch, change := some { c with phase := 2 } } ∧
      (∀ k, k ≠ p.val → portOf t k = portOf s k) ∧
      t = { s with regs := t.regs, kft := { s.kft with ports := t.kft.ports } } ∧
      getReg t (Reg.at Reg.FPP_CNT_BR_TIMEOUT p.val) = satAdd (getReg s (Reg.at Reg.FPP_CNT_BR_TIMEOUT p.val)) 1) ∧
    (∀ d, c.phase = 2 → findDesc s c.queue c.idx = some d → sigRemote s d = false → ∃ m t, exec (.brTimeoutExpiry p) s = .next t ∧
      Completed m t c.queue d stLINK 0 ∧ portOf t p.val = { x with change := none } ∧
      (getReg t (Reg.at Reg.FPP_IRQ_STAT p.val)).getLsbD 4 = true) ∧
    (0 < c.phase → x.visited.getLsbD c.branch = false → canSend x = true → ∃ t g, exec (.branchRepeat p) s = .next t ∧
      PortOnly s t p.val ∧ t.out = .kft p.val 7#8 g :: s.out ∧ g.epoch = x.epTx ∧ g.branch = BitVec.ofNat 2 x.txBr) ∧
    (c.phase = 0 ∨ x.visited.getLsbD c.branch = true ∨ canSend x = false → exec (.branchRepeat p) s = .next s)) ∧
  (∀ (s : State) (p : Fin 32), (portOf s p.val).change = none →
    exec (.brTimeoutExpiry p) s = .next s ∧ exec (.branchRepeat p) s = .next s) ∧
  (∀ (s : State) (p : Fin 32) (f : KftFrame), FrameArrives s p.val f →
    let m := countedRx s p.val f
    let x := portOf m p.val
    let here := f.branch.toNat = x.txBr
    let echo := bitOf f.arg0 8
    let old := epochOlder x f.epoch
    (∀ c, echo = true → x.change = some c → c.phase = 1 → f.epoch = (if c.tx then x.epTx - 1#8 else x.epTx) →
      ∃ t, exec (.burstEnd p f) s = .next t ∧ PortOnly m t p.val ∧
        portOf t p.val = { x with rxBr := c.branch, change := some { c with phase := 2 } }) ∧
    (∀ c d, echo = true → x.change = some c → c.phase = 2 → f.epoch = x.epTx → findDesc s c.queue c.idx = some d →
      sigRemote s d = false → ∃ u t, exec (.kftBranch p f) s = .next t ∧ Completed u t c.queue d stOK 0 ∧
        portOf t p.val = { x with change := none, visited := x.visited ||| BitVec.ofNat 4 (2 ^ c.branch) }) ∧
    (echo = true → x.change = none → exec (.burstEnd p f) s = .next m ∧ exec (.kftBranch p f) s = .next m) ∧
    (echo = false → old = true → exec (.burstEnd p f) s = .next m ∧ exec (.kftBranch p f) s = .next m) ∧
    (echo = false → old = false → ¬ here → ∃ t, exec (.burstEnd p f) s = .next t ∧ exec (.kftBranch p f) s = .next t ∧
      PortOnly m t p.val ∧ portOf t p.val = { x with epRx := f.epoch } ∧ t.out = s.out) ∧
    (echo = false → old = false → here → x.paused = false → ∃ t, exec (.burstEnd p f) s = .next t ∧
      (portOf t p.val).paused = true ∧ (portOf t p.val).epRx = f.epoch ∧
      (getReg t (Reg.at Reg.FPP_IRQ_STAT p.val)).getLsbD 5 = true ∧
      ∃ g, .kft p.val 6#8 g ∈ t.out ∧ g.epoch = f.epoch ∧ bitOf g.arg0 8 = true) ∧
    (echo = false → old = false → here → ∃ t, exec (.kftBranch p f) s = .next t ∧
      (portOf t p.val).paused = false ∧ (portOf t p.val).epRx = f.epoch ∧
      ∃ g, .kft p.val 7#8 g ∈ t.out ∧ g.epoch = f.epoch ∧ bitOf g.arg0 8 = true))

/-- Every received frame passes the checks of R287 or is dropped and counted; DATA is placed or refused with a NAK,
TOKEN applied once, ACKs sent (06_flow_programs_scheduler_tokens.md R157, 06_flow_programs_scheduler_tokens.md
R169, 06_flow_programs_scheduler_tokens.md R170, 10_links_ports_and_flow_transport.md R287,
10_links_ports_and_flow_transport.md R290, 10_links_ports_and_flow_transport.md R291,
10_links_ports_and_flow_transport.md R292, 10_links_ports_and_flow_transport.md R293). -/
def Obligations.KftFramesAreCheckedPlacedAndAcknowledged : Prop :=
  (∀ (s : State) (p : Fin 32) (f : KftFrame) (c : Instr),
    c ∈ [.kftData p f, .kftToken p f, .kftAck p f, .kftNak p f, .kftCredit p f, .burstEnd p f, .kftBranch p f] →
    ((portOf s p.val).st ≠ .up ∨ f.branch.toNat ≠ (portOf s p.val).rxBr → exec c s = .next s) ∧
    (∀ k, (portOf s p.val).st = .up → f.branch.toNat = (portOf s p.val).rxBr → dropCounter s p.val f = some k →
      ∃ t, exec c s = .next t ∧ Reports [Reg.at k p.val, Reg.at Reg.FPP_IRQ_STAT p.val] (countedRx s p.val f) t ∧
        getReg t (Reg.at k p.val) = satAdd (getReg s (Reg.at k p.val)) 1 ∧
        getReg t (Reg.at Reg.FPP_IRQ_STAT p.val) = getReg s (Reg.at Reg.FPP_IRQ_STAT p.val) ||| 4#32)) ∧
  (∀ (s : State) (p : Fin 32) (f : KftFrame), FrameArrives s p.val f →
    let refused (k reason : Nat) : Prop := ∃ t g, exec (.kftData p f) s = .next t ∧ t.flow = s.flow ∧ t.mem = s.mem ∧
      getReg t (Reg.at k p.val) = satAdd (getReg s (Reg.at k p.val)) 1 ∧
      (getReg t (Reg.at Reg.FPP_IRQ_STAT p.val)).getLsbD 2 = true ∧ PortSends t p.val 4 g ∧
      g.reason = BitVec.ofNat 8 reason ∧ g.seq = f.seq ∧ g.arg0 = 1#32 ∧ g.dst = f.src ∧ g.domain = f.domain ∧ g.stream = f.stream
    (layoutOk f = false → refused Reg.FPP_CNT_FMT 4) ∧
    (layoutOk f = true → windowTouched s p.val f = none → refused Reg.FPP_CNT_NOWIN 1) ∧
    (∀ w, layoutOk f = true → windowTouched s p.val f = some w →
      let o := f.offset.toNat - w.base
      let n := f.payload.length
      let v := placedWindow w o f
      (f.offset.toNat < w.base ∨ w.base + w.len < f.offset.toNat + f.length.toNat → refused Reg.FPP_CNT_BOUNDS 2) ∧
      (w.base ≤ f.offset.toNat → f.offset.toNat + f.length.toNat ≤ w.base + w.len → w.format ≠ f.format.toNat →
        refused Reg.FPP_CNT_FMT 3) ∧
      (∀ d, w.base ≤ f.offset.toNat → f.offset.toNat + f.length.toNat ≤ w.base + w.len → w.format = f.format.toNat →
        windowOf s w.queue w.idx = some w → findDesc s w.queue w.idx = some d → dType d = tyRECV → sigRemote s d = false →
        Usable s (w.dst + o) n → Apart (recordAt s w.queue d) 32 (w.dst + o) n → ∃ m t, exec (.kftData p f) s = .next t ∧
        readBytes t (w.dst + o) n = f.payload ∧
        (∀ a, Apart a 1 (w.dst + o) n → Apart a 1 (recordAt s w.queue d) 32 → readByte t a = readByte s a) ∧
        (f.flags.getLsbD 1 = true ∨ f.flags.getLsbD 2 = true → ∃ g, PortSends t p.val 3 g ∧ g.dst = f.src) ∧
        (runBytes v.placed < w.len → windowOf t w.queue w.idx = some v ∧ findDesc t w.queue w.idx = some d) ∧
        (w.len ≤ runBytes v.placed → Completed m t w.queue { d with done := w.len } stOK 0 ∧ windowOf t w.queue w.idx = none)))) ∧
  (∀ (s : State) (p : Fin 32) (f : KftFrame), FrameArrives s p.val f →
    let key := (f.domain, f.stream, f.seq)
    let k := fld f.arg0 0 12
    let v := f.arg1.toNat
    let x := tokOf s k
    let fits := key ∉ (portOf s p.val).tokens ∧ v ≤ 0xFFFFF ∧ unitSt s (k / 1024) ≠ .failed
    let acked (t : State) : Prop := ∃ g, PortSends t p.val 3 g ∧ g.dst = f.src ∧ g.domain = f.domain ∧ g.stream = f.stream ∧ g.seq = f.seq
    (fits → tokBound s k f.domain.toNat = true → ∃ t, exec (.kftToken p f) s = .next t ∧ acked t ∧ key ∈ (portOf t p.val).tokens ∧
      (∀ j, j ≠ k → tokOf t j = tokOf s j) ∧
      (bitOf f.arg0 31 = true → tokOf t k = { x with value := toWord v, poison := false, src := 0#16 }) ∧
      (bitOf f.arg0 31 = false → tokOf t k = { x with
        value := if 0xFFFFFFFF < x.value.toNat + v then 0xFFFFFFFF#32 else x.value + toWord v })) ∧
    (fits → tokBound s k f.domain.toNat = false → ∃ t, exec (.kftToken p f) s = .next t ∧ acked t ∧ tokOf t = tokOf s ∧
      getReg t (Reg.at Reg.SCH_CNT_TOK_DROP (k / 1024)) = satAdd (getReg s (Reg.at Reg.SCH_CNT_TOK_DROP (k / 1024))) 1) ∧
    (¬ fits → ∃ t, exec (.kftToken p f) s = .next t ∧ acked t ∧ tokOf t = tokOf s)) ∧
  (∀ (s : State) (p : Fin 32), ((∀ u ∈ s.kft.tracks, u.port = p.val → u.owed = 0) → exec (.ackDelayExpiry p) s = .next s) ∧
    ∃ t, exec (.ackDelayExpiry p) s = .next t ∧ t = { s with kft := t.kft, out := t.out } ∧
      (∀ u ∈ t.kft.tracks, u.port = p.val → u.owed = 0) ∧
      ∀ u, s.kft.tracks = [u] → u.port = p.val → 0 < u.owed → ∃ g, PortSends t p.val 3 g ∧ g.dst = u.mac ∧
        g.domain = u.domain ∧ g.stream = u.stream)

/-- ATOMIZE ends or waits for its destinations, its KFT frames go out, and ACK, NAK, CREDIT and RTO drive them to
their end (06_flow_programs_scheduler_tokens.md R173, 06_flow_programs_scheduler_tokens.md R174,
10_links_ports_and_flow_transport.md R289, 10_links_ports_and_flow_transport.md R292,
10_links_ports_and_flow_transport.md R294). -/
def Obligations.AtomizeAndItsTransfers : Prop :=
  (∀ (s : State) (q : Fin 64) (idx : Word) (d : Desc), running s q.val idx tyATOMIZE = some d →
    (∃ t, exec (.atomize q idx []) s = .next t ∧
      (findDesc t q.val idx = none ∨ ∃ e, findDesc t q.val idx = some e ∧ e.ran = true ∧ 1 ≤ e.outstanding) ∧
      (∀ a, Apart a 1 (recordAt s q.val d) 32 → readByte t a = readByte s a) ∧ ∀ k, k ≠ q.val → queueOf t k = queueOf s k) ∧
    (let e := atmEntry d 0
     let p := leAt e 1 1
     let x := portOf s p
     ∀ mac, atmDests d = 1 → leAt e 0 1 = 2 → canSend x = true → peerMac x x.txBr = some mac → d.detail = 0 → 0 < atmLength d →
      Usable s (atmSrc d) (atmLength d) → 0 < fld (getReg s (Reg.at Reg.FPP_KFT_CFG p)) 16 8 → 0 < frameBytes (leAt e 5 1) →
      (∀ u ∈ s.kft.transfers, u.queue ≠ q.val) → ∃ t, exec (.atomize q idx []) s = .next t ∧
      (∃ y, findDesc t q.val idx = some y ∧ y.ran = true) ∧ (portOf t p).transfer = (x.transfer + 1) % 256 ∧
      ∀ y ∈ framesOf (leAt e 5 1) (atmLength d), ∃ g, .kft p 1#8 g ∈ t.out ∧
        g.seq = toWord (x.transfer % 256 * 2 ^ 24 + y.no) ∧ g.dst = mac ∧ g.offset = BitVec.ofNat 48 (leAt e 8 6 + y.at_) ∧
        g.payload = readBytes s (atmSrc d + y.at_) y.len)) ∧
  (∀ (s : State) (q : Fin 64) (idx : Word) (ecc : List EccHit), running s q.val idx tyATOMIZE = none →
    exec (.atomize q idx ecc) s = .next s) ∧
  (∀ (s : State) (p : Fin 32) (f : KftFrame), FrameArrives s p.val f →
    let m := countedRx s p.val f
    let n := Reg.at Reg.FPP_CNT_NAK_RX p.val
    (transferFor s p.val f = none → exec (.kftAck p f) s = .next m ∧ ∃ t, exec (.kftNak p f) s = .next t ∧
      t = { m with regs := t.regs } ∧ getReg t n = satAdd (getReg s n) 1 ∧ ∀ k, k ≠ n → getReg t k = getReg s k) ∧
    (∀ u d, s.kft.transfers = [u] → transferFor s p.val f = some u → findDesc s u.queue u.idx = some d →
      let next := (fld f.seq 0 24 + 1) % 2 ^ 24
      let left := u.frames.filter fun x => x.sends == 0 || !(x.no < next || (x.no < next + 32 && f.arg0.getLsbD (x.no - next)))
      (left ≠ [] → ∃ t, exec (.kftAck p f) s = .next t ∧ t = { m with kft := { m.kft with transfers := [{ u with frames := left }] } }) ∧
      (left = [] → 2 ≤ d.outstanding → ∃ t, exec (.kftAck p f) s = .next t ∧ t.kft.transfers = [] ∧
        findDesc t u.queue u.idx = some { d with outstanding := d.outstanding - 1, done := d.done + atmLength d }) ∧
      (left = [] → d.outstanding = 1 → d.ran = true → d.status = stOK → sigRemote s d = false → ∃ v t,
        exec (.kftAck p f) s = .next t ∧ t.kft.transfers = [] ∧
        Completed v t u.queue { d with outstanding := 0, done := d.done + atmLength d } stOK 0) ∧
      (f.reason = 1#8 → ∃ t, exec (.kftNak p f) s = .next t ∧ t = { m with regs := t.regs } ∧ getReg t n = satAdd (getReg s n) 1) ∧
      (f.reason ≠ 0#8 → f.reason ≠ 1#8 → 2 ≤ d.outstanding → ∃ t e, exec (.kftNak p f) s = .next t ∧ t.kft.transfers = [] ∧
        getReg t n = satAdd (getReg s n) 1 ∧ findDesc t u.queue u.idx = some e ∧ e.outstanding = d.outstanding - 1 ∧
        u.dest ∈ e.destFail ∧ (d.status = stOK → e.status = stLINK)) ∧
      (canSend (portOf s p.val) = false → f.reason = 0#8 →
        let due := u.frames.map fun x =>
          if fld f.seq 0 24 ≤ x.no ∧ x.no < fld f.seq 0 24 + f.arg0.toNat ∧ 0 < x.sends then { x with again := true } else x
        ∃ t, exec (.kftNak p f) s = .next t ∧ getReg t n = satAdd (getReg s n) 1 ∧ t.kft.transfers = [{ u with frames := due }]) ∧
      (canSend (portOf s p.val) = true → (peerMac (portOf s p.val) (portOf s p.val).txBr).isSome = true →
        (f.reason = 0#8 → ∃ t, exec (.kftNak p f) s = .next t ∧ getReg t n = satAdd (getReg s n) 1 ∧
          Resent s t u fun x => decide (fld f.seq 0 24 ≤ x.no ∧ x.no < fld f.seq 0 24 + f.arg0.toNat)) ∧
        (∃ t, exec (.kftCredit p f) s = .next t ∧ Resent s t u fun x =>
          decide (f.offset.toNat ≤ u.base + x.at_ ∧ u.base + x.at_ < fld f.arg0 0 16 * 2 ^ 32 + f.arg1.toNat)))) ∧
    ((∀ u ∈ s.kft.transfers, u.port = p.val → u.domain = f.domain.toNat → u.stream ≠ f.stream.toNat) →
      exec (.kftCredit p f) s = .next m)) ∧
  (∀ (s : State) (p : Fin 32) (u : Transfer) (d : Desc), s.kft.transfers = [u] → u.port = p.val → findDesc s u.queue u.idx = some d →
    (canSend (portOf s p.val) = true → (peerMac (portOf s p.val) (portOf s p.val).txBr).isSome = true →
      ∃ t, exec (.rtoExpiry p) s = .next t ∧ Resent s t u (fun _ => true) ∧ ∀ v ∈ t.kft.tracks, v.port = p.val → v.naked = []) ∧
    (canSend (portOf s p.val) = false → ∃ t, exec (.rtoExpiry p) s = .next t ∧ t.out = s.out ∧
      t.kft.transfers = [{ u with frames := u.frames.map fun x => if 0 < x.sends then { x with again := true } else x }])) ∧
  (∀ (s : State) (p : Fin 32), s.kft.transfers = [] → ∃ t, exec (.rtoExpiry p) s = .next t ∧ t = { s with kft := { s.kft with tracks := t.kft.tracks } } ∧
    ∀ v ∈ t.kft.tracks, v.port = p.val → v.naked = [])

/-- The plane link, the checks of a SAMPLE, the law and the selection of its axes, ACTUATOR frames and lost tiles
(11_plane_steering_loops.md R301, 11_plane_steering_loops.md R303, 11_plane_steering_loops.md R304,
11_plane_steering_loops.md R306, 11_plane_steering_loops.md R309, 11_plane_steering_loops.md R310,
11_plane_steering_loops.md R311, 11_plane_steering_loops.md R312, 11_plane_steering_loops.md R313,
11_plane_steering_loops.md R314, 13_pair_redundancy_and_live_service.md R339,
13_pair_redundancy_and_live_service.md R377). -/
def Obligations.PlaneLinkSamplesAndActuatorFrames : Prop :=
  (∀ (s : State) (lanes : BitVec 4),
    let may := s.ste.training = true ∧ lanes ≠ 0#4 ∧ isOn s (dieIOD + 7) = true ∧ s.pwr.ref156 = true
    (may → ∃ u t, exec (.planeLinkUp lanes) s = .next t ∧ StatusFollows (service s) u t ∧
      u.ste = { s.ste with lanes := lanes, training := false } ∧ planeUp t = true ∧ u.rdn.st = s.rdn.st ∧
      getReg u Reg.PLI_IRQ_STAT = getReg s Reg.PLI_IRQ_STAT ||| 1#32) ∧
    (¬ may → exec (.planeLinkUp lanes) s = .next s)) ∧
  (∀ (s : State) (lane : Fin 4),
    let rest := s.ste.lanes &&& ~~~ (BitVec.ofNat 4 (2 ^ lane.val))
    (s.ste.lanes.getLsbD lane.val = false → exec (.planeLaneLoss lane) s = .next s) ∧
    (s.ste.lanes.getLsbD lane.val = true → rest ≠ 0#4 → ∃ t, exec (.planeLaneLoss lane) s = .next t ∧
      Reports [Reg.PLI_IRQ_STAT] { s with ste := { s.ste with lanes := rest } } t ∧
      getReg t Reg.PLI_IRQ_STAT = getReg s Reg.PLI_IRQ_STAT ||| 4#32) ∧
    (s.ste.lanes.getLsbD lane.val = true → rest = 0#4 → ∃ t, exec (.planeLaneLoss lane) s = .next t ∧ t.ste.lanes = 0#4 ∧
      planeUp t = false ∧ getReg t Reg.PLI_IRQ_STAT = getReg s Reg.PLI_IRQ_STAT ||| 6#32 ∧
      (s.rdn.st = .active → t.rdn.st = .waiting ∧ t.rdn.out = false ∧ (getReg t Reg.RDN_IRQ_STAT).getLsbD 1 = true ∧
        ∀ i ∈ s.ste.order, (entryOf s i).st ≠ 5 → (entryOf t i).st = 0) ∧
      (s.rdn.st = .contending → t.rdn.st = .waiting ∧ t.rdn.out = false) ∧
      (s.rdn.st ≠ .active → s.rdn.st ≠ .contending → t.rdn.st = s.rdn.st ∧ t.rdn.out = s.rdn.out))) ∧
  (∀ (s : State) (bs : List Byte) (k : Nat), planeUp s = true →
    (sampleGood bs = false ∧ k = Reg.PLI_CNT_CRC ∨
      sampleGood bs = true ∧ (tileOf s (leAt bs 1 1)).seen = true ∧ k = Reg.PLI_CNT_STALE ∧
        ((toWord (beAt bs 4 4) - (tileOf s (leAt bs 1 1)).seq).toNat = 0 ∨
          2 ^ 31 ≤ (toWord (beAt bs 4 4) - (tileOf s (leAt bs 1 1)).seq).toNat)) →
    ∃ u t, exec (.sample bs) s = .next t ∧ StatusFollows (service s) u t ∧ Reports [k, Reg.PLI_IRQ_STAT] s u ∧
      getReg u k = satAdd (getReg s k) 1 ∧ getReg u Reg.PLI_IRQ_STAT = getReg s Reg.PLI_IRQ_STAT ||| 8#32) ∧
  (∀ (s : State) (bs : List Byte), planeUp s = false → ∃ t, exec (.sample bs) s = .next t ∧ StatusFollows (service s) s t) ∧
  (∀ (s : State) (bs : List Byte) (k : Nat), Accepts s bs k →
    let x := tileOf s k
    let q := toWord (beAt bs 4 4)
    let gap := (q - x.seq).toNat
    ∃ t, exec (.sample bs) s = .next t ∧
      tileOf t k = { x with
        seen := true
        seq := q
        at_ := s.ns
        actSeq := toWord (beAt bs 8 4)
        actSrc := BitVec.ofNat 8 (leAt bs 12 1)
        parked := (beAt bs 2 2).testBit 0
        hv := (beAt bs 2 2).testBit 1
        lost := false
        history := (x.history ++ [(q, toWord (beAt bs 656 4))]).drop (x.history.length + 1 - 16)
        due := true
        held := holdsClaim s
        silent := if partnerUp s then x.silent + 1 else 0 } ∧
      (∀ j, j ≠ k → tileOf t j = tileOf s j) ∧ (∀ j, j < 64 → tapOf t (64 * k + j) = (mirSample bs j).tap) ∧
      getReg t Reg.PLI_CNT_GAP = (if x.seen = true ∧ 1 < gap then satAdd (getReg s Reg.PLI_CNT_GAP) (gap - 1)
        else getReg s Reg.PLI_CNT_GAP) ∧
      ((beAt bs 2 2).testBit 1 = true → x.hv = false → (getReg t Reg.PLI_IRQ_STAT).getLsbD 5 = true) ∧
      ∀ w ∈ t.ste.writes, writeAxis w / 128 ≠ k) ∧
  (∀ (s : State) (bs : List Byte) (a j : Nat), Accepts s bs (a / 128) → 128 ≤ a → j < 4 → Steady s a →
    (∀ i, i < 4 → slotEn (slotOf s (4 * a + i)) = decide (i = j)) → (axisOf s a).winner = some j →
    let x := slotOf s (4 * a + j)
    let m := mirSample bs (a % 128 / 2)
    let y := measY x m a
    let r := setPoint s a x
    let e := sat32 (r - y)
    let f := sh (sw x.kf * r) (fld x.shifts 24 5)
    let p := sh (sw x.kp * e) (fld x.shifts 0 5)
    let d := sh (sw x.kd * ((if x.ySet then sw x.yPrev else y) - y)) (fld x.shifts 16 5)
    let c := sat32 (f + p + sw x.integ + sh (sw x.ki * e) (fld x.shifts 8 5) + d)
    let u := min (max c (sw x.outMin)) (sw x.outMax)
    let out := c < sw x.outMin ∨ sw x.outMax < c
    ∃ t, exec (.sample bs) s = .next t ∧
      slotOf t (4 * a + j) = { x with
        integ := if out then ofI (sw x.integ) else ofI (sat32 (sw x.integ + sh (sw x.ki * e) (fld x.shifts 8 5)))
        r := ofI r
        rSet := true
        yPrev := ofI y
        ySet := true
        u := ofI u
        e := ofI e
        sat := decide out
        integd := !decide out
        held := false } ∧
      axisOf t a = { axisOf s a with uOut := ofI u, code := (clampI 0 65535 (u / 2 ^ 15)).toNat, driven := true, late := false }) ∧
  (∀ (s : State) (bs : List Byte) (a : Nat), Accepts s bs (a / 128) → 128 ≤ a → Steady s a →
    let x (j : Nat) : Slot := slotOf s (4 * a + j)
    let m := mirSample bs (a % 128 / 2)
    let law (j : Nat) : Terms := lawTerms s a (x j) m
    let on (j : Nat) : Prop := j < 4 ∧ slotEn (x j) = true
    let hyst : Int := Int.ofNat ((axisOf s a).hyst.toNat % 2 ^ 31)
    ((∀ j, ¬ on j) → ∃ t, exec (.sample bs) s = .next t ∧ axisOf t a = { axisOf s a with winner := none, late := false } ∧
      ∀ j, j < 4 → slotOf t (4 * a + j) = x j) ∧
    ((∃ j, on j) → ∃ t j, exec (.sample bs) s = .next t ∧ on j ∧ (axisOf t a).winner = some j ∧
      (∀ w, (axisOf s a).winner = some w → on w →
        (j = w ∧ ∀ k, on k → (law w).u - hyst ≤ (law k).u) ∨
        ((law j).u < (law w).u - hyst ∧ ∀ k, on k → (law j).u ≤ (law k).u ∧ ((law k).u = (law j).u → j ≤ k))) ∧
      ((∀ w, (axisOf s a).winner = some w → ¬ on w) →
        ∀ k, on k → (law j).u ≤ (law k).u ∧ ((law k).u = (law j).u → j ≤ k)) ∧
      (∀ k, on k → k ≠ j → (slotOf t (4 * a + k)).integ = (x k).integ ∧ (slotOf t (4 * a + k)).u = ofI (law k).u) ∧
      ((axisOf s a).winner ≠ some j →
        let prev : Int := if (axisOf s a).winner = none ∧ (axisOf s a).driven = false then Int.ofNat (driveOf m a) * 2 ^ 15
          else sw (axisOf s a).uOut
        let T := law j
        let i := min (max (sat32 (prev - T.f - T.p - T.d)) (sw (x j).outMin)) (sw (x j).outMax)
        let u := min (max (sat32 (T.f + T.p + i + T.d)) (sw (x j).outMin)) (sw (x j).outMax)
        (slotOf t (4 * a + j)).integ = ofI i ∧ (axisOf t a).uOut = ofI u ∧
          (axisOf t a).code = (clampI 0 65535 (u / 2 ^ 15)).toNat) ∧
      ((axisOf s a).winner = some j → (axisOf t a).uOut = ofI (law j).u ∧
        (axisOf t a).code = (clampI 0 65535 ((law j).u / 2 ^ 15)).toNat))) ∧
  (∀ (s : State) (bs : List Byte), Accepts s bs 0 → (beAt bs 4 4) % 16 = 0 → s.rdn.st = .active → partnerUp s = true →
    s.rdn.syncReq = false → ∃ t, exec (.sample bs) s = .next t ∧ ∀ k, k < 9 → ∃ m : SteerMsg, SteerSent t 0x01 m ∧
      m.b28 = toWord (beAt bs 4 4) ∧ m.b32 = BitVec.ofNat 16 (2048 * k) ∧ m.b34 = 2048#16) ∧
  (∀ (s : State) (k : Fin 36) (late : List Nat), (tileOf s k.val).due = false →
    ∃ t, exec (.actuator k late) s = .next t ∧ StatusFollows (service s) s t) ∧
  (∀ (s : State) (k : Fin 36), (tileOf s k.val).due = true →
    let sends := (tileOf s k.val).held = true ∧ holdsClaim s = true
    ∃ t, exec (.actuator k []) s = .next t ∧ (tileOf t k.val).due = false ∧
      (sends → .actuator k.val (actuatorBytes s k.val false) ∈ t.out ∧
        getReg t Reg.PLI_CNT_ACT = getReg s Reg.PLI_CNT_ACT + 1#32) ∧
      (¬ sends → getReg t Reg.PLI_CNT_ACT = getReg s Reg.PLI_CNT_ACT ∧ ∀ j b, .actuator j b ∈ t.out → .actuator j b ∈ s.out) ∧
      (s.rdn.st = .active ∨ s.rdn.st = .standby → partnerUp s = true → SteerSent t 0x10 (outputMsg s k.val)) ∧
      t.ste.slots = s.ste.slots ∧ t.ste.axes = s.ste.axes) ∧
  (∀ (s : State) (k : Fin 36) (a : Nat) (x : Axis) (sl : List Slot), (tileOf s k.val).due = true → a / 128 = k.val →
    tget (fun _ => none) s.ste.before a = some (x, sl) → sl.length = 4 →
    let miss := Reg.at Reg.LPE_CNT_DL_MISS (axisEngine s a)
    ∃ t, exec (.actuator k [a]) s = .next t ∧ axisOf t a = { x with late := true, engine := (axisOf s a).engine } ∧
      (∀ j y, sl[j]? = some y → slotOf t (4 * a + j) = y) ∧ getReg t miss = satAdd (getReg s miss) 1 ∧
      ((tileOf s k.val).held = true → holdsClaim s = true → ∃ b, .actuator k.val b ∈ t.out ∧ beAt b 2 2 = 1 ∧
        beAt b (16 + 2 * (a % 128)) 2 = x.code % 65536)) ∧
  (∀ (s : State) (k : Fin 36),
    let costs := s.rdn.st = .active ∧ s.rdn.heard = true ∧ s.rdn.pState = 0x13 ∧
      ∃ j, j < 36 ∧ (j = k.val ∨ (tileOf s j).lost = true) ∧ s.rdn.pLost.getLsbD j = false
    ((tileOf s k.val).lost = true ∨ planeUp s = false → ∃ t, exec (.tileLost k) s = .next t ∧ StatusFollows (service s) s t) ∧
    ((tileOf s k.val).lost = false → planeUp s = true → ∃ t, exec (.tileLost k) s = .next t ∧
      tileOf t k.val = { tileOf s k.val with lost := true } ∧ (∀ j, j ≠ k.val → tileOf t j = tileOf s j) ∧
      getReg t Reg.PLI_IRQ_STAT = getReg s Reg.PLI_IRQ_STAT ||| 16#32 ∧
      (costs → t.rdn.st = .standby ∧ t.rdn.out = false ∧ (getReg t Reg.RDN_IRQ_STAT).getLsbD 1 = true) ∧
      (¬ costs → t.rdn = { s.rdn with lastStatus := t.rdn.lastStatus })))

/-- Loop engines drain, hold, reset, test and fault; axes move; slot and trim writes wait for a sample; auto-tune
and jog commands (11_plane_steering_loops.md R308, 11_plane_steering_loops.md R315, 11_plane_steering_loops.md
R316, 11_plane_steering_loops.md R317, 11_plane_steering_loops.md R321, 11_plane_steering_loops.md R323,
11_plane_steering_loops.md R324, 11_plane_steering_loops.md R340, 13_pair_redundancy_and_live_service.md R384,
13_pair_redundancy_and_live_service.md R385). -/
def Obligations.LoopEnginesSlotsAutoTuneAndJog : Prop :=
  (∀ (s : State) (who : Requester) (e : Fin 48), Reaches s who 0x40 e.val 0x008 →
    let irq := Reg.at Reg.LPE_IRQ_STAT e.val
    (lpeState s e.val = 0x10 → 32 < runningEngines s → ∃ t, exec (.lpeHold who e) s = .next t ∧
      t = { s with regs := t.regs, ste := { s.ste with draining := t.ste.draining } } ∧ lpeState t e.val = 0x11 ∧
      enOf t 0x40 e.val = enOf s 0x40 e.val ∧ (∀ k, k < 48 → k ≠ e.val → lpeState t k = lpeState s k) ∧
      ∀ k, k ≠ pageKey 0x40 e.val + 0x008 → getReg t k = getReg s k) ∧
    (lpeState s e.val = 0x10 → runningEngines s ≤ 32 → ∃ t, exec (.lpeHold who e) s = .next t ∧ RefusedWith s t 0x40 e.val stCAPACITY) ∧
    (holdOf s 0x40 e.val = false → lpeState s e.val ≠ 0x10 → ∃ t, exec (.lpeHold who e) s = .next t ∧ RefusedWith s t 0x40 e.val stSTATE) ∧
    (holdOf s 0x40 e.val = true → ∃ t, exec (.lpeHold who e) s = .next t ∧ HoldSet s t 0x40 e.val true) ∧
    (lpeState s e.val = 0x12 ∨ holdOf s 0x40 e.val = false → ∃ t, exec (.lpeRelease who e) s = .next t ∧ HoldSet s t 0x40 e.val false ∧
      (lpeState s e.val = 0x12 → lpeState t e.val = 0x10)) ∧
    (lpeState s e.val ≠ 0x12 → holdOf s 0x40 e.val = true → ∃ t, exec (.lpeRelease who e) s = .next t ∧ RefusedWith s t 0x40 e.val stSTATE) ∧
    (lpeState s e.val = 0x12 → ∃ t, exec (.lpeSoftReset who e) s = .next t ∧ PageReset s t 0x40 e.val true) ∧
    (lpeState s e.val ≠ 0x12 → ∃ t, exec (.lpeSoftReset who e) s = .next t ∧ RefusedWith s t 0x40 e.val stSTATE) ∧
    (lpeState s e.val = 0x11 → engineAxes s e.val = [] → ∃ t, exec (.lpeDrainDone e) s = .next t ∧ lpeState t e.val = 0x12 ∧
      Reports [irq] { s with ste := { s.ste with draining := t.ste.draining } } t ∧ getReg t irq = getReg s irq ||| 4#32) ∧
    (lpeState s e.val ≠ 0x11 ∨ engineAxes s e.val ≠ [] → exec (.lpeDrainDone e) s = .next s)) ∧
  (∀ (s : State) (who : Requester) (e : Fin 48), Commands s who 0x40 e.val 0x04C →
    (lpeState s e.val = 0x12 → exec (.lpeTest who e) s = .next (setEng s 0x40 e.val
      { engOf s 0x40 e.val with testing := true, fromReset := false })) ∧
    (lpeState s e.val ≠ 0x12 → ∃ t, exec (.lpeTest who e) s = .next t ∧ RefusedWith s t 0x40 e.val stSTATE)) ∧
  (∀ (s : State) (e : Fin 48),
    (lpeState s e.val = 0x10 ∨ lpeState s e.val = 0x11 → ∃ t, exec (.loopEngineFault e) s = .next t ∧ lpeState t e.val = 0x14 ∧
      t = setEng s 0x40 e.val { engOf s 0x40 e.val with faulty := true }) ∧
    (lpeState s e.val ≠ 0x10 → lpeState s e.val ≠ 0x11 → exec (.loopEngineFault e) s = .next s)) ∧
  (∀ (s : State) (a : Fin 4608),
    let e := axisEngine s a.val
    let room (k : Nat) : Prop := k < 48 ∧ lpeState s k = 0x10 ∧ enOf s 0x40 k = true ∧ 4 * (engineAxes s k).length + 4 ≤ 576 ∧
      tileSlotsOn s k (a.val / 128) + 4 ≤ 16
    let leaves := lpeState s e = 0x11 ∨ lpeState s e = 0x14
    (leaves → (∃ k, room k) → ∃ t k, exec (.axisMigrate a) s = .next t ∧ room k ∧ axisEngine t a.val = k ∧
      (∀ j, room j → (engineAxes s k).length ≤ (engineAxes s j).length ∧
        ((engineAxes s j).length = (engineAxes s k).length → k ≤ j)) ∧
      t = { s with ste := { s.ste with axes := t.ste.axes } } ∧ (∀ b, b ≠ a.val → axisOf t b = axisOf s b) ∧
      axisOf t a.val = { axisOf s a.val with engine := (axisOf t a.val).engine }) ∧
    (¬ leaves ∨ (∀ k, ¬ room k) → exec (.axisMigrate a) s = .next s)) ∧
  (∀ (s : State) (who : Requester) (o : BitVec 12) (v : Word), o.toNat = 0x148 ∨ (0x104 ≤ o.toNat ∧ o.toNat ≤ 0x12C ∧ o.toNat % 4 = 0) →
    Reaches s who 0x40 0 o.toNat →
    let k := fld (getReg s Reg.LPE_SLOT_SEL) 0 15
    let w := slotMask o.toNat v
    let tuned := o.toNat ≠ 0x148 ∧ underTune s k = true
    let illegal := (o.toNat = 0x104 ∧ (3 < fld w 4 3 ∨ fld w 8 2 = 3 ∨ (fld w 4 3 = 2 ∧ 7 < fld w 12 3) ∨
        (fld w 4 3 = 3 ∧ 3 < fld w 12 3) ∨ (fld w 4 3 = 0 ∧ fld w 8 2 ≠ 0))) ∨
      (o.toNat = 0x11C ∧ sw (slotReg s k 0x120) < sw w) ∨ (o.toNat = 0x120 ∧ sw w < sw (slotReg s k 0x11C))
    (tuned → ∃ t, exec (.slotWrite who o v) s = .next t ∧ RefusedWith s t 0x40 0 stSTATE) ∧
    (¬ tuned → illegal → ∃ t, exec (.slotWrite who o v) s = .next t ∧ RefusedWith s t 0x40 0 stRANGE) ∧
    (¬ tuned → ¬ illegal → s.rdn.st = .standby ∨ s.rdn.st = .syncing →
      ∃ t, exec (.slotWrite who o v) s = .next t ∧ RefusedWith s t 0x40 0 stSTATE) ∧
    (¬ tuned → ¬ illegal → s.rdn.st ≠ .standby → s.rdn.st ≠ .syncing → exec (.slotWrite who o v) s = .next
      { s with ste := { s.ste with writes := s.ste.writes ++ [(k, o.toNat, w)] } })) ∧
  (∀ (s : State) (who : Requester) (on : Bool), Reaches s who 0x40 0 0x104 →
    let k := fld (getReg s Reg.LPE_SLOT_SEL) 0 15
    let w := slotMask 0x104 (putFld (slotReg s k 0x104) 1 1 (b2n on))
    (underTune s k = true → ∃ t, exec (.slotHold who on) s = .next t ∧ RefusedWith s t 0x40 0 stSTATE) ∧
    (underTune s k = false → slotCfgOk w = true → s.rdn.st ≠ .standby → s.rdn.st ≠ .syncing →
      exec (.slotHold who on) s = .next { s with ste := { s.ste with writes := s.ste.writes ++ [(k, 0x104, w)] } })) ∧
  (∀ (s : State) (who : Requester) (y : Bool) (v : Word), Reaches s who 0x42 0 (if y then 0x0BC else 0x0B8) →
    let m := fld (getReg s Reg.ACD_MIR_SEL) 0 12
    let after : State := { s with ste := { s.ste with writes := s.ste.writes ++ [(m, if y then 0x0BC else 0x0B8, v)] } }
    (s.rdn.st = .standby ∨ s.rdn.st = .syncing → ∃ t, exec (.mirTrimWrite who y v) s = .next t ∧ RefusedWith s t 0x42 0 stSTATE) ∧
    (s.rdn.st ≠ .standby → s.rdn.st ≠ .syncing → s.rdn.st ≠ .active → exec (.mirTrimWrite who y v) s = .next after) ∧
    (s.rdn.st = .active → ∃ t, exec (.mirTrimWrite who y v) s = .next t ∧ t.ste = after.ste ∧ t.regs = s.regs ∧
      (partnerUp s = true → ∃ d : SteerMsg, SteerSent t 0x12 d ∧ d.b28 = seq0 s ∧ d.b32 = BitVec.ofNat 16 m ∧
        beAt d.data (if y then 4 else 0) 4 = v.toNat))) ∧
  (∀ (s : State) (who : Requester), Commands s who 0x40 0 0x150 →
    let k := fld (getReg s Reg.LPE_AT_SLOT_SEL) 0 15
    let m := k / 8
    let i := if m < 1152 then m else feederOf s.ste.present (m - 1152)
    let limits := slotEn (slotOf s k) = true ∧ k ≤ 18431 ∧ getRegN s Reg.LPE_AT_H % 2 ^ 31 ≠ 0 ∧
      getRegN s Reg.LPE_AT_EPS % 2 ^ 31 < getRegN s Reg.LPE_AT_AMAX % 2 ^ 31
    let may := s.rdn.st = .active ∧ (i = 0xFFFF ∨ circuitUp s i = false) ∧ ∀ mv, s.ste.move = some mv → m ∉ mv.moved
    let b := (axisOf s (k / 4)).uOut
    (¬ limits → ∃ t, exec (.autotuneGo who) s = .next t ∧ RefusedWith s t 0x40 0 stRANGE) ∧
    (limits → s.ste.tune.running = true → ∃ t, exec (.autotuneGo who) s = .next t ∧ RefusedWith s t 0x40 0 stRESOURCE) ∧
    (limits → s.ste.tune.running = false → ¬ may → ∃ t, exec (.autotuneGo who) s = .next t ∧ RefusedWith s t 0x40 0 stSTATE) ∧
    (limits → s.ste.tune.running = false → may → (∀ g, g < 18 → g ∈ gensBusy s) →
      ∃ t, exec (.autotuneGo who) s = .next t ∧ RefusedWith s t 0x40 0 stRESOURCE) ∧
    (limits → s.ste.tune.running = false → may → (∃ g, g < 18 ∧ g ∉ gensBusy s) → ∃ t g, exec (.autotuneGo who) s = .next t ∧
      g < 18 ∧ g ∉ gensBusy s ∧ (∀ j, j < g → j ∈ gensBusy s) ∧
      t = { s with
        regs := t.regs
        ste := { s.ste with tune := { running := true, slot := k, gen := g, bias := b, relay := b } } } ∧
      ∀ k, k ≠ Reg.LPE_AT_RESULT → getReg t k = getReg s k) ∧
    (s.ste.tune.running = false → exec (.autotuneStop who) s = .next s)) ∧
  (∀ (s : State) (who : Requester) (c : Instr) (st det : Nat), s.ste.tune.running = true →
    (c = .autotuneStop who ∧ Commands s who 0x40 0 0x150 ∧ st = stABORTED ∧ det = 0x14 ∨ c = .autotuneTimeout ∧ st = stDEADLINE ∧ det = 0) →
    ∃ t, exec c s = .next t ∧ Reports [Reg.LPE_AT_RESULT, Reg.LPE_IRQ_STAT] { s with ste := { s.ste with
        tune := { s.ste.tune with running := false, ending := true, relay := s.ste.tune.bias } } } t ∧
      fld (getReg t Reg.LPE_AT_RESULT) 0 16 = st ∧ fld (getReg t Reg.LPE_AT_RESULT) 16 8 = det ∧
      getReg t Reg.LPE_IRQ_STAT = getReg s Reg.LPE_IRQ_STAT ||| 8#32) ∧
  (∀ (s : State), s.ste.tune.running = false → exec .autotuneTimeout s = .next s) ∧
  (∀ (s : State) (k : Fin 4) (a b : Bool),
    let was := tget (fun _ => 0) s.ste.jogIn k.val
    let d := (jogPhase a b + 4 - was) % 4
    let n := fld (getReg s Reg.LPE_JOG_ERR) (8 * k.val) 8
    ∃ t, exec (.jogEdge k a b) s = .next t ∧ tget (fun _ => 0) t.ste.jogIn k.val = jogPhase a b ∧
      (∀ j, j ≠ k.val → jogCount t j = jogCount s j) ∧
      jogCount t k.val = jogCount s k.val + (if d = 1 then 1#32 else if d = 3 then 0xFFFFFFFF#32 else 0#32) ∧
      (d ≠ 2 → t = { s with ste := { s.ste with jogIn := t.ste.jogIn, jogs := t.ste.jogs } }) ∧
      (d = 2 → Reports [Reg.LPE_JOG_ERR, Reg.LPE_IRQ_STAT] { s with ste := { s.ste with jogIn := t.ste.jogIn } } t ∧
        fld (getReg t Reg.LPE_JOG_ERR) (8 * k.val) 8 = min 255 (n + 1) ∧
        getReg t Reg.LPE_IRQ_STAT = getReg s Reg.LPE_IRQ_STAT ||| 16#32)) ∧
  (∀ (s : State) (who : Requester) (mask : BitVec 4), Reaches s who 0x40 0 0x190 → enOf s 0x40 0 = true →
    ((∃ k, k < 4 ∧ mask.getLsbD k = true ∧ jogUsed s k = true) →
      ∃ t, exec (.jogClear who mask) s = .next t ∧ RefusedWith s t 0x40 0 stSTATE) ∧
    ((∀ k, k < 4 → mask.getLsbD k = true → jogUsed s k = false) → ∃ t, exec (.jogClear who mask) s = .next t ∧
      t = { s with ste := { s.ste with jogs := t.ste.jogs } } ∧
      ∀ k, jogCount t k = if mask.getLsbD k = true then 0#32 else jogCount s k))

/-- Accord entries are queued, loaded, validated and announced, commit and end at tile-0 samples; timeouts, retries,
aborts (11_plane_steering_loops.md R326, 11_plane_steering_loops.md R328, 11_plane_steering_loops.md R329,
11_plane_steering_loops.md R330, 11_plane_steering_loops.md R331, 11_plane_steering_loops.md R332,
11_plane_steering_loops.md R333, 11_plane_steering_loops.md R335, 11_plane_steering_loops.md R336,
11_plane_steering_loops.md R337). -/
def Obligations.AccordsQueueValidateMoveAndEnd : Prop :=
  (∀ (s : State) (who : Requester), Commands s who 0x42 0 0x074 →
    let w := getReg s Reg.ACD_Q_WAIT
    let g := getReg s Reg.ACD_Q_SIG
    let shape := qAddr s % 64 = 0 ∧ inSramOrStack (qAddr s) = true ∧ getRegN s Reg.ACD_Q_SIG_INC ≤ 0xFFFFF
    let mine := inRegion s (qDomain s) (qAddr s) 4672 = true ∧ (bitOf w 15 = true → (tokOf s (fld w 0 12)).bound.isSome = true) ∧
      (bitOf g 15 = true → (tokOf s (fld g 0 12)).bound.isSome = true)
    let refused (st : Nat) : Prop := ∃ t, exec (.accordLoad who) s = .next t ∧ RefusedWith s t 0x42 0 st
    (¬ shape → refused stRANGE) ∧ (shape → ¬ mine → refused stAUTH) ∧ (shape → mine → service s ≠ 3 → refused stSTATE) ∧
    (shape → mine → service s = 3 → (∀ i, i < 16 → (entryOf s i).st ≠ 0) → refused stRESOURCE) ∧
    (shape → mine → service s = 3 → (∃ i, i < 16 ∧ (entryOf s i).st = 0) → ∃ t i, exec (.accordLoad who) s = .next t ∧
      i < 16 ∧ (entryOf s i).st = 0 ∧ (∀ j, j < i → (entryOf s j).st ≠ 0) ∧
      entryOf t i = {
        st := 1
        addr := qAddr s
        domain := BitVec.ofNat 12 (qDomain s)
        accord := getReg s Reg.ACD_Q_ACCORD
        wait := w
        thr := getReg s Reg.ACD_Q_WAIT_THR
        sig := g
        inc := getReg s Reg.ACD_Q_SIG_INC } ∧ (∀ j, j ≠ i → entryOf t j = entryOf s j) ∧
      t = { s with
        regs := t.regs
        ste := { s.ste with
          entries := t.ste.entries
          order := s.ste.order ++ [i] } } ∧
      getReg t Reg.ACD_LAST_RESULT = toWord (stOK + i * 2 ^ 24) ∧
      ∀ k, k ≠ Reg.ACD_LAST_RESULT → k ≠ pageKey 0x42 0 + 0x074 → getReg t k = getReg s k)) ∧
  (∀ (s : State) (who : Requester) (i : BitVec 4), Commands s who 0x42 0 0x074 →
    ((entryOf s i.toNat).st = 0 ∨ (entryOf s i.toNat).st = 5 →
      ∃ t, exec (.accordAbort who i) s = .next t ∧ RefusedWith s t 0x42 0 stSTATE) ∧
    ((entryOf s i.toNat).st ≠ 0 → (entryOf s i.toNat).st ≠ 5 →
      ∃ t, exec (.accordAbort who i) s = .next t ∧ QueueEnded s t i.toNat stABORTED 0)) ∧
  (∀ (s : State), (∀ i, frontEntry s = some i → (entryOf s i).st ≠ 1) → exec .accordEntryLoad s = .next s) ∧
  (∀ (s : State), (∀ i, frontEntry s = some i → (entryOf s i).st ≠ 2) → exec (.accordLoadDone []) s = .next s) ∧
  (∀ (s : State), (∀ i, frontEntry s = some i → (entryOf s i).st ≠ 3) → exec .accordValidateDone s = .next s) ∧
  (∀ (s : State) (i : Nat), frontEntry s = some i →
    let e := entryOf s i
    let k := fld e.wait 0 12
    let poisoned := bitOf e.wait 15 = true ∧ (tokOf s k).poison = true
    let ready := holdOf s 0x42 0 = false ∧ (bitOf e.wait 15 = true → waitMet s k e.thr.toNat = true)
    (e.st = 1 → poisoned → ∃ t, exec .accordEntryLoad s = .next t ∧ QueueEnded s t i stABORTED 0) ∧
    (e.st = 1 → ¬ poisoned → ¬ ready → exec .accordEntryLoad s = .next s) ∧
    (e.st = 1 → ¬ poisoned → ready → exec .accordEntryLoad s = .next (setEntry s i { e with st := 2 })) ∧
    (e.st = 2 → inRegion s e.domain.toNat e.addr 4672 = false →
      ∃ t, exec (.accordLoadDone []) s = .next t ∧ QueueEnded s t i stAUTH 0) ∧
    (e.st = 2 → inRegion s e.domain.toNat e.addr 4672 = true → Usable s e.addr 4672 → ∃ t, exec (.accordLoadDone []) s = .next t ∧
      t.ste = { s.ste with entries := t.ste.entries } ∧ entryOf t i = { e with st := 3, raw := readBytes s e.addr 4672 } ∧
      ∀ j, j ≠ i → entryOf t j = entryOf s j) ∧
    (e.st = 2 → inRegion s e.domain.toNat e.addr 4672 = true → ¬ Usable s e.addr 4672 →
      ∃ t, exec (.accordLoadDone []) s = .next t ∧ QueueEnded s t i (rangeReadStatus s e.addr 4672) 0)) ∧
  (∀ (s : State) (i : Nat), frontEntry s = some i → (entryOf s i).st = 3 →
    let e := entryOf s i
    let r := validateTable s e.raw s.ste.present
    let x := parseTable e.raw
    let now := e.commitSeq = none ∧ s.ste.move = none ∧ holdOf s 0x42 0 = false
    let c := (tileOf s 0).seq + toWord ((s.ns.toNat + 40000 - (tileOf s 0).at_.toNat + 19999) / 20000)
    (r.1 ≠ stOK → ∃ t, exec .accordValidateDone s = .next t ∧ QueueEnded s t i r.1 r.2) ∧
    (r.1 = stOK → x.number ≠ e.accord → ∃ t, exec .accordValidateDone s = .next t ∧ QueueEnded s t i stORDER 0x30) ∧
    (r.1 = stOK → x.number = e.accord → ∃ t, exec .accordValidateDone s = .next t ∧
      t.ste = { s.ste with entries := t.ste.entries } ∧ t.regs = s.regs ∧ (∀ j, j ≠ i → entryOf t j = entryOf s j) ∧
      (¬ now → entryOf t i = { e with st := 4, table := x, passed := s.ns }) ∧
      (now → entryOf t i = { e with st := 4, table := x, passed := s.ns, commitSeq := some c } ∧
        (partnerUp s = true → ∃ m : SteerMsg, SteerSent t 0x03 m ∧ m.b28 = c ∧ m.b32 = BitVec.ofNat 16 i ∧ m.b36 = x.number ∧
          m.data = e.raw)))) ∧
  (∀ (s : State) (bs : List Byte) (i : Nat) (c : Word), Accepts s bs 0 → frontEntry s = some i → (entryOf s i).st = 4 →
    (entryOf s i).commitSeq = some c → seqReached (toWord (beAt bs 4 4)) c = true → s.ste.move = none → s.rdn.syncReq = false →
    s.ste.follow = [] → ∃ t mv, exec (.sample bs) s = .next t ∧ t.ste.present = (entryOf s i).table ∧ (entryOf t i).st = 5 ∧
      t.ste.move = some mv ∧ mv.number = (entryOf s i).table.number ∧ mv.entry = some i ∧ mv.commitSeq = c ∧
      mv.moved = movedMirrors s.ste.present (entryOf s i).table ∧ mv.old = s.ste.present ∧
      getReg t Reg.ACD_COMMIT_SEQ = c ∧ (getReg t Reg.ACD_IRQ_STAT).getLsbD 0 = true) ∧
  (∀ (s : State) (bs : List Byte) (mv : Move), Accepts s bs 0 → s.ste.move = some mv → (∀ g ∈ mv.groups, g.phase = 4) →
    s.rdn.syncReq = false → s.ste.follow = [] →
    let k := fld mv.sig 0 12
    let bound := bitOf mv.sig 15 = true ∧ (tokOf s k).bound.isSome = true ∧ unitSt s (tokDie k) ≠ .failed
    let bad := bitOf mv.sig 16 = true ∧ ∃ m ∈ mv.moved, mirOf s m = 6
    ∃ t, exec (.sample bs) s = .next t ∧ t.ste.doneNum = mv.number ∧
      getReg t Reg.ACD_CNT_DONE = getReg s Reg.ACD_CNT_DONE + 1#32 ∧ (getReg t Reg.ACD_IRQ_STAT).getLsbD 1 = true ∧
      (∀ i, mv.entry = some i → (entryOf t i).st = 0 ∧ getReg t Reg.ACD_LAST_ACCORD = mv.number ∧
        getReg t Reg.ACD_LAST_RESULT = toWord (stOK + i * 2 ^ 24)) ∧
      (bad → (getReg t Reg.ACD_IRQ_STAT).getLsbD 3 = true ∧ (bound → (tokOf t k).poison = true)) ∧
      (¬ bad → bound → accordWaits s = [] → (tokOf t k).value =
        (if 0xFFFFFFFF < (tokOf s k).value.toNat + mv.inc.toNat then 0xFFFFFFFF#32 else (tokOf s k).value + mv.inc))) ∧
  (∀ (s : State) (i : Fin 18), (∀ mv g, s.ste.move = some mv → mv.groups[i.val]? = some g → g.phase ≠ 2) →
    exec (.groupSettleTimeout i) s = .next s) ∧
  (∀ (s : State) (i : Fin 18), (∀ mv g, s.ste.move = some mv → mv.groups[i.val]? = some g → g.phase ≠ 3) →
    exec (.peakTimeout i) s = .next s) ∧
  (∀ (s : State) (i : Fin 18) (mv : Move) (g : Group), s.ste.move = some mv → mv.groups[i.val]? = some g →
    (g.phase = 2 → ∃ t nv h, exec (.groupSettleTimeout i) s = .next t ∧ t.ste.move = some nv ∧ nv.groups[i.val]? = some h ∧
      (h.phase = 3 ∨ h.phase = 4) ∧ (∀ j, j ≠ i.val → nv.groups[j]? = mv.groups[j]?) ∧
      ∀ m ∈ g.mirrors, mirOf s m = 2 → tget (fun _ => 0) s.ste.settled m < 10 →
        (m < 1152 ∨ ∀ q, peerOf s.ste.present q = m - 1152 → q = feederOf s.ste.present (m - 1152)) → mirOf t m = 6) ∧
    (g.phase = 3 → ∃ t, exec (.peakTimeout i) s = .next t ∧
      t.ste.move = some { mv with groups := mv.groups.set i.val { g with
        phase := 4
        gen := none
        pairs := g.pairs.map fun p => { p with ended := true } } } ∧
      t = { s with ste := { s.ste with move := t.ste.move, mirrors := t.ste.mirrors } } ∧
      (∀ m, (∀ p ∈ g.pairs, p.ended = false → m ≠ p.tx ∧ m ≠ p.rx) → mirOf t m = mirOf s m) ∧
      ∀ p ∈ g.pairs, p.ended = false → (∀ q ∈ g.pairs, q ≠ p → p.tx ≠ q.tx ∧ p.tx ≠ q.rx ∧ p.rx ≠ q.tx ∧ p.rx ≠ q.rx) →
        mirOf t p.tx = (if isLit s p.rx then 4 else 6) ∧ mirOf t p.rx = (if isLit s p.rx then 4 else 6))) ∧
  (∀ (s : State) (mv : Move), s.ste.move = some mv → exec .peakRetry s = .next s) ∧
  (∀ (s : State), s.ste.move = none →
    let due (i : Nat) : Prop := i < 1152 ∧ peerOf s.ste.present i ≠ 0xFFFF ∧ (mirOf s i = 5 ∨ mirOf s i = 6) ∧
      (mirOf s (1152 + peerOf s.ste.present i) = 5 ∨ mirOf s (1152 + peerOf s.ste.present i) = 6) ∧ ∀ p ∈ s.ste.retries, p.tx ≠ i
    ∃ t, exec .peakRetry s = .next t ∧ t = { s with ste := { s.ste with mirrors := t.ste.mirrors, retries := t.ste.retries } } ∧
      (∀ p ∈ s.ste.retries, p ∈ t.ste.retries) ∧ (∀ p ∈ t.ste.retries, p ∈ s.ste.retries ∨ due p.tx) ∧
      (∀ i, due i → isDark s (1152 + peerOf s.ste.present i) = true →
        mirOf t i = 5 ∧ mirOf t (1152 + peerOf s.ste.present i) = 5) ∧
      ∀ i, due i → isDark s (1152 + peerOf s.ste.present i) = false →
        (∃ p ∈ t.ste.retries, p.tx = i ∧ p.rx = 1152 + peerOf s.ste.present i ∧ p.gen < 18 ∧ p.gen ∉ gensBusy s) ∨
          ∀ g, g < 18 → g ∈ gensBusy t)

/-- Cages come and go, channels convert, loops enable, lock, hold, fail their checks and re-acquire; feed-forward;
FSEL_FORCE (12_fast_selectors_afe_calibration.md R344, 12_fast_selectors_afe_calibration.md R347,
12_fast_selectors_afe_calibration.md R348, 12_fast_selectors_afe_calibration.md R351,
12_fast_selectors_afe_calibration.md R353, 12_fast_selectors_afe_calibration.md R354,
12_fast_selectors_afe_calibration.md R356, 12_fast_selectors_afe_calibration.md R357,
12_fast_selectors_afe_calibration.md R358, 12_fast_selectors_afe_calibration.md R359). -/
def Obligations.CagesChannelsAndLockInLoops : Prop :=
  (∀ (s : State) (p : Fin 32) (first : Bool),
    (afeOn s (p.val / 8) = false ∨ cagePresent s p.val = true → exec (.cageInsert p first) s = .next s) ∧
    (afeOn s (p.val / 8) = true → cagePresent s p.val = false →
      let since := first = true ∧ tget (fun _ => false) s.sel.detected p.val = false
      let clears := ¬ since ∧ bitOf (getReg s (Reg.at Reg.FSL_CFG p.val)) 0 = true
      let kept (x : Loop) : Loop := if bitOf (getReg s (Reg.at Reg.FSL_CFG p.val)) 0 = true ∧
        ¬ (first = true ∧ tget (fun _ => false) s.sel.detected p.val = false) then { x with scanned := false, c2pi := 0, v := 0 } else x
      let scans := s.boot.calibrated = true ∧ enOf s 0x31 p.val = true ∧ (portOf s p.val).st ≠ .up ∧ (portOf s p.val).st ≠ .training
      ∃ t, exec (.cageInsert p first) s = .next t ∧ cagePresent t p.val = true ∧
        getReg t (Reg.at Reg.FSL_IRQ_STAT p.val) = getReg s (Reg.at Reg.FSL_IRQ_STAT p.val) ||| 1#32 ∧
        (clears → ∀ j, j < 6 → (loopOf t (6 * p.val + j)).scanned = false) ∧
        (∀ j, j < 6 → (¬ scans ∨ 3 ≤ j) → loopOf t (6 * p.val + j) = kept (loopOf s (6 * p.val + j))) ∧
        (∀ j, j < 3 → scans → loopOf t (6 * p.val + j) = { kept (loopOf s (6 * p.val + j)) with
          st := .scanning
          scan := true
          fullScan := !(kept (loopOf s (6 * p.val + j))).scanned }) ∧
        (∀ l, l / 6 ≠ p.val → loopOf t l = loopOf s l) ∧ ∀ k, k ≠ p.val → cagePresent t k = cagePresent s k) ∧
    (cagePresent s p.val = false → exec (.cageRemove p) s = .next s) ∧
    (cagePresent s p.val = true → ∃ t, exec (.cageRemove p) s = .next t ∧ cagePresent t p.val = false ∧
      (∀ j, j < 6 → loopOf t (6 * p.val + j) = { loopOf s (6 * p.val + j) with
        st := .off
        en := false
        setCode := 0
        code := 0
        checking := false
        scan := false
        fullScan := false }) ∧ (∀ l, l / 6 ≠ p.val → loopOf t l = loopOf s l) ∧
      (getReg t (Reg.at Reg.FSL_IRQ_STAT p.val)).getLsbD 1 = true ∧
      (portOf t p.val).st = (if (portOf s p.val).st = .disabled then .disabled else .down) ∧
      ∀ k, k ≠ p.val → (portOf t k).st = (portOf s k).st)) ∧
  (∀ (s : State) (who : Requester) (p : Fin 32) (v : Word), Reaches s who 0x43 p.val 0x048 →
    let key := Reg.at Reg.FSL_FSEL_FORCE p.val
    let busy := bitOf v 0 = true ∧ portDieOn s p.val = true ∧ cagePresent s p.val = true ∧
      ((portOf s p.val).st = .up ∨ (portOf s p.val).st = .training)
    (busy → ∃ t, exec (.fselForceWrite who p v) s = .next t ∧ RefusedWith s t 0x43 p.val stSTATE) ∧
    (¬ busy → ∃ t, exec (.fselForceWrite who p v) s = .next t ∧ getReg t key = v &&& 0x1F#32 ∧
      (∀ k, k ≠ key → getReg t k = getReg s k) ∧ (∀ k, k ≠ p.val → portOf t k = portOf s k) ∧
      t = { s with regs := t.regs, kft := { s.kft with ports := t.kft.ports } } ∧
      (bitOf v 0 = true → portOf t p.val = portOf s p.val))) ∧
  (∀ (s : State) (a : Fin 4) (ch : Fin 64) (raw : Nat),
    let k := 64 * a.val + ch.val
    let c := channelOf s k
    let p := 8 * a.val + (ch.val - 48)
    let code := (clampI 0 65535 ((2 * ((Int.ofNat raw - signed 16 c.offset.toNat) * Int.ofNat c.gain.toNat) + 2 ^ 15) / 2 ^ 16)).toNat
    let lim := Int.ofNat (100 * fld (getReg s (Reg.at Reg.FSL_CFG p)) 8 8)
    (afeOn s a.val = false → exec (.channelConversion a ch raw) s = .next s) ∧
    (afeOn s a.val = true → ∃ t, exec (.channelConversion a ch raw) s = .next t ∧
      channelOf t k = { c with code := code, ovr := decide (65535 < raw) } ∧ (∀ j, j ≠ k → channelOf t j = channelOf s j) ∧
      Reports [Reg.at Reg.AFE_CNT_OVR a.val, Reg.at Reg.AFE_IRQ_STAT a.val, Reg.at Reg.FSL_IRQ_STAT p]
        { s with sel := { s.sel with chans := t.sel.chans } } t ∧
      getReg t (Reg.at Reg.AFE_CNT_OVR a.val) =
        (if 65535 < raw then satAdd (getReg s (Reg.at Reg.AFE_CNT_OVR a.val)) 1 else getReg s (Reg.at Reg.AFE_CNT_OVR a.val)) ∧
      (65535 < raw → (getReg t (Reg.at Reg.AFE_IRQ_STAT a.val)).getLsbD 1 = true) ∧
      (48 ≤ ch.val → ch.val < 56 → cagePresent s p = true → lim < cageTemp code → cageTemp c.code ≤ lim →
        (getReg t (Reg.at Reg.FSL_IRQ_STAT p)).getLsbD 5 = true))) ∧
  (∀ (s : State) (who : Requester) (p : Fin 32), Reaches s who 0x43 p.val 0x054 →
    let l := selLoop s p.val
    let x := loopOf s l
    (∀ on, on = x.en → exec (.loopEnable who p on) s = .next s) ∧
    (x.en = false → cagePresent s (l / 6) = true → x.st = .off → ∃ t, exec (.loopEnable who p true) s = .next t ∧ LoopOnly s t l ∧
      loopOf t l = { x with
        en := true
        goodPeriods := 0
        badPeriods := 0
        pilotOk := false
        pilotFails := 0
        st := if holdOf s 0x43 (l / 6) then .holding else .acquiring
        back := if holdOf s 0x43 (l / 6) then .acquiring else x.back }) ∧
    (x.en = false → cagePresent s (l / 6) = false ∨ x.st ≠ .off → ∃ t, exec (.loopEnable who p true) s = .next t ∧ LoopOnly s t l ∧
      loopOf t l = { x with en := true }) ∧
    (x.en = true → ∃ t, exec (.loopEnable who p false) s = .next t ∧ LoopOnly s t l ∧ loopOf t l = { x with
      en := false
      st := if x.scan then .scanning else .off
      checking := false
      attempts := 0 }) ∧
    (enOf s 0x43 p.val = true → x.st = .off ∨ x.st = .scanning ∨ x.st = .reacq →
      ∃ t, exec (.loopReacq who p) s = .next t ∧ RefusedWith s t 0x43 p.val stSTATE) ∧
    (enOf s 0x43 p.val = true → x.st ≠ .off → x.st ≠ .scanning → x.st ≠ .reacq →
      ∃ t, exec (.loopReacq who p) s = .next t ∧ LoopOnly s t l ∧ loopOf t l = reacquiring { x with attempts := 0, lastReacq := 0#64 })) ∧
  (∀ (s : State) (l : Fin 192) (activity : BitVec 16) (lit top : Bool),
    let x := loopOf s l.val
    let af := x.af + sh (Int.ofNat activity.toNat - x.af) x.tauSh
    let ff := ffOf s l.val { x with af := af }
    let y : Loop := { x with af := af, ff := ff }
    (afeOn s (l.val / 48) = false → exec (.heaterUpdate l activity lit top) s = .next s) ∧
    (afeOn s (l.val / 48) = true → x.st ≠ .reacq ∨ lit = false → ∃ t, exec (.heaterUpdate l activity lit top) s = .next t ∧
      LoopOnly s t l.val ∧ loopOf t l.val = { y with
        code := (loopOf t l.val).code
        winOut := x.winOut && !(decide (0 ≤ x.v + ff) && decide (x.v + ff ≤ Int.ofNat (winHi y))) } ∧
      (x.st = .off → (loopOf t l.val).code = x.setCode) ∧ (x.st = .scanning → (loopOf t l.val).code = x.code) ∧
      (x.st = .reacq ∨ x.st = .fault → (loopOf t l.val).code = (clampI 0 65535 (x.v + ff)).toNat) ∧
      (x.st = .acquiring ∨ x.st = .locked ∨ x.st = .holding →
        (clampI 0 65535 (x.v + ff - x.amp)).toNat ≤ (loopOf t l.val).code ∧
        (loopOf t l.val).code ≤ (clampI 0 65535 (x.v + ff + x.amp)).toNat)) ∧
    (afeOn s (l.val / 48) = true → x.st = .reacq → lit = true →
      (top = true → ∃ t, exec (.heaterUpdate l activity lit top) s = .next t ∧ LoopOnly s t l.val ∧
        (loopOf t l.val).lastReacq = s.ns ∧ (loopOf t l.val).v = x.v ∧
        (loopOf t l.val).st = if holdOf s 0x43 (l.val / 6) then .holding else .acquiring) ∧
      (top = false → x.v + ff < Int.ofNat (winHi y) → ∃ t, exec (.heaterUpdate l activity lit top) s = .next t ∧ LoopOnly s t l.val ∧
        (loopOf t l.val).st = .reacq ∧ (loopOf t l.val).v = x.v + 24 ∧
        (loopOf t l.val).code = (clampI 0 65535 (x.v + 24 + ff)).toNat) ∧
      (top = false → Int.ofNat (winHi y) ≤ x.v + ff → ∃ t, exec (.heaterUpdate l activity lit top) s = .next t ∧
        (loopOf t l.val).attempts = x.attempts + 1 ∧
        (x.attempts + 1 < 3 → (loopOf t l.val).st = .reacq ∧ (loopOf t l.val).cntReacq = satAdd x.cntReacq 1) ∧
        (3 ≤ x.attempts + 1 → (loopOf t l.val).st = .fault ∧ (getReg t (Reg.at Reg.FSL_IRQ_STAT (l.val / 6))).getLsbD 3 = true)))) ∧
  (∀ (s : State) (l : Fin 192) (length : Nat) (used : List LockSample), let x := loopOf s l.val
    (afeOn s (l.val / 48) = false ∨ x.st = .off ∨ x.st = .scanning ∨ x.st = .reacq → exec (.ditherPeriodEnd l length used) s = .next s) ∧
    (afeOn s (l.val / 48) = true → used = [] ∨ 2 * used.length < length →
      (x.st = .holding ∨ x.st = .fault → ∃ t, exec (.ditherPeriodEnd l length used) s = .next t ∧ LoopOnly s t l.val ∧
        loopOf t l.val = { x with winOut := true }) ∧
      (x.st = .acquiring ∨ x.st = .locked → x.badPeriods < 4 → x.pilotFails < 2 → x.winOut = false →
        ∃ t, exec (.ditherPeriodEnd l length used) s = .next t ∧ LoopOnly s t l.val ∧
          loopOf t l.val = { x with st := .holding, back := x.st, winOut := true })) ∧
    (afeOn s (l.val / 48) = true → used ≠ [] → length ≤ 2 * used.length → x.st ≠ .off → x.st ≠ .scanning → x.st ≠ .reacq →
      let now : LoopSt := if x.st = .holding ∧ holdOf s 0x43 (l.val / 6) = false then x.back else x.st
      ∃ t g c2, exec (.ditherPeriodEnd l length used) s = .next t ∧
        Quotient (lockSum (fun p => sin15 p (2 ^ 32)) used) used.length g ∧
        Quotient (lockSum (fun p => cos15 (2 * p) (2 ^ 32)) used) used.length c2 ∧ (∀ k, k ≠ l.val → loopOf t k = loopOf s k) ∧
        (loopOf t l.val).g = g ∧ (loopOf t l.val).c2 = c2 ∧ (loopOf t l.val).curvOk = decide (0 < c2) ∧ (loopOf t l.val).winOut = true ∧
        (now = .acquiring ∨ now = .locked →
          (c2 ≤ 0 → 3 ≤ x.badPeriods → CheckFailed s t l.val 1) ∧
          ((0 < c2 ∨ x.badPeriods < 3) → 2 ≤ x.pilotFails → CheckFailed s t l.val 2) ∧
          ((0 < c2 ∨ x.badPeriods < 3) → x.pilotFails < 2 → x.winOut = true → CheckFailed s t l.val 3) ∧
          ((0 < c2 ∨ x.badPeriods < 3) → x.pilotFails < 2 → x.winOut = false →
            (loopOf t l.val).st = (if now = .acquiring ∧ 0 < c2 ∧ 3 ≤ x.goodPeriods ∧ x.pilotOk = true then
              (if holdOf s 0x43 (l.val / 6) then .holding else .locked) else now) ∧
            (loopOf t l.val).badPeriods = (if 0 < c2 then 0 else x.badPeriods + 1) ∧
            (loopOf t l.val).goodPeriods = (if 0 < c2 then x.goodPeriods + 1 else 0))) ∧
        (now = .holding ∨ now = .fault → (loopOf t l.val).st = now ∧ (loopOf t l.val).v = x.v))) ∧
  (∀ (s : State) (l : Fin 192), let x := loopOf s l.val
    ((x.st = .acquiring ∨ x.st = .locked) → x.checking = false → pilotBusy s (l.val / 48) < 4 →
      exec (.pilotCheckStart l) s = .next (setLoop s l.val { x with checking := true })) ∧
    ((x.st ≠ .acquiring ∧ x.st ≠ .locked) ∨ x.checking = true ∨ 4 ≤ pilotBusy s (l.val / 48) →
      exec (.pilotCheckStart l) s = .next s) ∧
    (∀ levels, x.checking = false → exec (.pilotCheckDone l levels) s = .next s) ∧
    (x.checking = true → exec (.pilotCheckDone l []) s = .next (setLoop s l.val { x with checking := false })) ∧
    (∀ levels, x.checking = true → levels ≠ [] →
      let want := if l.val % 3 = 0 then [0, 1] else if l.val % 3 = 1 then [0] else [2]
      let pass := ∀ k, k < 4 → (k ∈ want → 2500 ≤ levels.getD k 0) ∧ (k ∉ want → levels.getD k 0 ≤ 500)
      (pass → ∃ t, exec (.pilotCheckDone l levels) s = .next t ∧ LoopOnly s t l.val ∧ (loopOf t l.val).checking = false ∧
        (loopOf t l.val).pilotOk = true ∧ (loopOf t l.val).pilotFails = 0 ∧
        (loopOf t l.val).st = if x.st = .acquiring ∧ 4 ≤ x.goodPeriods then
          (if holdOf s 0x43 (l.val / 6) then .holding else .locked) else x.st) ∧
      (¬ pass → x.st = .acquiring ∨ x.st = .locked → 1 ≤ x.pilotFails →
        ∃ t, exec (.pilotCheckDone l levels) s = .next t ∧ CheckFailed s t l.val 2) ∧
      (¬ pass → (x.st ≠ .acquiring ∧ x.st ≠ .locked) ∨ x.pilotFails = 0 → ∃ t, exec (.pilotCheckDone l levels) s = .next t ∧
        LoopOnly s t l.val ∧ (loopOf t l.val).checking = false ∧ (loopOf t l.val).pilotOk = false ∧
        (loopOf t l.val).pilotFails = x.pilotFails + 1 ∧ (loopOf t l.val).st = x.st)) ∧
    (x.st = .reacq → ∃ t, exec (.reacqDarkTimeout l) s = .next t ∧ AttemptFailed s t l.val) ∧
    (x.st ≠ .reacq → exec (.reacqDarkTimeout l) s = .next s)) ∧
  (∀ (s : State) (who : Requester) (p : Fin 32) (o : BitVec 12) (v : Word), Reaches s who 0x43 p.val o.toNat →
    let l := 6 * p.val + fld (getReg s (Reg.at Reg.FSL_MZI_SEL p.val)) 0 3
    let x := loopOf s l
    let steps (t : State) (y : Loop) : Prop := LoopOnly s t l ∧ loopOf t l = { y with
      ff := ffOf s l y
      v := if x.st = .off then x.v else x.v + ffOf s l x - ffOf s l y }
    (o.toNat = 0x074 → ∃ t, exec (.ffParamWrite who p o v) s = .next t ∧ steps t { x with ka := v }) ∧
    (o.toNat = 0x078 → ∃ t, exec (.ffParamWrite who p o v) s = .next t ∧ steps t { x with kt := v }) ∧
    (o.toNat = 0x07C → fld v 0 4 ≤ 12 → ∃ t, exec (.ffParamWrite who p o v) s = .next t ∧
      steps t { x with t0 := fld v 16 16, tauSh := fld v 0 4 }) ∧
    (o.toNat = 0x07C ∧ 12 < fld v 0 4 ∨ o.toNat = 0x040 ∧ 100 < fld v 8 8 →
      ∃ t, exec (.ffParamWrite who p o v) s = .next t ∧ RefusedWith s t 0x43 p.val stRANGE) ∧
    (o.toNat = 0x040 → fld v 8 8 ≤ 100 → ∃ t, exec (.ffParamWrite who p o v) s = .next t ∧
      getReg t (Reg.at Reg.FSL_CFG p.val) = v &&& 0xFF03#32 ∧ (∀ k, k / 6 ≠ p.val → loopOf t k = loopOf s k) ∧
      ∀ j, j < 6 → let k := 6 * p.val + j
        (loopOf t k).ff = ffOf t k (loopOf s k) ∧ (loopOf t k).st = (loopOf s k).st ∧
        ((loopOf s k).st ≠ .off → (loopOf t k).v + (loopOf t k).ff = (loopOf s k).v + ffOf s k (loopOf s k)))) ∧
  (∀ (s : State) (who : Requester) (p : Fin 32) (on : Bool), Reaches s who 0x43 p.val 0x008 →
    ∃ t, exec (.fslHold who p on) s = .next t ∧ HoldSet { s with sel := { s.sel with loops := t.sel.loops } } t 0x43 p.val on ∧
      (on = false ∨ holdOf s 0x43 p.val = true → t.sel = s.sel) ∧
      (on = true → holdOf s 0x43 p.val = false → (∀ k, k / 6 ≠ p.val → loopOf t k = loopOf s k) ∧
        ∀ k, k / 6 = p.val → loopOf t k = (match (loopOf s k).st with
          | .acquiring => { loopOf s k with st := .holding, back := .acquiring }
          | .locked => { loopOf s k with st := .holding, back := .locked }
          | .reacq => { loopOf s k with st := .holding, back := .acquiring }
          | _ => loopOf s k)))

/-- The power-up calibration, OFFSET, FRINGE, PLANE and ABORT, the end of scans and commands, and saves of the
Fixative store (12_fast_selectors_afe_calibration.md R361, 12_fast_selectors_afe_calibration.md R362,
12_fast_selectors_afe_calibration.md R363, 12_fast_selectors_afe_calibration.md R364,
12_fast_selectors_afe_calibration.md R365, 12_fast_selectors_afe_calibration.md R366,
12_fast_selectors_afe_calibration.md R368, 12_fast_selectors_afe_calibration.md R369,
12_fast_selectors_afe_calibration.md R370, 13_pair_redundancy_and_live_service.md R385). -/
def Obligations.CalibrationMeasuresAndFixativeSaves : Prop :=
  (∀ (s : State) (avgs : List Nat), powerCal s = false → exec (.powerupCalibration avgs) s = .next s) ∧
  (∀ (s : State) (avgs : List Nat), powerCal s = true →
    let thr (k : Nat) : Nat := fld (getReg s (Reg.at Reg.AFE_DARK_THR (k / 64))) 0 16
    let a := fixSlotValid s false
    let b := fixSlotValid s true
    let useB := b && (!a || decide (fixSeqOf s false < fixSeqOf s true))
    let own := slice (flashRead s (fixBase useB) 4096) 12 48 = beBytes 48 identHash.toNat
    let lit := ∃ l v, l < 192 ∧ avgs[l]? = some v ∧ thr (tapChan l) < v
    ∃ t, exec (.powerupCalibration avgs) s = .next t ∧ t.boot.calibrated = true ∧ t.mem.flash = s.mem.flash ∧
      (a = false → b = false → t.sel.fix.none_ = true ∧ (getReg t Reg.FIX_IRQ_STAT).getLsbD 2 = true ∧
        fld (getReg t (pageKey 0x46 0 + 0x01C)) 16 16 = stSTORE) ∧
      (a = true ∨ b = true → t.sel.fix.none_ = false ∧ t.sel.fix.slotB = useB ∧ t.sel.fix.aValid = a ∧ t.sel.fix.bValid = b ∧
        t.sel.fix.seq = toWord (fixSeqOf s useB) ∧ (own → t.sel.fix.foreign = false) ∧
        (¬ own → t.sel.fix.foreign = true ∧ (getReg t Reg.FIX_IRQ_STAT).getLsbD 3 = true ∧
          fld (getReg t (pageKey 0x46 0 + 0x01C)) 16 16 = stFOREIGN)) ∧
      (∀ l v, l < 192 → avgs[l]? = some v →
        (v ≤ thr (tapChan l) → (channelOf t (tapChan l)).offset = BitVec.ofNat 16 v ∧ (channelOf t (tapChan l)).cal = stOK) ∧
        (thr (tapChan l) < v → (channelOf t (tapChan l)).cal = stCALINPUT ∧
          (getReg t (Reg.at Reg.AFE_IRQ_STAT (l / 48))).getLsbD 0 = true)) ∧
      (∀ l bs, l < 192 → usedSection t 2 = some bs → leAt bs (20 * l + 6) 1 % 2 = 1 → cagePresent s (l / 6) = true →
        enOf s 0x31 (l / 6) = false → (loopOf t l).st = .holding ∧ (loopOf t l).c2pi = leAt bs (20 * l) 2 ∧
          (loopOf t l).v + (loopOf t l).ff = Int.ofNat (leAt bs (20 * l + 2) 2)) ∧
      (getReg t Reg.CAL_IRQ_STAT).getLsbD 0 = true ∧ (lit → (getReg t Reg.CAL_IRQ_STAT).getLsbD 1 = true) ∧
      (lit → getReg t Reg.CAL_RESULT = toWord stCALINPUT) ∧ (¬ lit → getReg t Reg.CAL_RESULT = toWord stOK)) ∧
  (∀ (s : State) (who : Requester), Commands s who 0x45 0 0x040 →
    let follows := s.rdn.st = .standby ∨ s.rdn.st = .syncing
    let idle := calState s = 0x10
    let refused (c : Instr) (st : Nat) : Prop := ∃ t, exec c s = .next t ∧ RefusedWith s t 0x45 0 st
    let lit := ∃ l ∈ scopeLoops s, (loopOf s l).st ≠ .off
    let busy := ∃ p, p < 32 ∧ (getReg s Reg.CAL_PORTS).getLsbD p = true ∧ ((portOf s p).st = .up ∨ (portOf s p).st = .training)
    let ready := planeUp s = true ∧ s.rdn.st = .active ∧ s.ste.portMap.isSome = true ∧ s.ste.move = none
    (follows → refused (.calOffset who) stSTATE ∧ refused (.calFringe who) stSTATE ∧ refused (.calPlane who) stSTATE ∧
      refused (.calAbort who) stSTATE) ∧
    (¬ follows → ¬ idle ∨ lit → refused (.calOffset who) stSTATE) ∧
    (¬ follows → idle → ¬ lit → ∃ t, exec (.calOffset who) s = .next t ∧ CalStarted t 1 (scopeLoops s).length [] ∧
      t = { s with regs := t.regs, sel := { s.sel with cal := t.sel.cal } }) ∧
    (¬ follows → ¬ idle ∨ busy → refused (.calFringe who) stSTATE) ∧
    (¬ follows → idle → ¬ busy → ∃ t, exec (.calFringe who) s = .next t ∧ CalStarted t 2 (fringeLoops s).length (fringeLoops s) ∧
      t = { s with regs := t.regs, sel := { s.sel with cal := t.sel.cal, loops := t.sel.loops } } ∧
      ∀ l, loopOf t l = (if l ∈ fringeLoops s then { loopOf s l with
        st := .scanning
        scan := true
        fullScan := (getReg s Reg.CAL_SCOPE).getLsbD 16 || !(loopOf s l).scanned } else loopOf s l)) ∧
    (¬ follows → ¬ idle ∨ ¬ ready → refused (.calPlane who) stSTATE) ∧
    (¬ follows → idle → ready → ¬ (planeRefs s).Nodup → refused (.calPlane who) stRANGE) ∧
    (¬ follows → idle → ready → (planeRefs s).Nodup → ∃ t, exec (.calPlane who) s = .next t ∧ CalStarted t 3 18 [] ∧
      t = { s with regs := t.regs, sel := { s.sel with cal := t.sel.cal } }) ∧
    (¬ follows → s.sel.cal.op = 0 → exec (.calAbort who) s = .next s) ∧
    (¬ follows → s.sel.cal.op ≠ 0 → exec (.calAbort who) s =
      .next { s with sel := { s.sel with cal := { s.sel.cal with abort := true } } })) ∧
  (∀ (s : State) (l : Fin 192) (r : ScanResult),
    let x := loopOf s l.val
    let p := l.val / 6
    let front := scanFront s (l.val / 48) = some l.val ∧ afeOn s (l.val / 48) = true
    let found (v : Int) (c2pi : Nat) (scanned : Bool) (t : State) : Prop := loopOf t l.val = { x with
      v := v
      c2pi := c2pi
      scanned := scanned
      scan := false
      fullScan := false
      en := true
      goodPeriods := 0
      badPeriods := 0
      pilotOk := false
      pilotFails := 0
      st := if holdOf s 0x43 p then .holding else .acquiring
      back := if holdOf s 0x43 p then .acquiring else x.back }
    let good := cagePresent s p = true ∧ ((∃ c, r = .verify c ∧ x.fullScan = false) ∨
      ∃ a b : BitVec 16, r = .full a b ∧ x.fullScan = true ∧ a.toNat < b.toNat)
    (¬ front → exec (.fringeScanDone l r) s = .next s) ∧
    (front → (∀ c, cagePresent s p = true → r = .verify c → x.fullScan = false →
        ∃ t, exec (.fringeScanDone l r) s = .next t ∧ found (Int.ofNat c.toNat - x.ff) x.c2pi x.scanned t) ∧
      (∀ a b : BitVec 16, cagePresent s p = true → r = .full a b → x.fullScan = true → a.toNat < b.toNat →
        ∃ t, exec (.fringeScanDone l r) s = .next t ∧ found (Int.ofNat a.toNat - x.ff) (b.toNat - a.toNat) true t) ∧
      (¬ good → ∃ t, exec (.fringeScanDone l r) s = .next t ∧ (getReg t Reg.CAL_FAIL_PORTS).getLsbD p = true ∧
        (loopOf t l.val).v = x.v ∧ (loopOf t l.val).c2pi = x.c2pi ∧ (loopOf t l.val).scan = false ∧
        (loopOf t l.val).st = (if x.scanned = true ∧ cagePresent s p = true then
          (if holdOf s 0x43 p then .holding else .acquiring) else .off)) ∧
      ∃ t, exec (.fringeScanDone l r) s = .next t ∧ (∀ k, k ≠ l.val → loopOf t k = loopOf s k) ∧
        (s.sel.cal.op = 2 → l.val ∈ s.sel.cal.todo → t.sel.cal = { s.sel.cal with
          todo := s.sel.cal.todo.filter (· != l.val)
          refused := t.sel.cal.refused
          done := s.sel.cal.done + 1 }))) ∧
  (∀ (s : State) (avgs : List (Nat × Nat)) (plane : List PlaneReading) (ms : Word), let c := s.sel.cal
    (c.op = 0 ∨ s.boot.phase ≠ .firmware ∨ (c.op = 2 ∧ c.todo ≠ [] ∧ c.abort = false) →
      exec (.calCommandEnd avgs plane ms) s = .next s) ∧
    (c.op ≠ 0 → c.op < 4 → s.boot.phase = .firmware → (c.op = 2 → c.todo = [] ∨ c.abort = true) →
      ∃ t st, exec (.calCommandEnd avgs plane ms) s = .next t ∧ t.sel.cal.op = 0 ∧
        getReg t Reg.CAL_RESULT = toWord (st + c.op * 2 ^ 24) ∧ getReg t Reg.CAL_LAST_MS = ms ∧
        (getReg t Reg.CAL_IRQ_STAT).getLsbD 0 = true ∧ (c.abort = true → st = stABORTED) ∧
        (c.abort = false → st = stOK ∨ st = stCALINPUT) ∧
        (st = stCALINPUT → (getReg t Reg.CAL_IRQ_STAT).getLsbD 1 = true ∧ t.sel.fix.saving = s.sel.fix.saving) ∧
        (st = stABORTED → (getReg t Reg.CAL_IRQ_STAT).getLsbD 2 = true) ∧
        (st ≠ stCALINPUT → s.sel.fix.foreign = false → t.sel.fix.saving = true ∨ t.sel.fix.pending = true) ∧
        (c.op = 1 → ∀ k v, (k, v) ∈ avgs → k ∈ (scopeLoops s).map tapChan → (∀ w, (k, w) ∈ avgs → w = v) →
          (v ≤ fld (getReg s (Reg.at Reg.AFE_DARK_THR (k / 64))) 0 16 → (channelOf t k).offset = BitVec.ofNat 16 v) ∧
          (fld (getReg s (Reg.at Reg.AFE_DARK_THR (k / 64))) 0 16 < v → (channelOf t k).offset = (channelOf s k).offset ∧
            (channelOf t k).cal = stCALINPUT ∧ (c.abort = false → st = stCALINPUT))) ∧
        (c.op = 2 → c.abort = false → st = if c.refused then stCALINPUT else stOK) ∧
        (c.op = 3 → (∀ r ∈ plane, r.mirror < 2304 → r.points = none → getReg t Reg.CAL_FAIL_MIRRORS ≠ 0#32 ∧
            coefOf t (2 * r.mirror) = coefOf s (2 * r.mirror) ∧ coefOf t (2 * r.mirror + 1) = coefOf s (2 * r.mirror + 1) ∧
            (c.abort = false → st = stCALINPUT)) ∧
          (∀ r ∈ plane, ∀ pts, r.mirror < 2304 → r.points = some pts →
            (∀ q ∈ plane, q.mirror = r.mirror → q.points ≠ none) →
            (∀ q ∈ plane, q.mirror = r.mirror → q.axisY = r.axisY → q = r) →
            let a := 2 * r.mirror + b2n r.axisY
            coefOf t a = some ((List.range 6).map (Config.planeFit a pts) ++ [(coefWords s a).getD 6 0#32]) ∧
              mirValid t r.mirror = true) ∧
          (st = stOK → calValid t = true)))) ∧
  (∀ (s : State) (who : Requester), Commands s who 0x46 0 0x04C →
    let barred := s.sel.fix.foreign = true ∧ s.sel.fix.planeOk = false
    let wait := s.sel.fix.saving = true ∨ s.boot.phase ≠ .firmware ∨ s.boot.flashBusy = true
    (barred → ∃ t, exec (.fixSave who) s = .next t ∧ RefusedWith s t 0x46 0 stSTATE) ∧
    (¬ barred → wait → exec (.fixSave who) s = .next { s with sel := { s.sel with fix := { s.sel.fix with pending := true } } }) ∧
    (¬ barred → ¬ wait → ∃ t, exec (.fixSave who) s = .next t ∧ SaveRuns s t)) ∧
  (∀ (s : State) (ok : Bool), s.sel.fix.saving = false → s.sel.fix.waiter = none → exec (.fixativeSaveDone ok) s = .next s) ∧
  (∀ (s : State) (ok : Bool), s.sel.fix.saving = true → s.sel.fix.waiter = none → s.boot.phase = .firmware →
    let x := s.sel.fix
    let b := !x.none_ && !x.slotB
    ∃ m t, exec (.fixativeSaveDone ok) s = .next t ∧ m.sel.fix.saving = false ∧ m.boot.flashBusy = false ∧
      (x.pending = false → t = m) ∧ (x.pending = true → SaveRuns m t) ∧
      (ok = true → m.sel.fix.none_ = false ∧ m.sel.fix.slotB = b ∧ m.sel.fix.foreign = false ∧
        m.sel.fix.seq = toWord (leAt x.image 8 4) ∧
        (∀ i y, x.image[i]? = some y → tget (fun _ => 0xFF#8) m.mem.flash (fixBase b + i) = y) ∧
        (∀ a, a < fixBase b ∨ fixBase b + x.image.length ≤ a →
          tget (fun _ => 0xFF#8) m.mem.flash a = tget (fun _ => 0xFF#8) s.mem.flash a) ∧
        getReg m Reg.FIX_CNT_SAVES = getReg s Reg.FIX_CNT_SAVES + 1#32 ∧ (getReg m Reg.FIX_IRQ_STAT).getLsbD 0 = true) ∧
      (ok = false → m.sel.fix.slotB = x.slotB ∧ m.sel.fix.none_ = x.none_ ∧ m.sel.fix.seq = x.seq ∧
        m.mem.flash = s.mem.flash ∧ getReg m Reg.FIX_CNT_SAVES = getReg s Reg.FIX_CNT_SAVES ∧
        (getReg m Reg.FIX_IRQ_STAT).getLsbD 1 = true))

/-- Attempts, hold-off, races by ROLE, takeover, claim faults, YIELD, and leaving YIELDED
(13_pair_redundancy_and_live_service.md R374, 13_pair_redundancy_and_live_service.md R375,
13_pair_redundancy_and_live_service.md R376, 13_pair_redundancy_and_live_service.md R377,
13_pair_redundancy_and_live_service.md R378, 13_pair_redundancy_and_live_service.md R383,
13_pair_redundancy_and_live_service.md R391, 13_pair_redundancy_and_live_service.md R396). -/
def Obligations.TheClaimIsTakenRacedReleasedAndYielded : Prop :=
  (∀ (s : State) (c : Instr),
    ((c = .claimAttempt ∧ ¬ ((s.rdn.st = .standby ∨ (s.rdn.st = .waiting ∧ strapRole s = true ∧ s.rdn.afterYield = false)) ∧
        s.rdn.in_ = false ∧ eligible s = true)) ∨
      (c = .claimWaitExpiry ∧ ¬ ((s.rdn.st = .waiting ∨ s.rdn.st = .syncing) ∧ s.rdn.in_ = false ∧ eligible s = true)) ∨
      (c = .claimInAssert ∧ (s.rdn.in_ = true ∨ s.pwr.inReset = true)) ∨ (c = .claimInDeassert ∧ s.rdn.in_ = false) ∨
      (c = .claimHoldoffEnd ∧ (s.rdn.st ≠ .contending ∨ (s.rdn.in_ = true ∧ s.rdn.raced = true))) ∨
      (c = .raceBackoffCheck ∧ s.rdn.backedOff = false) ∨ (c = .claimFault ∧ s.rdn.out = false) ∨
      (c = .yieldedAutoClear ∧ (s.rdn.st ≠ .yielded ∨ bitOf (getReg s Reg.RDN_CFG) 0 = false ∨ s.rdn.yieldCause = 0))) →
    ∃ t, exec c s = .next t ∧ StatusFollows (service s) s t) ∧
  (∀ (s : State) (c : Instr), s.rdn.in_ = false → eligible s = true →
    (c = .claimAttempt ∧ (s.rdn.st = .standby ∨ (s.rdn.st = .waiting ∧ strapRole s = true ∧ s.rdn.afterYield = false)) ∨
      c = .claimWaitExpiry ∧ (s.rdn.st = .waiting ∨ s.rdn.st = .syncing)) →
    ∃ t, exec c s = .next t ∧ StatusFollows (service s) (contending s) t) ∧
  (∀ (s : State), s.rdn.in_ = false → s.pwr.inReset = false →
    let seen : State := { s with rdn := { s.rdn with in_ := true } }
    let races := s.rdn.st = .contending ∧ s.rdn.race = false
    (¬ races → ∃ u t, exec .claimInAssert s = .next t ∧ StatusFollows (service s) u t ∧ MaybeAsks seen u) ∧
    (races → ∃ m u t, exec .claimInAssert s = .next t ∧ StatusFollows (service s) u t ∧ MaybeAsks m u ∧
      Reports [Reg.RDN_CNT_RACE, Reg.RDN_IRQ_STAT] { s with rdn := if strapRole s then { s.rdn with in_ := true, race := true } else
        { s.rdn with
          in_ := true
          st := s.rdn.from_
          out := false
          backedOff := true } } m ∧
      getReg m Reg.RDN_CNT_RACE = satAdd (getReg s Reg.RDN_CNT_RACE) 1 ∧
      getReg m Reg.RDN_IRQ_STAT = getReg s Reg.RDN_IRQ_STAT ||| 64#32)) ∧
  (∀ (s : State), s.rdn.in_ = true →
    let seen : State := { s with rdn := { s.rdn with in_ := false, senseNs := s.ns } }
    let takes := s.rdn.st = .standby ∧ s.rdn.backedOff = false ∧ eligible s = true
    (takes → ∃ t, exec .claimInDeassert s = .next t ∧ StatusFollows (service s) (contending seen) t) ∧
    (¬ takes → ∃ t, exec .claimInDeassert s = .next t ∧ StatusFollows (service s) seen t)) ∧
  (∀ (s : State), s.rdn.st = .contending →
    (s.rdn.in_ = false → ∃ u t, exec .claimHoldoffEnd s = .next t ∧ StatusFollows (service s) u t ∧
      Reports [Reg.RDN_CNT_SWITCH, Reg.RDN_IRQ_STAT] { s with rdn := { s.rdn with
        st := .active
        race := false
        raced := false
        afterYield := false
        stale := false
        takeover := decide (s.rdn.from_ = .standby)
        tilesLeft := if s.rdn.from_ = .standby then (List.range 36).map fun k => (k, true) else [] } } u ∧
      getReg u Reg.RDN_IRQ_STAT = getReg s Reg.RDN_IRQ_STAT ||| 1#32 ∧
      getReg u Reg.RDN_CNT_SWITCH = (if s.rdn.from_ = .standby then satAdd (getReg s Reg.RDN_CNT_SWITCH) 1
        else getReg s Reg.RDN_CNT_SWITCH)) ∧
    (s.rdn.in_ = true → s.rdn.raced = false → ∃ m u t, exec .claimHoldoffEnd s = .next t ∧ StatusFollows (service s) u t ∧
      RdnErr m stRANGE 0x10 ∧ m = { s with regs := m.regs, rdn := m.rdn } ∧
      (ownPos s % 2 = 0 → u = m ∧ m.rdn = { s.rdn with raced := true }) ∧
      (ownPos s % 2 = 1 → MaybeAsks m u ∧ m.rdn = { s.rdn with st := s.rdn.from_, out := false, race := false }))) ∧
  (∀ (s : State), s.rdn.backedOff = true →
    let m : State := { s with rdn := { s.rdn with backedOff := false } }
    (s.rdn.in_ = true → ∃ u t, exec .raceBackoffCheck s = .next t ∧ StatusFollows (service s) u t ∧ MaybeAsks m u) ∧
    (s.rdn.in_ = false → ∃ u t, exec .raceBackoffCheck s = .next t ∧ StatusFollows (service s) u t ∧ RdnErr u stRANGE 0x10 ∧
      u = { s with regs := u.regs, rdn := u.rdn } ∧
      u.rdn = if ownPos s % 2 = 0 ∧ eligible s = true then (contending m).rdn else m.rdn)) ∧
  (∀ (s : State), s.rdn.out = true → s.rdn.st = .active ∨ s.rdn.st = .contending →
    ∃ u t, exec .claimFault s = .next t ∧ StatusFollows (service s) u t ∧ u.rdn.st = .yielded ∧ u.rdn.out = false ∧
      u.rdn.outSense = false ∧ u.rdn.yieldCause = 0 ∧ u.rdn.syncReq = false ∧ RdnErr u stRESOURCE 0x11 ∧
      (getReg u Reg.RDN_IRQ_STAT).getLsbD 7 = true ∧
      (s.rdn.st = .active → (getReg u Reg.RDN_IRQ_STAT).getLsbD 1 = true ∧
        ∀ i ∈ s.ste.order, (entryOf s i).st ≠ 5 → (entryOf u i).st = 0)) ∧
  (∀ (s : State) (who : Requester), Commands s who 0x0A 0 0x044 →
    let ready := s.rdn.heard = true ∧ s.rdn.pState = 0x13 ∧ s.rdn.pElig = true ∧ s.rdn.pStale = false
    (s.rdn.st ≠ .active → ∃ t, exec (.yield who) s = .next t ∧ RefusedWith s t 0x0A 0 stSTATE) ∧
    (s.rdn.st = .active → ¬ ready → ∃ t, exec (.yield who) s = .next t ∧ RefusedWith s t 0x0A 0 stPARTNER) ∧
    (s.rdn.st = .active → ready → ∃ u t, exec (.yield who) s = .next t ∧ StatusFollows (service s) u t ∧
      u.rdn = { s.rdn with st := .standby, out := false, takeover := false, tilesLeft := [] } ∧
      (getReg u Reg.RDN_IRQ_STAT).getLsbD 1 = true ∧ ∀ i ∈ s.ste.order, (entryOf s i).st ≠ 5 → (entryOf u i).st = 0) ∧
    (s.rdn.st ≠ .yielded → ∃ t, exec (.rdnClear who) s = .next t ∧ RefusedWith s t 0x0A 0 stSTATE)) ∧
  (∀ (s : State) (who : Requester) (c : Instr), s.rdn.st = .yielded →
    let failed := s.rdn.failEngine
    (c = .rdnClear who ∧ Commands s who 0x0A 0 0x044 ∨ c = .yieldedAutoClear ∧ bitOf (getReg s Reg.RDN_CFG) 0 = true ∧
      (s.rdn.yieldCause = 2 ∨ s.rdn.yieldCause = 3 ∨
        s.rdn.yieldCause = 1 ∧ (engOf s 0x40 failed).faulty = true ∧ engineAxes s failed = [])) →
    ∃ u t, exec c s = .next t ∧ StatusFollows (service s) u t ∧
      MaybeAsks { s with rdn := { s.rdn with st := .waiting, yieldCause := 0, afterYield := true } } u)

/-- OUTPUTs of one SEQ are compared, the third mismatch in a row starts the self-check, and CHECK or its lack
decides the outcome (13_pair_redundancy_and_live_service.md R377, 13_pair_redundancy_and_live_service.md R379,
13_pair_redundancy_and_live_service.md R380, 13_pair_redundancy_and_live_service.md R381,
13_pair_redundancy_and_live_service.md R382, 13_pair_redundancy_and_live_service.md R391). -/
def Obligations.PartnersCompareOutputsAndCheckThemselves : Prop :=
  (∀ (s : State) (d : SteerMsg) (c : Instr), c ∈ [.output d, .check d, .status d] → Unheard s d → exec c s = .next s) ∧
  (∀ (s : State) (d : SteerMsg), ¬ Unheard s d → 36 ≤ d.b32.toNat / 256 →
    ∃ t, exec (.output d) s = .next t ∧ StatusFollows (service s) (steerArrived s d) t) ∧
  (∀ (s : State) (d : SteerMsg), ¬ Unheard s d → d.b32.toNat / 256 < 36 →
    let k := d.b32.toNat / 256
    let x := tileOf s k
    let m : State := { steerArrived s d with rdn := { s.rdn with partnerOk := true, silent := false } }
    let tilesOf (u : State) (y : Tile) : Prop := tileOf u k = y ∧ ∀ j, j ≠ k → tileOf u j = tileOf s j
    ((x.own = none ∨ ∃ a, x.own = some a ∧ a.b28 ≠ d.b28) → ∃ u t, exec (.output d) s = .next t ∧ StatusFollows (service s) u t ∧
      tilesOf u { x with partner := some d, silent := 0 } ∧ u = { m with ste := { s.ste with tiles := u.ste.tiles } }) ∧
    (∀ a, x.own = some a → a.b28 = d.b28 → (∀ i, ¬ AxisDiffers s a.data d.data i) → ∃ u t, exec (.output d) s = .next t ∧
      StatusFollows (service s) u t ∧ tilesOf u { x with partner := none, silent := 0, mismatches := 0 } ∧
      u = { m with ste := { s.ste with tiles := u.ste.tiles } }) ∧
    (∀ a i, x.own = some a → a.b28 = d.b28 → AxisDiffers s a.data d.data i → (∀ j, j < i → ¬ AxisDiffers s a.data d.data j) →
      let first := if x.mismatches = 0 then i else x.firstAxis
      (x.mismatches < 2 → ∃ u t, exec (.output d) s = .next t ∧ StatusFollows (service s) u t ∧
        tilesOf u { x with partner := none, silent := 0, mismatches := x.mismatches + 1, firstAxis := first } ∧
        u = { m with ste := { s.ste with tiles := u.ste.tiles } }) ∧
      (2 ≤ x.mismatches → ∃ u t, exec (.output d) s = .next t ∧ StatusFollows (service s) u t ∧
        tilesOf u { x with partner := none, silent := 0, mismatches := 0 } ∧
        u.rdn = (if s.rdn.checking then m.rdn else { m.rdn with
          checking := true
          ownCheck := none
          partnerCheck := none
          declSeq := seq0 s }) ∧
        getReg u Reg.RDN_CNT_MISMATCH = satAdd (getReg s Reg.RDN_CNT_MISMATCH) 1 ∧
        getReg u Reg.RDN_LAST_MISMATCH = toWord (k + (128 * k + first) * 256) ∧
        (getReg u Reg.RDN_IRQ_STAT).getLsbD 2 = true))) ∧
  (∀ (s : State) (k : Fin 36),
    let marks := partnerUp s = true ∧ 3 ≤ (tileOf s k.val).silent ∧ s.rdn.silent = false
    (marks → ∃ u t, exec (.partnerSilent k) s = .next t ∧ StatusFollows (service s) u t ∧
      Reports [Reg.RDN_CNT_SILENT, Reg.RDN_IRQ_STAT] { s with rdn := { s.rdn with partnerOk := false, silent := true } } u ∧
      getReg u Reg.RDN_CNT_SILENT = satAdd (getReg s Reg.RDN_CNT_SILENT) 1 ∧
      getReg u Reg.RDN_IRQ_STAT = getReg s Reg.RDN_IRQ_STAT ||| 16#32) ∧
    (¬ marks → ∃ t, exec (.partnerSilent k) s = .next t ∧ StatusFollows (service s) s t)) ∧
  (∀ (s : State) (d : SteerMsg), ¬ Unheard s d →
    let told : Rdn := { s.rdn with
      heard := true
      pState := d.b32.toNat / 256
      pElig := d.b32.getLsbD 0
      pStale := d.b32.getLsbD 2
      pLost := BitVec.ofNat 40 (leAt d.data 0 5) }
    let costs := s.rdn.st = .active ∧ d.b32.toNat / 256 = 0x13 ∧ ∃ k, k < 36 ∧ (tileOf s k).lost = true ∧ told.pLost.getLsbD k = false
    (¬ costs → ∃ u t, exec (.status d) s = .next t ∧ StatusFollows (service s) u t ∧ u = { steerArrived s d with rdn := told }) ∧
    (costs → ∃ u t, exec (.status d) s = .next t ∧ StatusFollows (service s) u t ∧
      u.rdn = { told with st := .standby, out := false, takeover := false, tilesLeft := [] } ∧
      (getReg u Reg.RDN_IRQ_STAT).getLsbD 1 = true)) ∧
  (∀ (s : State) (failed : List (Fin 48)),
    (s.rdn.checking = false ∨ s.rdn.ownCheck ≠ none →
      ∃ t, exec (.engineTestDone failed) s = .next t ∧ StatusFollows (service s) s t) ∧
    (s.rdn.checking = true → s.rdn.ownCheck = none → s.rdn.partnerCheck = none →
      let bad := failed.filter fun e => lpeState s e.val == 0x10
      let r := if bad = [] then 1 else 2
      let c := if bad = [] then 0 else 1
      ∃ u t, exec (.engineTestDone failed) s = .next t ∧ StatusFollows (service s) u t ∧
        u.rdn = { s.rdn with ownCheck := some (r, c, historyBytes s), failEngine := (bad.map Fin.val).headD 0 } ∧
        (∀ e : Fin 48, e ∈ bad → lpeState u e.val = 0x14) ∧ (∀ e : Fin 48, e ∉ bad → engOf u 0x40 e.val = engOf s 0x40 e.val) ∧
        (partnerUp s = true → ∃ d : SteerMsg, SteerSent u 0x13 d ∧ d.b28 = s.rdn.declSeq ∧ d.b32 = BitVec.ofNat 16 (r * 256 + c) ∧
          d.data = historyBytes s))) ∧
  (∀ (s : State) (d : SteerMsg), ¬ Unheard s d →
    let theirs := (d.b32.toNat / 256, d.b32.toNat % 256, d.data)
    (s.rdn.checking = false → ∃ t, exec (.check d) s = .next t ∧ StatusFollows (service s) (steerArrived s d) t) ∧
    (s.rdn.checking = true → s.rdn.ownCheck = none → ∃ t, exec (.check d) s = .next t ∧
      StatusFollows (service s) { steerArrived s d with rdn := { s.rdn with partnerCheck := some theirs } } t) ∧
    (∀ e x h, s.rdn.checking = true → s.rdn.ownCheck = some (e, x, h) →
      let holder := s.rdn.st = .active
      let own := e = 2 ∨ historyLacks h d.data = true ∨ (¬ holder ∧ historyDiffers h d.data = true)
      let partner := d.b32.toNat / 256 = 2 ∨ historyLacks d.data h = true ∨ (holder ∧ historyDiffers d.data h = true)
      let cause := if e = 2 then 1 else if historyLacks h d.data then 2 else 3
      ∃ m u t, exec (.check d) s = .next t ∧ StatusFollows (service s) u t ∧ u.rdn.checking = false ∧ u.rdn.ownCheck = none ∧
        u.rdn.partnerCheck = none ∧ fld (getReg u Reg.RDN_LAST_CHECK) 8 6 = s.rdn.failEngine % 64 ∧
        (own → fld (getReg u Reg.RDN_LAST_CHECK) 0 2 = 2 ∧ fld (getReg u Reg.RDN_LAST_CHECK) 4 4 = cause ∧
          (getReg u Reg.RDN_IRQ_STAT).getLsbD 3 = true) ∧
        (¬ own → fld (getReg u Reg.RDN_LAST_CHECK) 0 2 = 1 ∧ fld (getReg u Reg.RDN_LAST_CHECK) 4 4 = 0) ∧
        (partner → fld (getReg u Reg.RDN_LAST_CHECK) 2 2 = 2) ∧ (¬ partner → fld (getReg u Reg.RDN_LAST_CHECK) 2 2 = 1) ∧
        (holder → own → ¬ partner → u.rdn.st = .yielded ∧ u.rdn.out = false ∧ u.rdn.yieldCause = cause ∧
          (getReg u Reg.RDN_IRQ_STAT).getLsbD 1 = true ∧ fld (getReg u Reg.RDN_LAST_CHECK) 16 3 = 0) ∧
        (holder → ¬ own ∨ partner → u.rdn.st = .active ∧ u.rdn.out = s.rdn.out ∧
          fld (getReg u Reg.RDN_LAST_CHECK) 16 3 = if own then 2 else if partner then 1 else 3) ∧
        (¬ holder → own → u.rdn.st = .yielded ∧ u.rdn.out = false ∧ u.rdn.yieldCause = cause ∧
          fld (getReg u Reg.RDN_LAST_CHECK) 16 3 = if partner then 2 else 1) ∧
        (¬ holder → ¬ own → u.rdn.st = s.rdn.st ∧ m.rdn = { s.rdn with checking := false, ownCheck := none, partnerCheck := none } ∧
          fld (getReg u Reg.RDN_LAST_CHECK) 16 3 = (if partner then 0 else 3) ∧
          (¬ partner → bitOf (getReg s Reg.RDN_CFG) 0 = true → MayAsk s → SyncAsked m u)))) ∧
  (∀ (s : State), s.rdn.ownCheck = none ∨ s.rdn.partnerCheck ≠ none →
    ∃ t, exec .checkMissing s = .next t ∧ StatusFollows (service s) s t) ∧
  (∀ (s : State) (e x : Nat) (h : List Byte), s.rdn.ownCheck = some (e, x, h) → s.rdn.partnerCheck = none →
    ∃ u t, exec .checkMissing s = .next t ∧ StatusFollows (service s) u t ∧ u.rdn.checking = false ∧ u.rdn.ownCheck = none ∧
      fld (getReg u Reg.RDN_LAST_CHECK) 2 2 = 3 ∧ fld (getReg u Reg.RDN_LAST_CHECK) 16 3 = 4 ∧
      fld (getReg u Reg.RDN_LAST_CHECK) 0 2 = (if e = 2 then 2 else 1) ∧
      (s.rdn.st = .active → u.rdn.st = .active ∧ u.rdn.silent = true) ∧
      (s.rdn.st ≠ .active → e = 2 → u.rdn.st = .yielded ∧ u.rdn.out = false ∧ u.rdn.yieldCause = 1) ∧
      (s.rdn.st ≠ .active → e ≠ 2 → u.rdn.st = s.rdn.st ∧ u.rdn.silent = true ∧
        (bitOf (getReg s Reg.RDN_CFG) 0 = true → MayAsk s → u.rdn.syncReq = true)))

/-- INTEG, COEF, TRIM and ACCORD keep the standby in step, and a SYNC is asked for, refused, sent, received, applied
or timed out (11_plane_steering_loops.md R339, 13_pair_redundancy_and_live_service.md R376,
13_pair_redundancy_and_live_service.md R384, 13_pair_redundancy_and_live_service.md R385,
13_pair_redundancy_and_live_service.md R386, 13_pair_redundancy_and_live_service.md R388,
13_pair_redundancy_and_live_service.md R391, 13_pair_redundancy_and_live_service.md R396). -/
def Obligations.TheStandbyFollowsAndSyncs : Prop :=
  (∀ (s : State) (d : SteerMsg) (c : Instr),
    c ∈ [.integ d, .coef d, .trim d, .accord d, .syncReq d, .syncData d, .syncRefuse d] → Unheard s d → exec c s = .next s) ∧
  (∀ (s : State) (d : SteerMsg) (c : Instr) (sub : Nat), ¬ Unheard s d →
    (c, sub) ∈ [(Instr.integ d, 1), (.coef d, 2), (.trim d, 0x12), (.accord d, 3)] →
    (s.rdn.st = .syncing → ∃ t, exec c s = .next t ∧ StatusFollows (service s)
      { steerArrived s d with rdn := { s.rdn with syncAfter := s.rdn.syncAfter ++ [(sub, d)] } } t) ∧
    (s.rdn.st ≠ .syncing → s.rdn.st ≠ .standby → s.rdn.st ≠ .waiting ∨ sub ≠ 1 →
      ∃ t, exec c s = .next t ∧ StatusFollows (service s) (steerArrived s d) t)) ∧
  (∀ (s : State) (d : SteerMsg), ¬ Unheard s d → s.rdn.st = .standby →
    let m := steerArrived s d
    let k := d.b32.toNat
    let w (o : Nat) : Word := toWord (beAt d.data o 4)
    (∃ t, exec (.coef d) s = .next t ∧ StatusFollows (service s)
      { m with ste := { s.ste with writes := s.ste.writes ++ [(k, d.b34.toNat, w 0)] } } t) ∧
    (∃ t, exec (.trim d) s = .next t ∧ StatusFollows (service s)
      { m with ste := { s.ste with writes := s.ste.writes ++ [(k, 0x0B8, w 0), (k, 0x0BC, w 4)] } } t) ∧
    (∃ t, exec (.accord d) s = .next t ∧ StatusFollows (service s)
      { m with ste := { s.ste with follow := s.ste.follow ++ [(d.b28, parseTable (d.data.take 4672))] } } t)) ∧
  (∀ (s : State) (d : SteerMsg), ¬ Unheard s d → s.rdn.st = .standby ∨ s.rdn.st = .waiting →
    let k := d.b32.toNat
    let v (i : Nat) : Word := toWord (beAt d.data (4 * i) 4)
    let own := (s.ste.snaps.find? fun x => x.1 == d.b28).map Prod.snd
    ∃ u t, exec (.integ d) s = .next t ∧ StatusFollows (service s) u t ∧
      (∀ j, j < k ∨ k + 2048 ≤ j → slotOf u j = slotOf s j) ∧
      (own = none → (∀ i, i < 2048 → slotOf u (k + i) = { slotOf s (k + i) with integ := v i } ∧
          (axisOf u ((k + i) / 4)).replaced = true) ∧
        getReg u Reg.RDN_CNT_INTEG_FIX = satAdd (getReg s Reg.RDN_CNT_INTEG_FIX) 2048) ∧
      (∀ x, own = some x → (∀ i, i < 2048 → slotOf u (k + i) = { slotOf s (k + i) with
          integ := (slotOf s (k + i)).integ + (v i - tget (fun _ => 0#32) x (k + i)) }) ∧ u.ste.axes = s.ste.axes ∧
        getReg u Reg.RDN_CNT_INTEG_FIX = satAdd (getReg s Reg.RDN_CNT_INTEG_FIX)
          ((List.range 2048).filter fun i => v i != tget (fun _ => 0#32) x (k + i)).length)) ∧
  (∀ (s : State) (d : SteerMsg), ¬ Unheard s d →
    (s.rdn.st = .active → mirrorsValid s = true → ∃ t, exec (.syncReq d) s = .next t ∧
      StatusFollows (service s) { steerArrived s d with rdn := { s.rdn with imageAsked := true } } t) ∧
    (s.rdn.st ≠ .active ∨ mirrorsValid s = false → ∃ u t, exec (.syncReq d) s = .next t ∧ StatusFollows (service s) u t ∧
      u.rdn = s.rdn ∧ u.regs = s.regs ∧ ∃ x : SteerMsg, SteerSent u 0x16 x ∧ x.b32 = BitVec.ofNat 16 stPARTNER ∧ x.data = [])) ∧
  (∀ (s : State), ∃ t, exec .syncReqRepeat s = .next t ∧ MaybeAsks s t) ∧
  (∀ (s : State),
    (s.rdn.imageAsked = false ∨ s.rdn.st ≠ .active ∨ s.ste.move ≠ none → exec .syncImageTake s = .next s) ∧
    (s.rdn.imageAsked = true → s.rdn.st = .active → s.ste.move = none → ∃ t, exec .syncImageTake s = .next t ∧
      t.rdn = { s.rdn with imageAsked := false } ∧ t.ste = s.ste ∧ t.regs = s.regs ∧
      (partnerUp s = true → ∀ k, k < 130 → ∃ x : SteerMsg, SteerSent t 0x15 x ∧ x.b28 = seq0 s ∧
        x.b32.toNat * 65536 + x.b34.toNat = 8192 * k ∧ x.data = slice (syncImageBytes s) (8192 * k) 8192))) ∧
  (∀ (s : State) (d : SteerMsg), ¬ Unheard s d →
    let o := d.b32.toNat * 65536 + d.b34.toNat
    (s.rdn.syncReq = false → (∃ t, exec (.syncData d) s = .next t ∧ StatusFollows (service s) (steerArrived s d) t) ∧
      ∃ t, exec (.syncRefuse d) s = .next t ∧ StatusFollows (service s) (steerArrived s d) t) ∧
    (s.rdn.syncReq = true → (∃ u t, exec (.syncData d) s = .next t ∧ StatusFollows (service s) u t ∧
        u.rdn = { s.rdn with
          st := if s.rdn.st = .waiting ∨ s.rdn.st = .standby ∨ s.rdn.st = .yielded then .syncing else s.rdn.st
          syncMsgs := min 130 (s.rdn.syncMsgs + 1)
          syncSeq := d.b28
          syncImage := u.rdn.syncImage } ∧
        (∀ i y, d.data[i]? = some y → tget (fun _ => 0#8) u.rdn.syncImage (o + i) = y) ∧
        (∀ a, a < o ∨ o + d.data.length ≤ a → tget (fun _ => 0#8) u.rdn.syncImage a = tget (fun _ => 0#8) s.rdn.syncImage a) ∧
        getReg u Reg.RDN_SYNC_STAT = toWord (min 130 (s.rdn.syncMsgs + 1))) ∧
      ∃ u t, exec (.syncRefuse d) s = .next t ∧ StatusFollows (service s) u t ∧ RdnErr u stPARTNER 0 ∧
        u.rdn = { s.rdn with syncReq := false, syncMsgs := 0, syncImage := [], syncAfter := [] })) ∧
  (∀ (s : State),
    (s.rdn.syncReq = false → ∃ t, exec .syncTimeout s = .next t ∧ StatusFollows (service s) s t) ∧
    (s.rdn.syncReq = true → ∃ u t, exec .syncTimeout s = .next t ∧ StatusFollows (service s) u t ∧ RdnErr u stLINK 0 ∧
      u.rdn = { s.rdn with
        syncReq := false
        syncMsgs := 0
        syncImage := []
        syncAfter := []
        st := if s.rdn.st = .syncing ∨ s.rdn.st = .standby ∨ s.rdn.st = .yielded then .waiting else s.rdn.st })) ∧
  (∀ (s : State) (bs : List Byte), Accepts s bs 0 → s.rdn.syncReq = true → 130 ≤ s.rdn.syncMsgs → s.rdn.syncAfter = [] →
    s.ste.follow = [] → (∀ i, frontEntry s = some i → (entryOf s i).st ≠ 4) →
    ∃ t, exec (.sample bs) s = .next t ∧ t.rdn.st = .standby ∧ t.rdn.stale = false ∧ t.rdn.syncReq = false ∧
      t.ste.present = parseTable (treadBytes (fun _ => 0#8) s.rdn.syncImage 958464 4672) ∧
      (getReg t Reg.RDN_IRQ_STAT).getLsbD 5 = true ∧ calValid t = true) ∧
  (∀ (s : State) (who : Requester), Commands s who 0x0A 0 0x044 →
    let mine := s.rdn.st = .waiting ∨ s.rdn.st = .standby ∨ s.rdn.st = .yielded
    let ready := s.rdn.heard = true ∧ s.rdn.pState = 0x15 ∧ partnerUp s = true
    (¬ mine → ∃ t, exec (.rdnSync who) s = .next t ∧ RefusedWith s t 0x0A 0 stSTATE) ∧
    (mine → ¬ ready → ∃ t, exec (.rdnSync who) s = .next t ∧ RefusedWith s t 0x0A 0 stPARTNER) ∧
    (mine → ready → MayAsk s → ∃ u t, exec (.rdnSync who) s = .next t ∧ StatusFollows (service s) u t ∧ SyncAsked s u) ∧
    (mine → ready → ¬ MayAsk s → ∃ t, exec (.rdnSync who) s = .next t ∧ StatusFollows (service s) s t))

/-- Sillage's limiter, FIFO, writer, ring, host marks, reads by SEQ, release, checkpoints and the copy in flash
(14_sillage_check_units_scratch_banks.md R398, 14_sillage_check_units_scratch_banks.md R400,
14_sillage_check_units_scratch_banks.md R401, 14_sillage_check_units_scratch_banks.md R402,
14_sillage_check_units_scratch_banks.md R403, 14_sillage_check_units_scratch_banks.md R404,
14_sillage_check_units_scratch_banks.md R405, 14_sillage_check_units_scratch_banks.md R406,
14_sillage_check_units_scratch_banks.md R407, 14_sillage_check_units_scratch_banks.md R408,
14_sillage_check_units_scratch_banks.md R409, 14_sillage_check_units_scratch_banks.md R410). -/
def Obligations.SillageTakesWritesFreesAndPersistsRecords : Prop :=
  (∀ (s : State) (b : Fin 1024), let k := bucketOf s b.val
    let below := k.tokens < fld (getReg s Reg.EVR_RL_CFG) 0 8
    (¬ below → exec (.bucketRefill b) s = .next s) ∧
    (below → ∃ m t, exec (.bucketRefill b) s = .next t ∧ m = { s with evr := { s.evr with buckets := m.evr.buckets } } ∧
      (bucketOf m b.val).tokens = k.tokens + 1 ∧ (bucketOf m b.val).supp = 0 ∧
      (∀ j, j ≠ b.val → bucketOf m j = bucketOf s j) ∧
      (k.supp = 0 → t = m) ∧
      (k.supp ≠ 0 → ∃ u, EntersFifo m u (newRec s 3 k.sev k.code k.page k.inst 0 [toWord k.supp, k.first, k.last]) ∧ Reports [] u t ∧ t.evr = u.evr))) ∧
  (∀ (s : State) (who : Requester) (sev : BitVec 3), Commands s who 0x07 0 0x0C0 →
    (6 ≤ sev.toNat → ∃ t, exec (.hostmark who sev) s = .next t ∧ RefusedWith s t 0x07 0 stRANGE) ∧
    (sev.toNat < 6 → ∃ m u t, exec (.hostmark who sev) s = .next t ∧ m = { s with regs := m.regs } ∧
      (∀ a, getReg m a = if a = Reg.EVR_HM_CTL then toWord (16 * sev.toNat) else getReg s a) ∧
      MeetsLimiter m u (newRec s 4 sev.toNat 0x0720 0x07 0 0
        ((List.range 8).map fun i => getReg s (Reg.EVR_HM_TEXT0 + 4 * i))) ∧ Reports [] u t ∧ t.evr = u.evr)) ∧
  (∀ s : State,
    (s.evr.losses ≠ [] → s.evr.fifo.length ≤ 48 → ∃ t, exec .recordWrite s = .next t ∧ EntersRing
      { s with evr := { s.evr with losses := [], lossFirst := 0#32, lossLast := 0#32 } } t
      (newRec s 2 (s.evr.losses.foldl (fun m x => if x.2 = 0 then m else max m x.1) 0) 0x0721 0x07 0 0
        ((List.range 6).map (fun k => toWord (tget (fun _ => 0) s.evr.losses k)) ++ [s.evr.lossFirst, s.evr.lossLast]))) ∧
    (s.evr.losses = [] ∨ 48 < s.evr.fifo.length → ∀ r l, s.evr.fifo = r :: l → ∃ t, exec .recordWrite s = .next t ∧
      EntersRing { s with evr := { s.evr with fifo := l } } t r) ∧
    (s.evr.losses = [] → s.evr.fifo = [] → exec .recordWrite s = .next s)) ∧
  (∀ (s : State) (who : Requester) (seq : Word), Reaches s who 0x07 0 0x054 →
    ∃ t, exec (.rdSeqWrite who seq) s = .next t ∧ t = { s with regs := t.regs } ∧
      (∀ a, getReg t a = if a = Reg.EVR_RD_SEQ then seq else getReg s a) ∧
      (∀ older r newer, s.evr.ring = older ++ r :: newer → r.seq = seq → (∀ y ∈ older, y.seq ≠ seq) →
        viewReg t 0x07 0 0x058 = some 1 ∧
        ∀ w, w < 16 → viewReg t 0x07 0 (0x060 + 4 * w) = some (leNat (((recBytes r).drop (4 * w)).take 4))) ∧
      ((∀ r ∈ s.evr.ring, r.seq ≠ seq) → (∀ w, w < 16 → viewReg t 0x07 0 (0x060 + 4 * w) = some 0) ∧
        (seq ≠ 0#32 → s.evr.newest ≠ 0#32 → viewReg t 0x07 0 0x058 =
          some (if (s.evr.newest - seq).toNat < 2 ^ 31 then 2 else 0))) ∧
      (∀ older r newer, s.evr.ring = older ++ r :: newer → r.seq ≠ seq → (r.seq - seq).toNat < 2 ^ 31 →
        (∀ y ∈ older, y.seq = seq ∨ 2 ^ 31 ≤ (y.seq - seq).toNat) → viewReg t 0x07 0 0x05C = some r.seq.toNat) ∧
      ((∀ y ∈ s.evr.ring, y.seq = seq ∨ 2 ^ 31 ≤ (y.seq - seq).toNat) → viewReg t 0x07 0 0x05C = some 0)) ∧
  (∀ (s : State) (who : Requester) (seq : Word), Commands s who 0x07 0 0x0A0 →
    let free (r : Rec) : Option Rec := if r.persisted = true ∨ qualifies s r = false then none else some { r with released := true }
    ∃ t, exec (.sillageRelease who seq) s = .next t ∧ t = { s with evr := { s.evr with
      ring := s.evr.ring.filterMap fun r => if (seq - r.seq).toNat < 2 ^ 31 then free r else some r } }) ∧
  (∀ s : State,
    let sec := match ckNewest s with | some (k, _, _) => k | none => 0
    let erased (k i : Nat) : Prop := ckRead s k i = List.replicate 16 0xFF#8
    let byte (u : State) (a : Nat) : Byte := tget (fun _ => 0xFF#8) u.mem.flash a
    (¬ checkpointDue s → exec .checkpointWrite s = .next s) ∧
    (checkpointDue s → ∃ t, exec .checkpointWrite s = .next t ∧
      t = { s with mem := { s.mem with flash := t.mem.flash } } ∧
      (∀ i, i < 4096 → (∀ j, i ≤ j → j < 4096 → erased sec j) → (i = 0 ∨ ¬ erased sec (i - 1)) →
        ckRead t sec i = checkpointEntry s ∧
        ∀ a, a < ckAddr sec i ∨ ckAddr sec i + 16 ≤ a → byte t a = byte s a) ∧
      (¬ erased sec 4095 → ckRead t (1 - sec) 0 = checkpointEntry s ∧
        (∀ a, ckAddr (1 - sec) 1 ≤ a → a < ckAddr (1 - sec) 4096 → byte t a = 0xFF#8) ∧
        ∀ a, a < ckAddr (1 - sec) 0 ∨ ckAddr (1 - sec) 4096 ≤ a → byte t a = byte s a))) ∧
  (∀ s : State,
    let due (r : Rec) : Bool := qualifies s r && !r.persisted
    let byte (u : State) (a : Nat) : Byte := tget (fun _ => 0xFF#8) u.mem.flash a
    let erased (k i : Nat) : Prop := psRead s k i = List.replicate 64 0xFF#8
    let opens (sec : Nat) : Prop := (sec < 190 ∧ psSeqOf s sec = none ∧ ∀ j, j < sec → psSeqOf s j ≠ none) ∨
      ((∀ j, j < 190 → psSeqOf s j ≠ none) ∧ ∃ q, psOldest (psSectors s) = some (q, sec))
    (s.boot.phase ≠ .firmware → exec .sillagePersist s = .next s) ∧
    (s.boot.phase = .firmware → ∃ t, exec .sillagePersist s = .next t ∧
      t = { s with
        regs := t.regs
        fresh := t.fresh
        mem := { s.mem with flash := t.mem.flash }
        evr := { s.evr with ring := t.evr.ring } } ∧
      (∀ a, a ≠ Reg.EVR_PERSIST_SEQ → getReg t a = getReg s a) ∧
      (∀ r, (s.evr.ring.filter due).getLast? = some r → getReg t Reg.EVR_PERSIST_SEQ = r.seq) ∧
      (∀ r ∈ t.evr.ring, qualifies s r = true → r.persisted = true) ∧
      (∀ r ∈ s.evr.ring, (∀ x ∈ s.evr.ring, x.seq = r.seq → due x = false) → r ∈ t.evr.ring) ∧
      ((∀ r ∈ s.evr.ring, due r = false) → t = s) ∧
      (∀ r, s.evr.ring.filter due = [r] →
        (∀ q sec i, psNewest (psSectors s) = some (q, sec) → 1 ≤ i → i < 1024 → (∀ j, i ≤ j → j < 1024 → erased sec j) →
          (i = 1 ∨ ¬ erased sec (i - 1)) → psRead t sec i = recBytes r ∧
          ∀ a, a < psAddr sec i ∨ psAddr sec i + 64 ≤ a → byte t a = byte s a) ∧
        (∀ sec n, (psNewest (psSectors s) = none ∧ n = 1 ∨
            ∃ q k, psNewest (psSectors s) = some (q, k) ∧ n = q + 1 ∧ ¬ erased k 1023) → opens sec → n < 2 ^ 32 →
          psSeqOf t sec = some n ∧ psRead t sec 1 = recBytes r ∧
          (∀ a, psAddr sec 2 ≤ a → a < psAddr sec 1024 → byte t a = 0xFF#8) ∧
          ∀ a, a < psAddr sec 0 ∨ psAddr sec 1024 ≤ a → byte t a = byte s a)))) ∧
  (∀ s : State, let tag := mbxPeek s 8 8
    let ask := mbxPeek s 16 8
    (s.boot.phase ≠ .firmware → s.boot.sealOn = true → asked s 0x0E01 = true →
      ∃ t, exec .sillageRead s = .next t ∧ Answered s t 0x0E01 tag [] stNOTREADY) ∧
    (∀ n, Asks s 0x0E01 n [0, 1, 2, 3] → n ≠ 8 → ∃ t, exec .sillageRead s = .next t ∧ Answered s t 0x0E01 tag [] stRANGE) ∧
    (Asks s 0x0E01 8 [0, 1, 2, 3] → ∃ t, exec .sillageRead s = .next t ∧
      Answered s t 0x0E01 tag (sillageReadBody s (leNat (ask.take 4)) (leNat ((ask.drop 4).take 2))) stOK) ∧
    (asked s 0x0E01 = false → exec .sillageRead s = .next s))

/-- GO, LEARN and STOP of a CRC scan engine, the judgement of a pass, its early ends, and the next pass of a series
(14_sillage_check_units_scratch_banks.md R411, 14_sillage_check_units_scratch_banks.md R412,
14_sillage_check_units_scratch_banks.md R413, 14_sillage_check_units_scratch_banks.md R417,
05_memory_tiers_and_board_address_space.md R118, 05_memory_tiers_and_board_address_space.md R130). -/
def Obligations.CrcScansStartStopAndJudge : Prop :=
  (∀ (s : State) (who : Requester) (g : Fin 5) (c : Instr) (learn : Bool), Commands s who 0x08 g.val 0x058 →
    (c = .crcGo who g ∧ learn = false ∨ c = .crcLearn who g ∧ learn = true) →
    let a := crcStartAt s g.val
    let n := crcLen s g.val
    let bad := a % 64 ≠ 0 ∨ n % 64 ≠ 0 ∨ n = 0 ∨ CrossesTier g.val a n
    let refused (t : State) (st det : Nat) := RefusedWith s t 0x08 g.val st ∧ fld (getReg t (pageKey 0x08 g.val + 0x01C)) 0 8 = det
    (bad → ∃ t, exec c s = .next t ∧ refused t stRANGE 0x02) ∧
    (¬ bad → ¬ CrcReaches g.val a → ∃ t, exec c s = .next t ∧ refused t stRANGE 0x04) ∧
    (¬ bad → CrcReaches g.val a → (crcOf s g.val).run = .running → ∃ t, exec c s = .next t ∧ refused t stSTATE 0) ∧
    (¬ bad → CrcReaches g.val a → (crcOf s g.val).run ≠ .running → ∃ t, exec c s = .next t ∧ PassBegun s t g.val learn)) ∧
  (∀ (s : State) (who : Requester) (g : Fin 5), Commands s who 0x08 g.val 0x058 →
    let key := pageKey 0x08 g.val
    let ended (t : State) : Prop := crcOf t g.val = { crcOf s g.val with run := .idle, learn := false } ∧
      (∀ k, k ≠ g.val → crcOf t k = crcOf s k) ∧ getReg t (key + 0x060) = toWord stABORTED
    ((crcOf s g.val).run = .idle → ∃ t, exec (.crcStop who g) s = .next t ∧ RefusedWith s t 0x08 g.val stSTATE) ∧
    ((crcOf s g.val).run = .waiting → ∃ t, exec (.crcStop who g) s = .next t ∧ ended t ∧ t = { s with crc := t.crc, regs := t.regs } ∧
      ∀ a, a ≠ key + 0x060 → getReg t a = getReg s a) ∧
    ((crcOf s g.val).run = .running → ∃ t, exec (.crcStop who g) s = .next t ∧ ended t ∧
      Reports [key + 0x060, key + 0x010] { s with crc := t.crc } t ∧ getReg t (key + 0x010) = getReg s (key + 0x010) ||| 1#32)) ∧
  (∀ (s : State) (g : Fin 5) (upsetA upsetB : Bool),
    let key := pageKey 0x08 g.val
    let x := crcOf s g.val
    let start := crcStartAt s g.val
    let n := crcLen s g.val
    let awake := unitSt s (if g.val = 4 then dieSTE else g.val) = .on
    let data := if g.val = 4 then (List.range n).map fun i => scratchByte s (start + i) else readBytes s start n
    let c := crc32c data
    let a := getReg s (key + 0x04C)
    let b := getReg s (key + 0x050)
    let va := x.parA = true ∧ upsetA = false
    let vb := x.parB = true ∧ upsetB = false
    let agree := va ∧ vb ∧ a = b
    let hit := va ∧ c = a ∨ vb ∧ c = b
    let ran (t : State) : Prop := exec (.crcPassEnd g upsetA upsetB []) s = .next t
    let ended (t : State) (st det flags : Nat) : Prop := ran t ∧ PassEnded s t g.val st det flags upsetA upsetB false ∧
      getReg t (key + 0x064) = c ∧ (upsetA = false → getReg t (key + 0x04C) = a) ∧ (upsetB = false → getReg t (key + 0x050) = b)
    ((x.run ≠ .running ∨ ¬ awake) → exec (.crcPassEnd g upsetA upsetB []) s = .next s) ∧
    (x.run = .running → awake → start % 64 = 0 → n % 64 = 0 → (g.val ≠ 4 → Usable s start n) →
      (x.learn = true → ∃ t, ran t ∧ PassEnded s t g.val stOK 0 0 upsetA upsetB true ∧ getReg t (key + 0x064) = c ∧
        getReg t (key + 0x04C) = c ∧ getReg t (key + 0x050) = c) ∧
      (x.learn = false → agree → c = a → ∃ t, ended t stOK 0 12) ∧
      (x.learn = false → agree → c ≠ a → ∃ t, ended t stCHECK 0x10 1) ∧
      (x.learn = false → ¬ agree → hit → ∃ t, ended t stREFFAULT 0x11 (2 + (if va ∧ c = a then 4 else 0) + (if vb ∧ c = b then 8 else 0))) ∧
      (x.learn = false → ¬ agree → va ∨ vb → ¬ hit → ∃ t, ended t stCHECK 0x10 3) ∧
      (x.learn = false → ¬ va → ¬ vb → ∃ t, ended t stREFFAULT 0x12 2)) ∧
    (∀ i, x.run = .running → awake → g.val ≠ 4 → start % 64 = 0 → n % 64 = 0 → 64 * i < n → granuleReadStatus s (start + 64 * i) ≠ stOK →
      (∀ j, j < i → granuleReadStatus s (start + 64 * j) = stOK) →
      let st := granuleReadStatus s (start + 64 * i)
      ∃ t, ran t ∧ PassEnded s t g.val st (if st = stCHECK then 0x13 else 0) 0 upsetA upsetB false ∧
        getReg t (key + 0x064) = getReg s (key + 0x064)) ∧
    (∀ o, x.run = .running → awake → g.val = 4 → start ≤ o → o < start + n →
      ∃ t, exec (.crcPassEnd g upsetA upsetB [{ addr := o, bad := true }]) s = .next t ∧
        getReg t (key + 0x060) = toWord (stCHECK + 0x13 * 2 ^ 16) ∧ getReg t (key + 0x064) = getReg s (key + 0x064) ∧
        getReg t Reg.BNK_ECC_UE = satAdd (getReg s Reg.BNK_ECC_UE) 1 ∧ getReg t Reg.BNK_UE_ADDR = toWord (o / 8 * 8) ∧
        (getReg t Reg.BNK_IRQ_STAT).getLsbD 1 = true) ∧
    (x.run = .running → awake → g.val = 4 → 0 < n → s.blt.run = .copying ∨ s.blt.run = .testing →
      start < (bltRegion s + 1) * 65536 → bltRegion s * 65536 < start + n →
      ∃ t, ran t ∧ t.blt = { s.blt with run := .restoring, passed := false } ∧ bltRegion t = bltRegion s ∧
        bltAborts t = min (bltAborts s + 1) 15 ∧ getReg t Reg.BLT_CNT_ABORT = satAdd (getReg s Reg.BLT_CNT_ABORT) 1 ∧
        (getReg t Reg.BLT_IRQ_STAT).getLsbD 2 = true)) ∧
  (∀ (s : State) (g : Fin 5),
    ((crcOf s g.val).run ≠ .waiting → exec (.crcPeriodStart g) s = .next s) ∧
    ((crcOf s g.val).run = .waiting → ∃ t, exec (.crcPeriodStart g) s = .next t ∧ PassBegun s t g.val false))

/-- The Blotter's regions in order, retries, skipping after 8 aborts, the spare's test, and a failure's lasting
redirect (14_sillage_check_units_scratch_banks.md R416, 14_sillage_check_units_scratch_banks.md R417,
14_sillage_check_units_scratch_banks.md R418). -/
def Obligations.TheBlotterCopiesTestsRestoresAndRepairs : Prop :=
  (∀ (s : State) (c : Instr),
    let starts := (c = .blotterRegionStart ∧ bltAborts s = 0 ∨ c = .blotterRetry ∧ 0 < bltAborts s) ∧ BlotterFree s ∧ s.blt.spareNext = false
    (starts → exec c s = .next { s with blt := { s.blt with run := .copying, redirected := 0, passed := false } }) ∧
    (c = .blotterRegionStart ∨ c = .blotterRetry → ¬ starts → exec c s = .next s)) ∧
  (∀ s : State, let r := bltRegion s
    (s.blt.run ≠ .copying → exec .blotterCopyDone s = .next s) ∧
    (s.blt.run = .copying → ∃ t, exec .blotterCopyDone s = .next t ∧ t = { s with
        blt := { s.blt with run := .testing, redirected := 65536 }
        mem := { s.mem with spare := t.mem.spare } } ∧
      (∀ o, o < 65536 → tget (fun _ => 0#8) t.mem.spare o = tget (fun _ => 0#8) s.mem.scratch (r * 65536 + o)) ∧
      (∀ o, scratchByte t o = tget (fun _ => 0#8) s.mem.scratch o))) ∧
  (∀ (s : State) (o : Nat), let r := bltRegion s
    (s.blt.run ≠ .testing → exec (.blotterTestDone none) s = .next s ∧ exec (.blotterTestDone (some o)) s = .next s) ∧
    (s.blt.run = .testing →
      exec (.blotterTestDone none) s = .next { s with blt := { s.blt with run := .restoring, passed := true } } ∧
      ∃ t, exec (.blotterTestDone (some o)) s = .next t ∧
        Reports [Reg.BLT_REPAIR, Reg.BLT_FAIL_ADDR, Reg.BLT_CNT_FAIL, Reg.BLT_IRQ_STAT] { s with blt := { s.blt with run := .repaired } } t ∧
        getReg t Reg.BLT_REPAIR = toWord (1 + 256 * r) ∧ getReg t Reg.BLT_FAIL_ADDR = toWord (r * 65536 + o % 65536) ∧
        getReg t Reg.BLT_CNT_FAIL = satAdd (getReg s Reg.BLT_CNT_FAIL) 1 ∧
        getReg t Reg.BLT_IRQ_STAT = getReg s Reg.BLT_IRQ_STAT ||| 2#32)) ∧
  (∀ s : State, let r := bltRegion s
    let back (m : State) : Prop :=
      m = { s with regs := m.regs, blt := m.blt, mem := { s.mem with scratch := m.mem.scratch }, evr := m.evr, hst := m.hst, out := m.out, fresh := m.fresh } ∧
      (∀ a, a / 65536 ≠ r → tget (fun _ => 0#8) m.mem.scratch a = tget (fun _ => 0#8) s.mem.scratch a) ∧
      ∀ o, o < 65536 → tget (fun _ => 0#8) m.mem.scratch (r * 65536 + o) =
        if s.blt.redirected = 0 then tget (fun _ => 0#8) s.mem.scratch (r * 65536 + o) else tget (fun _ => 0#8) s.mem.spare o
    let marked (m : State) (ok : Bool) : Prop :=
      m.blt = { s.blt with run := .waiting, redirected := 0, tested := m.blt.tested, skipped := m.blt.skipped } ∧
      ∀ k, tget (fun _ => false) m.blt.tested k = (if k = r then ok else tget (fun _ => false) s.blt.tested k) ∧
        tget (fun _ => false) m.blt.skipped k = (if k = r then !ok else tget (fun _ => false) s.blt.skipped k)
    (s.blt.run ≠ .restoring → exec .blotterRestoreDone s = .next s) ∧
    (s.blt.run = .restoring → s.blt.passed = true → ∃ m t, exec .blotterRestoreDone s = .next t ∧ back m ∧ marked m true ∧
      Reports [] { s with blt := m.blt, mem := m.mem } m ∧ NextRegion m t r) ∧
    (s.blt.run = .restoring → s.blt.passed = false → 8 ≤ bltAborts s → ∃ m t, exec .blotterRestoreDone s = .next t ∧ back m ∧ marked m false ∧
      Reports [Reg.BLT_CNT_SKIP, Reg.BLT_IRQ_STAT] { s with blt := m.blt, mem := m.mem } m ∧
      getReg m Reg.BLT_CNT_SKIP = satAdd (getReg s Reg.BLT_CNT_SKIP) 1 ∧
      getReg m Reg.BLT_IRQ_STAT = getReg s Reg.BLT_IRQ_STAT ||| 8#32 ∧ NextRegion m t r) ∧
    (s.blt.run = .restoring → s.blt.passed = false → bltAborts s < 8 → ∃ t, exec .blotterRestoreDone s = .next t ∧ back t ∧
      t = { s with blt := { s.blt with run := .waiting, redirected := 0 }, mem := t.mem })) ∧
  (∀ (s : State) (bad : Bool), let tests := BlotterFree s ∧ s.blt.spareNext = true
    (¬ tests → exec (.blotterSpareTestDone bad) s = .next s) ∧
    (tests → bad = false → exec (.blotterSpareTestDone bad) s = .next { s with blt := { s.blt with spareNext := false } }) ∧
    (tests → bad = true → ∃ t, exec (.blotterSpareTestDone bad) s = .next t ∧
      Reports [Reg.BLT_REPAIR, Reg.BLT_CNT_FAIL, Reg.BLT_IRQ_STAT] { s with blt := { s.blt with run := .repaired } } t ∧
      getReg t Reg.BLT_REPAIR = getReg s Reg.BLT_REPAIR ||| 0x10000#32 ∧
      getReg t Reg.BLT_CNT_FAIL = satAdd (getReg s Reg.BLT_CNT_FAIL) 1 ∧
      getReg t Reg.BLT_IRQ_STAT = getReg s Reg.BLT_IRQ_STAT ||| 2#32))

/-- Neither the operating time nor the power-cycle count can be written, and a write to their registers is ignored
(02_module_power_clocks.md R40). -/
def Obligations.NoWriteChangesTheTimeCounters : Prop :=
  (∀ (s : State) (who : Requester) (a : BitVec 44) (v : Word),
    ∃ t, exec (.registerWrite who a v) s = .next t ∧ t.pwr.optime = s.pwr.optime ∧ t.pwr.pcycle = s.pwr.pcycle) ∧
  (∀ (s : State) (who : Requester) (a : BitVec 44) (v : Word) (o : Nat), o ∈ [0x090, 0x094, 0x098] →
    a.toNat = 0x0E000000000 + 0x02 * 0x100000 + o → Reaches s who 0x02 0 o →
    exec (.registerWrite who a v) s = .next s)

/-- An access to any address of a stack that is FAILED, or whose Flow die is, completes with NOTREADY and moves no
data (05_memory_tiers_and_board_address_space.md R118). -/
def Obligations.AccessesToAFailedStackAnswerNotReady : Prop :=
  ∀ (s : State) (k a n : Nat), k < 8 → unitSt s (dieSTK + k) = .failed ∨ unitSt s (k / 2) = .failed →
    k * stackSize ≤ a → a + n ≤ (k + 1) * stackSize → 0 < n →
    (∀ ecc, ∃ t, readMem s ecc a n = (stNOTREADY, List.replicate n 0#8, t) ∧ ∀ b, readByte t b = readByte s b) ∧
    (∀ bs : List Byte, bs.length = n → writeMem s a bs = (stNOTREADY, s)) ∧
    (∀ (l : Fin 64) (m : LinkMsg), (linkOf s l.val).st = .up → forHere s m = true → m.address.toNat % 2 ^ 44 = a →
      inRegion s (m.domain.toNat % 4096) a n = true → remoteSleepers s l.val a = [] →
      (64 * m.count.toNat = n → ∃ t, exec (.linkRead l m []) s = .next t ∧ LinkAnswer s t l.val 3 m stNOTREADY [] ∧
        ∀ b, readByte t b = readByte s b) ∧
      (m.data.length = n → ∃ t, exec (.linkWrite l m) s = .next t ∧ LinkAnswer s t l.val 4 m stNOTREADY [] ∧
        ∀ b, readByte t b = readByte s b))
end

