-- ==== Sys2Proof/Laws/State.lean ====
section
/-!
SUPPORT. One lemma for each update of the state and each field that it leaves alone.
-/

namespace Sys2Proof.Machine

@[simp] theorem setReg_pending (s : State) (b) (c) : (setReg s b c).pending = s.pending := rfl
@[simp] theorem setReg_out (s : State) (b) (c) : (setReg s b c).out = s.out := rfl
@[simp] theorem setReg_fresh (s : State) (b) (c) : (setReg s b c).fresh = s.fresh := rfl
@[simp] theorem setReg_ns (s : State) (b) (c) : (setReg s b c).ns = s.ns := rfl
@[simp] theorem setReg_pwr (s : State) (b) (c) : (setReg s b c).pwr = s.pwr := rfl
@[simp] theorem setReg_hst (s : State) (b) (c) : (setReg s b c).hst = s.hst := rfl
@[simp] theorem setReg_boot (s : State) (b) (c) : (setReg s b c).boot = s.boot := rfl
@[simp] theorem setReg_otp (s : State) (b) (c) : (setReg s b c).otp = s.otp := rfl
@[simp] theorem setReg_evr (s : State) (b) (c) : (setReg s b c).evr = s.evr := rfl
@[simp] theorem setReg_crc (s : State) (b) (c) : (setReg s b c).crc = s.crc := rfl
@[simp] theorem setReg_blt (s : State) (b) (c) : (setReg s b c).blt = s.blt := rfl
@[simp] theorem setReg_mem (s : State) (b) (c) : (setReg s b c).mem = s.mem := rfl
@[simp] theorem setReg_flow (s : State) (b) (c) : (setReg s b c).flow = s.flow := rfl
@[simp] theorem setReg_ct (s : State) (b) (c) : (setReg s b c).ct = s.ct := rfl
@[simp] theorem setReg_eng (s : State) (b) (c) : (setReg s b c).eng = s.eng := rfl
@[simp] theorem setReg_opt (s : State) (b) (c) : (setReg s b c).opt = s.opt := rfl
@[simp] theorem setReg_board (s : State) (b) (c) : (setReg s b c).board = s.board := rfl
@[simp] theorem setReg_kft (s : State) (b) (c) : (setReg s b c).kft = s.kft := rfl
@[simp] theorem setReg_ste (s : State) (b) (c) : (setReg s b c).ste = s.ste := rfl
@[simp] theorem setReg_rdn (s : State) (b) (c) : (setReg s b c).rdn = s.rdn := rfl
@[simp] theorem setReg_sel (s : State) (b) (c) : (setReg s b c).sel = s.sel := rfl

@[simp] theorem setRegN_pending (s : State) (b) (c) : (setRegN s b c).pending = s.pending := rfl
@[simp] theorem setRegN_out (s : State) (b) (c) : (setRegN s b c).out = s.out := rfl
@[simp] theorem setRegN_fresh (s : State) (b) (c) : (setRegN s b c).fresh = s.fresh := rfl
@[simp] theorem setRegN_ns (s : State) (b) (c) : (setRegN s b c).ns = s.ns := rfl
@[simp] theorem setRegN_pwr (s : State) (b) (c) : (setRegN s b c).pwr = s.pwr := rfl
@[simp] theorem setRegN_hst (s : State) (b) (c) : (setRegN s b c).hst = s.hst := rfl
@[simp] theorem setRegN_boot (s : State) (b) (c) : (setRegN s b c).boot = s.boot := rfl
@[simp] theorem setRegN_otp (s : State) (b) (c) : (setRegN s b c).otp = s.otp := rfl
@[simp] theorem setRegN_evr (s : State) (b) (c) : (setRegN s b c).evr = s.evr := rfl
@[simp] theorem setRegN_crc (s : State) (b) (c) : (setRegN s b c).crc = s.crc := rfl
@[simp] theorem setRegN_blt (s : State) (b) (c) : (setRegN s b c).blt = s.blt := rfl
@[simp] theorem setRegN_mem (s : State) (b) (c) : (setRegN s b c).mem = s.mem := rfl
@[simp] theorem setRegN_flow (s : State) (b) (c) : (setRegN s b c).flow = s.flow := rfl
@[simp] theorem setRegN_ct (s : State) (b) (c) : (setRegN s b c).ct = s.ct := rfl
@[simp] theorem setRegN_eng (s : State) (b) (c) : (setRegN s b c).eng = s.eng := rfl
@[simp] theorem setRegN_opt (s : State) (b) (c) : (setRegN s b c).opt = s.opt := rfl
@[simp] theorem setRegN_board (s : State) (b) (c) : (setRegN s b c).board = s.board := rfl
@[simp] theorem setRegN_kft (s : State) (b) (c) : (setRegN s b c).kft = s.kft := rfl
@[simp] theorem setRegN_ste (s : State) (b) (c) : (setRegN s b c).ste = s.ste := rfl
@[simp] theorem setRegN_rdn (s : State) (b) (c) : (setRegN s b c).rdn = s.rdn := rfl
@[simp] theorem setRegN_sel (s : State) (b) (c) : (setRegN s b c).sel = s.sel := rfl

@[simp] theorem setRegFld_pending (s : State) (b) (c) (d) (e) : (setRegFld s b c d e).pending = s.pending := rfl
@[simp] theorem setRegFld_out (s : State) (b) (c) (d) (e) : (setRegFld s b c d e).out = s.out := rfl
@[simp] theorem setRegFld_fresh (s : State) (b) (c) (d) (e) : (setRegFld s b c d e).fresh = s.fresh := rfl
@[simp] theorem setRegFld_ns (s : State) (b) (c) (d) (e) : (setRegFld s b c d e).ns = s.ns := rfl
@[simp] theorem setRegFld_pwr (s : State) (b) (c) (d) (e) : (setRegFld s b c d e).pwr = s.pwr := rfl
@[simp] theorem setRegFld_hst (s : State) (b) (c) (d) (e) : (setRegFld s b c d e).hst = s.hst := rfl
@[simp] theorem setRegFld_boot (s : State) (b) (c) (d) (e) : (setRegFld s b c d e).boot = s.boot := rfl
@[simp] theorem setRegFld_otp (s : State) (b) (c) (d) (e) : (setRegFld s b c d e).otp = s.otp := rfl
@[simp] theorem setRegFld_evr (s : State) (b) (c) (d) (e) : (setRegFld s b c d e).evr = s.evr := rfl
@[simp] theorem setRegFld_crc (s : State) (b) (c) (d) (e) : (setRegFld s b c d e).crc = s.crc := rfl
@[simp] theorem setRegFld_blt (s : State) (b) (c) (d) (e) : (setRegFld s b c d e).blt = s.blt := rfl
@[simp] theorem setRegFld_mem (s : State) (b) (c) (d) (e) : (setRegFld s b c d e).mem = s.mem := rfl
@[simp] theorem setRegFld_flow (s : State) (b) (c) (d) (e) : (setRegFld s b c d e).flow = s.flow := rfl
@[simp] theorem setRegFld_ct (s : State) (b) (c) (d) (e) : (setRegFld s b c d e).ct = s.ct := rfl
@[simp] theorem setRegFld_eng (s : State) (b) (c) (d) (e) : (setRegFld s b c d e).eng = s.eng := rfl
@[simp] theorem setRegFld_opt (s : State) (b) (c) (d) (e) : (setRegFld s b c d e).opt = s.opt := rfl
@[simp] theorem setRegFld_board (s : State) (b) (c) (d) (e) : (setRegFld s b c d e).board = s.board := rfl
@[simp] theorem setRegFld_kft (s : State) (b) (c) (d) (e) : (setRegFld s b c d e).kft = s.kft := rfl
@[simp] theorem setRegFld_ste (s : State) (b) (c) (d) (e) : (setRegFld s b c d e).ste = s.ste := rfl
@[simp] theorem setRegFld_rdn (s : State) (b) (c) (d) (e) : (setRegFld s b c d e).rdn = s.rdn := rfl
@[simp] theorem setRegFld_sel (s : State) (b) (c) (d) (e) : (setRegFld s b c d e).sel = s.sel := rfl

@[simp] theorem bumpReg_pending (s : State) (b) (c) : (bumpReg s b c).pending = s.pending := rfl
@[simp] theorem bumpReg_out (s : State) (b) (c) : (bumpReg s b c).out = s.out := rfl
@[simp] theorem bumpReg_fresh (s : State) (b) (c) : (bumpReg s b c).fresh = s.fresh := rfl
@[simp] theorem bumpReg_ns (s : State) (b) (c) : (bumpReg s b c).ns = s.ns := rfl
@[simp] theorem bumpReg_pwr (s : State) (b) (c) : (bumpReg s b c).pwr = s.pwr := rfl
@[simp] theorem bumpReg_hst (s : State) (b) (c) : (bumpReg s b c).hst = s.hst := rfl
@[simp] theorem bumpReg_boot (s : State) (b) (c) : (bumpReg s b c).boot = s.boot := rfl
@[simp] theorem bumpReg_otp (s : State) (b) (c) : (bumpReg s b c).otp = s.otp := rfl
@[simp] theorem bumpReg_evr (s : State) (b) (c) : (bumpReg s b c).evr = s.evr := rfl
@[simp] theorem bumpReg_crc (s : State) (b) (c) : (bumpReg s b c).crc = s.crc := rfl
@[simp] theorem bumpReg_blt (s : State) (b) (c) : (bumpReg s b c).blt = s.blt := rfl
@[simp] theorem bumpReg_mem (s : State) (b) (c) : (bumpReg s b c).mem = s.mem := rfl
@[simp] theorem bumpReg_flow (s : State) (b) (c) : (bumpReg s b c).flow = s.flow := rfl
@[simp] theorem bumpReg_ct (s : State) (b) (c) : (bumpReg s b c).ct = s.ct := rfl
@[simp] theorem bumpReg_eng (s : State) (b) (c) : (bumpReg s b c).eng = s.eng := rfl
@[simp] theorem bumpReg_opt (s : State) (b) (c) : (bumpReg s b c).opt = s.opt := rfl
@[simp] theorem bumpReg_board (s : State) (b) (c) : (bumpReg s b c).board = s.board := rfl
@[simp] theorem bumpReg_kft (s : State) (b) (c) : (bumpReg s b c).kft = s.kft := rfl
@[simp] theorem bumpReg_ste (s : State) (b) (c) : (bumpReg s b c).ste = s.ste := rfl
@[simp] theorem bumpReg_rdn (s : State) (b) (c) : (bumpReg s b c).rdn = s.rdn := rfl
@[simp] theorem bumpReg_sel (s : State) (b) (c) : (bumpReg s b c).sel = s.sel := rfl

@[simp] theorem wrapReg_pending (s : State) (b) (c) : (wrapReg s b c).pending = s.pending := rfl
@[simp] theorem wrapReg_out (s : State) (b) (c) : (wrapReg s b c).out = s.out := rfl
@[simp] theorem wrapReg_fresh (s : State) (b) (c) : (wrapReg s b c).fresh = s.fresh := rfl
@[simp] theorem wrapReg_ns (s : State) (b) (c) : (wrapReg s b c).ns = s.ns := rfl
@[simp] theorem wrapReg_pwr (s : State) (b) (c) : (wrapReg s b c).pwr = s.pwr := rfl
@[simp] theorem wrapReg_hst (s : State) (b) (c) : (wrapReg s b c).hst = s.hst := rfl
@[simp] theorem wrapReg_boot (s : State) (b) (c) : (wrapReg s b c).boot = s.boot := rfl
@[simp] theorem wrapReg_otp (s : State) (b) (c) : (wrapReg s b c).otp = s.otp := rfl
@[simp] theorem wrapReg_evr (s : State) (b) (c) : (wrapReg s b c).evr = s.evr := rfl
@[simp] theorem wrapReg_crc (s : State) (b) (c) : (wrapReg s b c).crc = s.crc := rfl
@[simp] theorem wrapReg_blt (s : State) (b) (c) : (wrapReg s b c).blt = s.blt := rfl
@[simp] theorem wrapReg_mem (s : State) (b) (c) : (wrapReg s b c).mem = s.mem := rfl
@[simp] theorem wrapReg_flow (s : State) (b) (c) : (wrapReg s b c).flow = s.flow := rfl
@[simp] theorem wrapReg_ct (s : State) (b) (c) : (wrapReg s b c).ct = s.ct := rfl
@[simp] theorem wrapReg_eng (s : State) (b) (c) : (wrapReg s b c).eng = s.eng := rfl
@[simp] theorem wrapReg_opt (s : State) (b) (c) : (wrapReg s b c).opt = s.opt := rfl
@[simp] theorem wrapReg_board (s : State) (b) (c) : (wrapReg s b c).board = s.board := rfl
@[simp] theorem wrapReg_kft (s : State) (b) (c) : (wrapReg s b c).kft = s.kft := rfl
@[simp] theorem wrapReg_ste (s : State) (b) (c) : (wrapReg s b c).ste = s.ste := rfl
@[simp] theorem wrapReg_rdn (s : State) (b) (c) : (wrapReg s b c).rdn = s.rdn := rfl
@[simp] theorem wrapReg_sel (s : State) (b) (c) : (wrapReg s b c).sel = s.sel := rfl

@[simp] theorem orReg_pending (s : State) (b) (c) : (orReg s b c).pending = s.pending := rfl
@[simp] theorem orReg_out (s : State) (b) (c) : (orReg s b c).out = s.out := rfl
@[simp] theorem orReg_fresh (s : State) (b) (c) : (orReg s b c).fresh = s.fresh := rfl
@[simp] theorem orReg_ns (s : State) (b) (c) : (orReg s b c).ns = s.ns := rfl
@[simp] theorem orReg_pwr (s : State) (b) (c) : (orReg s b c).pwr = s.pwr := rfl
@[simp] theorem orReg_hst (s : State) (b) (c) : (orReg s b c).hst = s.hst := rfl
@[simp] theorem orReg_boot (s : State) (b) (c) : (orReg s b c).boot = s.boot := rfl
@[simp] theorem orReg_otp (s : State) (b) (c) : (orReg s b c).otp = s.otp := rfl
@[simp] theorem orReg_evr (s : State) (b) (c) : (orReg s b c).evr = s.evr := rfl
@[simp] theorem orReg_crc (s : State) (b) (c) : (orReg s b c).crc = s.crc := rfl
@[simp] theorem orReg_blt (s : State) (b) (c) : (orReg s b c).blt = s.blt := rfl
@[simp] theorem orReg_mem (s : State) (b) (c) : (orReg s b c).mem = s.mem := rfl
@[simp] theorem orReg_flow (s : State) (b) (c) : (orReg s b c).flow = s.flow := rfl
@[simp] theorem orReg_ct (s : State) (b) (c) : (orReg s b c).ct = s.ct := rfl
@[simp] theorem orReg_eng (s : State) (b) (c) : (orReg s b c).eng = s.eng := rfl
@[simp] theorem orReg_opt (s : State) (b) (c) : (orReg s b c).opt = s.opt := rfl
@[simp] theorem orReg_board (s : State) (b) (c) : (orReg s b c).board = s.board := rfl
@[simp] theorem orReg_kft (s : State) (b) (c) : (orReg s b c).kft = s.kft := rfl
@[simp] theorem orReg_ste (s : State) (b) (c) : (orReg s b c).ste = s.ste := rfl
@[simp] theorem orReg_rdn (s : State) (b) (c) : (orReg s b c).rdn = s.rdn := rfl
@[simp] theorem orReg_sel (s : State) (b) (c) : (orReg s b c).sel = s.sel := rfl

@[simp] theorem andNotReg_pending (s : State) (b) (c) : (andNotReg s b c).pending = s.pending := rfl
@[simp] theorem andNotReg_out (s : State) (b) (c) : (andNotReg s b c).out = s.out := rfl
@[simp] theorem andNotReg_fresh (s : State) (b) (c) : (andNotReg s b c).fresh = s.fresh := rfl
@[simp] theorem andNotReg_ns (s : State) (b) (c) : (andNotReg s b c).ns = s.ns := rfl
@[simp] theorem andNotReg_pwr (s : State) (b) (c) : (andNotReg s b c).pwr = s.pwr := rfl
@[simp] theorem andNotReg_hst (s : State) (b) (c) : (andNotReg s b c).hst = s.hst := rfl
@[simp] theorem andNotReg_boot (s : State) (b) (c) : (andNotReg s b c).boot = s.boot := rfl
@[simp] theorem andNotReg_otp (s : State) (b) (c) : (andNotReg s b c).otp = s.otp := rfl
@[simp] theorem andNotReg_evr (s : State) (b) (c) : (andNotReg s b c).evr = s.evr := rfl
@[simp] theorem andNotReg_crc (s : State) (b) (c) : (andNotReg s b c).crc = s.crc := rfl
@[simp] theorem andNotReg_blt (s : State) (b) (c) : (andNotReg s b c).blt = s.blt := rfl
@[simp] theorem andNotReg_mem (s : State) (b) (c) : (andNotReg s b c).mem = s.mem := rfl
@[simp] theorem andNotReg_flow (s : State) (b) (c) : (andNotReg s b c).flow = s.flow := rfl
@[simp] theorem andNotReg_ct (s : State) (b) (c) : (andNotReg s b c).ct = s.ct := rfl
@[simp] theorem andNotReg_eng (s : State) (b) (c) : (andNotReg s b c).eng = s.eng := rfl
@[simp] theorem andNotReg_opt (s : State) (b) (c) : (andNotReg s b c).opt = s.opt := rfl
@[simp] theorem andNotReg_board (s : State) (b) (c) : (andNotReg s b c).board = s.board := rfl
@[simp] theorem andNotReg_kft (s : State) (b) (c) : (andNotReg s b c).kft = s.kft := rfl
@[simp] theorem andNotReg_ste (s : State) (b) (c) : (andNotReg s b c).ste = s.ste := rfl
@[simp] theorem andNotReg_rdn (s : State) (b) (c) : (andNotReg s b c).rdn = s.rdn := rfl
@[simp] theorem andNotReg_sel (s : State) (b) (c) : (andNotReg s b c).sel = s.sel := rfl

@[simp] theorem bump64_pending (s : State) (b) (c) (d) : (bump64 s b c d).pending = s.pending := rfl
@[simp] theorem bump64_out (s : State) (b) (c) (d) : (bump64 s b c d).out = s.out := rfl
@[simp] theorem bump64_fresh (s : State) (b) (c) (d) : (bump64 s b c d).fresh = s.fresh := rfl
@[simp] theorem bump64_ns (s : State) (b) (c) (d) : (bump64 s b c d).ns = s.ns := rfl
@[simp] theorem bump64_pwr (s : State) (b) (c) (d) : (bump64 s b c d).pwr = s.pwr := rfl
@[simp] theorem bump64_hst (s : State) (b) (c) (d) : (bump64 s b c d).hst = s.hst := rfl
@[simp] theorem bump64_boot (s : State) (b) (c) (d) : (bump64 s b c d).boot = s.boot := rfl
@[simp] theorem bump64_otp (s : State) (b) (c) (d) : (bump64 s b c d).otp = s.otp := rfl
@[simp] theorem bump64_evr (s : State) (b) (c) (d) : (bump64 s b c d).evr = s.evr := rfl
@[simp] theorem bump64_crc (s : State) (b) (c) (d) : (bump64 s b c d).crc = s.crc := rfl
@[simp] theorem bump64_blt (s : State) (b) (c) (d) : (bump64 s b c d).blt = s.blt := rfl
@[simp] theorem bump64_mem (s : State) (b) (c) (d) : (bump64 s b c d).mem = s.mem := rfl
@[simp] theorem bump64_flow (s : State) (b) (c) (d) : (bump64 s b c d).flow = s.flow := rfl
@[simp] theorem bump64_ct (s : State) (b) (c) (d) : (bump64 s b c d).ct = s.ct := rfl
@[simp] theorem bump64_eng (s : State) (b) (c) (d) : (bump64 s b c d).eng = s.eng := rfl
@[simp] theorem bump64_opt (s : State) (b) (c) (d) : (bump64 s b c d).opt = s.opt := rfl
@[simp] theorem bump64_board (s : State) (b) (c) (d) : (bump64 s b c d).board = s.board := rfl
@[simp] theorem bump64_kft (s : State) (b) (c) (d) : (bump64 s b c d).kft = s.kft := rfl
@[simp] theorem bump64_ste (s : State) (b) (c) (d) : (bump64 s b c d).ste = s.ste := rfl
@[simp] theorem bump64_rdn (s : State) (b) (c) (d) : (bump64 s b c d).rdn = s.rdn := rfl
@[simp] theorem bump64_sel (s : State) (b) (c) (d) : (bump64 s b c d).sel = s.sel := rfl

@[simp] theorem setUnit_pending (s : State) (b) (c) : (setUnit s b c).pending = s.pending := rfl
@[simp] theorem setUnit_out (s : State) (b) (c) : (setUnit s b c).out = s.out := rfl
@[simp] theorem setUnit_fresh (s : State) (b) (c) : (setUnit s b c).fresh = s.fresh := rfl
@[simp] theorem setUnit_ns (s : State) (b) (c) : (setUnit s b c).ns = s.ns := rfl
@[simp] theorem setUnit_regs (s : State) (b) (c) : (setUnit s b c).regs = s.regs := rfl
@[simp] theorem setUnit_hst (s : State) (b) (c) : (setUnit s b c).hst = s.hst := rfl
@[simp] theorem setUnit_boot (s : State) (b) (c) : (setUnit s b c).boot = s.boot := rfl
@[simp] theorem setUnit_otp (s : State) (b) (c) : (setUnit s b c).otp = s.otp := rfl
@[simp] theorem setUnit_evr (s : State) (b) (c) : (setUnit s b c).evr = s.evr := rfl
@[simp] theorem setUnit_crc (s : State) (b) (c) : (setUnit s b c).crc = s.crc := rfl
@[simp] theorem setUnit_blt (s : State) (b) (c) : (setUnit s b c).blt = s.blt := rfl
@[simp] theorem setUnit_mem (s : State) (b) (c) : (setUnit s b c).mem = s.mem := rfl
@[simp] theorem setUnit_flow (s : State) (b) (c) : (setUnit s b c).flow = s.flow := rfl
@[simp] theorem setUnit_ct (s : State) (b) (c) : (setUnit s b c).ct = s.ct := rfl
@[simp] theorem setUnit_eng (s : State) (b) (c) : (setUnit s b c).eng = s.eng := rfl
@[simp] theorem setUnit_opt (s : State) (b) (c) : (setUnit s b c).opt = s.opt := rfl
@[simp] theorem setUnit_board (s : State) (b) (c) : (setUnit s b c).board = s.board := rfl
@[simp] theorem setUnit_kft (s : State) (b) (c) : (setUnit s b c).kft = s.kft := rfl
@[simp] theorem setUnit_ste (s : State) (b) (c) : (setUnit s b c).ste = s.ste := rfl
@[simp] theorem setUnit_rdn (s : State) (b) (c) : (setUnit s b c).rdn = s.rdn := rfl
@[simp] theorem setUnit_sel (s : State) (b) (c) : (setUnit s b c).sel = s.sel := rfl

@[simp] theorem modWake_pending (s : State) (b) (c) : (modWake s b c).pending = s.pending := rfl
@[simp] theorem modWake_out (s : State) (b) (c) : (modWake s b c).out = s.out := rfl
@[simp] theorem modWake_fresh (s : State) (b) (c) : (modWake s b c).fresh = s.fresh := rfl
@[simp] theorem modWake_ns (s : State) (b) (c) : (modWake s b c).ns = s.ns := rfl
@[simp] theorem modWake_regs (s : State) (b) (c) : (modWake s b c).regs = s.regs := rfl
@[simp] theorem modWake_hst (s : State) (b) (c) : (modWake s b c).hst = s.hst := rfl
@[simp] theorem modWake_boot (s : State) (b) (c) : (modWake s b c).boot = s.boot := rfl
@[simp] theorem modWake_otp (s : State) (b) (c) : (modWake s b c).otp = s.otp := rfl
@[simp] theorem modWake_evr (s : State) (b) (c) : (modWake s b c).evr = s.evr := rfl
@[simp] theorem modWake_crc (s : State) (b) (c) : (modWake s b c).crc = s.crc := rfl
@[simp] theorem modWake_blt (s : State) (b) (c) : (modWake s b c).blt = s.blt := rfl
@[simp] theorem modWake_mem (s : State) (b) (c) : (modWake s b c).mem = s.mem := rfl
@[simp] theorem modWake_flow (s : State) (b) (c) : (modWake s b c).flow = s.flow := rfl
@[simp] theorem modWake_ct (s : State) (b) (c) : (modWake s b c).ct = s.ct := rfl
@[simp] theorem modWake_eng (s : State) (b) (c) : (modWake s b c).eng = s.eng := rfl
@[simp] theorem modWake_opt (s : State) (b) (c) : (modWake s b c).opt = s.opt := rfl
@[simp] theorem modWake_board (s : State) (b) (c) : (modWake s b c).board = s.board := rfl
@[simp] theorem modWake_kft (s : State) (b) (c) : (modWake s b c).kft = s.kft := rfl
@[simp] theorem modWake_ste (s : State) (b) (c) : (modWake s b c).ste = s.ste := rfl
@[simp] theorem modWake_rdn (s : State) (b) (c) : (modWake s b c).rdn = s.rdn := rfl
@[simp] theorem modWake_sel (s : State) (b) (c) : (modWake s b c).sel = s.sel := rfl

@[simp] theorem send_pending (s : State) (b) : (send s b).pending = s.pending := rfl
@[simp] theorem send_fresh (s : State) (b) : (send s b).fresh = s.fresh := rfl
@[simp] theorem send_ns (s : State) (b) : (send s b).ns = s.ns := rfl
@[simp] theorem send_regs (s : State) (b) : (send s b).regs = s.regs := rfl
@[simp] theorem send_pwr (s : State) (b) : (send s b).pwr = s.pwr := rfl
@[simp] theorem send_hst (s : State) (b) : (send s b).hst = s.hst := rfl
@[simp] theorem send_boot (s : State) (b) : (send s b).boot = s.boot := rfl
@[simp] theorem send_otp (s : State) (b) : (send s b).otp = s.otp := rfl
@[simp] theorem send_evr (s : State) (b) : (send s b).evr = s.evr := rfl
@[simp] theorem send_crc (s : State) (b) : (send s b).crc = s.crc := rfl
@[simp] theorem send_blt (s : State) (b) : (send s b).blt = s.blt := rfl
@[simp] theorem send_mem (s : State) (b) : (send s b).mem = s.mem := rfl
@[simp] theorem send_flow (s : State) (b) : (send s b).flow = s.flow := rfl
@[simp] theorem send_ct (s : State) (b) : (send s b).ct = s.ct := rfl
@[simp] theorem send_eng (s : State) (b) : (send s b).eng = s.eng := rfl
@[simp] theorem send_opt (s : State) (b) : (send s b).opt = s.opt := rfl
@[simp] theorem send_board (s : State) (b) : (send s b).board = s.board := rfl
@[simp] theorem send_kft (s : State) (b) : (send s b).kft = s.kft := rfl
@[simp] theorem send_ste (s : State) (b) : (send s b).ste = s.ste := rfl
@[simp] theorem send_rdn (s : State) (b) : (send s b).rdn = s.rdn := rfl
@[simp] theorem send_sel (s : State) (b) : (send s b).sel = s.sel := rfl

@[simp] theorem setSess_pending (s : State) (b) (c) : (setSess s b c).pending = s.pending := rfl
@[simp] theorem setSess_out (s : State) (b) (c) : (setSess s b c).out = s.out := rfl
@[simp] theorem setSess_fresh (s : State) (b) (c) : (setSess s b c).fresh = s.fresh := rfl
@[simp] theorem setSess_ns (s : State) (b) (c) : (setSess s b c).ns = s.ns := rfl
@[simp] theorem setSess_regs (s : State) (b) (c) : (setSess s b c).regs = s.regs := rfl
@[simp] theorem setSess_pwr (s : State) (b) (c) : (setSess s b c).pwr = s.pwr := rfl
@[simp] theorem setSess_boot (s : State) (b) (c) : (setSess s b c).boot = s.boot := rfl
@[simp] theorem setSess_otp (s : State) (b) (c) : (setSess s b c).otp = s.otp := rfl
@[simp] theorem setSess_evr (s : State) (b) (c) : (setSess s b c).evr = s.evr := rfl
@[simp] theorem setSess_crc (s : State) (b) (c) : (setSess s b c).crc = s.crc := rfl
@[simp] theorem setSess_blt (s : State) (b) (c) : (setSess s b c).blt = s.blt := rfl
@[simp] theorem setSess_mem (s : State) (b) (c) : (setSess s b c).mem = s.mem := rfl
@[simp] theorem setSess_flow (s : State) (b) (c) : (setSess s b c).flow = s.flow := rfl
@[simp] theorem setSess_ct (s : State) (b) (c) : (setSess s b c).ct = s.ct := rfl
@[simp] theorem setSess_eng (s : State) (b) (c) : (setSess s b c).eng = s.eng := rfl
@[simp] theorem setSess_opt (s : State) (b) (c) : (setSess s b c).opt = s.opt := rfl
@[simp] theorem setSess_board (s : State) (b) (c) : (setSess s b c).board = s.board := rfl
@[simp] theorem setSess_kft (s : State) (b) (c) : (setSess s b c).kft = s.kft := rfl
@[simp] theorem setSess_ste (s : State) (b) (c) : (setSess s b c).ste = s.ste := rfl
@[simp] theorem setSess_rdn (s : State) (b) (c) : (setSess s b c).rdn = s.rdn := rfl
@[simp] theorem setSess_sel (s : State) (b) (c) : (setSess s b c).sel = s.sel := rfl

@[simp] theorem setBucket_pending (s : State) (b) (c) : (setBucket s b c).pending = s.pending := rfl
@[simp] theorem setBucket_out (s : State) (b) (c) : (setBucket s b c).out = s.out := rfl
@[simp] theorem setBucket_fresh (s : State) (b) (c) : (setBucket s b c).fresh = s.fresh := rfl
@[simp] theorem setBucket_ns (s : State) (b) (c) : (setBucket s b c).ns = s.ns := rfl
@[simp] theorem setBucket_regs (s : State) (b) (c) : (setBucket s b c).regs = s.regs := rfl
@[simp] theorem setBucket_pwr (s : State) (b) (c) : (setBucket s b c).pwr = s.pwr := rfl
@[simp] theorem setBucket_hst (s : State) (b) (c) : (setBucket s b c).hst = s.hst := rfl
@[simp] theorem setBucket_boot (s : State) (b) (c) : (setBucket s b c).boot = s.boot := rfl
@[simp] theorem setBucket_otp (s : State) (b) (c) : (setBucket s b c).otp = s.otp := rfl
@[simp] theorem setBucket_crc (s : State) (b) (c) : (setBucket s b c).crc = s.crc := rfl
@[simp] theorem setBucket_blt (s : State) (b) (c) : (setBucket s b c).blt = s.blt := rfl
@[simp] theorem setBucket_mem (s : State) (b) (c) : (setBucket s b c).mem = s.mem := rfl
@[simp] theorem setBucket_flow (s : State) (b) (c) : (setBucket s b c).flow = s.flow := rfl
@[simp] theorem setBucket_ct (s : State) (b) (c) : (setBucket s b c).ct = s.ct := rfl
@[simp] theorem setBucket_eng (s : State) (b) (c) : (setBucket s b c).eng = s.eng := rfl
@[simp] theorem setBucket_opt (s : State) (b) (c) : (setBucket s b c).opt = s.opt := rfl
@[simp] theorem setBucket_board (s : State) (b) (c) : (setBucket s b c).board = s.board := rfl
@[simp] theorem setBucket_kft (s : State) (b) (c) : (setBucket s b c).kft = s.kft := rfl
@[simp] theorem setBucket_ste (s : State) (b) (c) : (setBucket s b c).ste = s.ste := rfl
@[simp] theorem setBucket_rdn (s : State) (b) (c) : (setBucket s b c).rdn = s.rdn := rfl
@[simp] theorem setBucket_sel (s : State) (b) (c) : (setBucket s b c).sel = s.sel := rfl

@[simp] theorem setQueue_pending (s : State) (b) (c) : (setQueue s b c).pending = s.pending := rfl
@[simp] theorem setQueue_out (s : State) (b) (c) : (setQueue s b c).out = s.out := rfl
@[simp] theorem setQueue_fresh (s : State) (b) (c) : (setQueue s b c).fresh = s.fresh := rfl
@[simp] theorem setQueue_ns (s : State) (b) (c) : (setQueue s b c).ns = s.ns := rfl
@[simp] theorem setQueue_regs (s : State) (b) (c) : (setQueue s b c).regs = s.regs := rfl
@[simp] theorem setQueue_pwr (s : State) (b) (c) : (setQueue s b c).pwr = s.pwr := rfl
@[simp] theorem setQueue_hst (s : State) (b) (c) : (setQueue s b c).hst = s.hst := rfl
@[simp] theorem setQueue_boot (s : State) (b) (c) : (setQueue s b c).boot = s.boot := rfl
@[simp] theorem setQueue_otp (s : State) (b) (c) : (setQueue s b c).otp = s.otp := rfl
@[simp] theorem setQueue_evr (s : State) (b) (c) : (setQueue s b c).evr = s.evr := rfl
@[simp] theorem setQueue_crc (s : State) (b) (c) : (setQueue s b c).crc = s.crc := rfl
@[simp] theorem setQueue_blt (s : State) (b) (c) : (setQueue s b c).blt = s.blt := rfl
@[simp] theorem setQueue_mem (s : State) (b) (c) : (setQueue s b c).mem = s.mem := rfl
@[simp] theorem setQueue_ct (s : State) (b) (c) : (setQueue s b c).ct = s.ct := rfl
@[simp] theorem setQueue_eng (s : State) (b) (c) : (setQueue s b c).eng = s.eng := rfl
@[simp] theorem setQueue_opt (s : State) (b) (c) : (setQueue s b c).opt = s.opt := rfl
@[simp] theorem setQueue_board (s : State) (b) (c) : (setQueue s b c).board = s.board := rfl
@[simp] theorem setQueue_kft (s : State) (b) (c) : (setQueue s b c).kft = s.kft := rfl
@[simp] theorem setQueue_ste (s : State) (b) (c) : (setQueue s b c).ste = s.ste := rfl
@[simp] theorem setQueue_rdn (s : State) (b) (c) : (setQueue s b c).rdn = s.rdn := rfl
@[simp] theorem setQueue_sel (s : State) (b) (c) : (setQueue s b c).sel = s.sel := rfl

@[simp] theorem queuePhase_pending (s : State) (b) (c) : (queuePhase s b c).pending = s.pending := rfl
@[simp] theorem queuePhase_out (s : State) (b) (c) : (queuePhase s b c).out = s.out := rfl
@[simp] theorem queuePhase_fresh (s : State) (b) (c) : (queuePhase s b c).fresh = s.fresh := rfl
@[simp] theorem queuePhase_ns (s : State) (b) (c) : (queuePhase s b c).ns = s.ns := rfl
@[simp] theorem queuePhase_regs (s : State) (b) (c) : (queuePhase s b c).regs = s.regs := rfl
@[simp] theorem queuePhase_hst (s : State) (b) (c) : (queuePhase s b c).hst = s.hst := rfl
@[simp] theorem queuePhase_boot (s : State) (b) (c) : (queuePhase s b c).boot = s.boot := rfl
@[simp] theorem queuePhase_otp (s : State) (b) (c) : (queuePhase s b c).otp = s.otp := rfl
@[simp] theorem queuePhase_evr (s : State) (b) (c) : (queuePhase s b c).evr = s.evr := rfl
@[simp] theorem queuePhase_crc (s : State) (b) (c) : (queuePhase s b c).crc = s.crc := rfl
@[simp] theorem queuePhase_blt (s : State) (b) (c) : (queuePhase s b c).blt = s.blt := rfl
@[simp] theorem queuePhase_mem (s : State) (b) (c) : (queuePhase s b c).mem = s.mem := rfl
@[simp] theorem queuePhase_flow (s : State) (b) (c) : (queuePhase s b c).flow = s.flow := rfl
@[simp] theorem queuePhase_ct (s : State) (b) (c) : (queuePhase s b c).ct = s.ct := rfl
@[simp] theorem queuePhase_eng (s : State) (b) (c) : (queuePhase s b c).eng = s.eng := rfl
@[simp] theorem queuePhase_opt (s : State) (b) (c) : (queuePhase s b c).opt = s.opt := rfl
@[simp] theorem queuePhase_board (s : State) (b) (c) : (queuePhase s b c).board = s.board := rfl
@[simp] theorem queuePhase_kft (s : State) (b) (c) : (queuePhase s b c).kft = s.kft := rfl
@[simp] theorem queuePhase_ste (s : State) (b) (c) : (queuePhase s b c).ste = s.ste := rfl
@[simp] theorem queuePhase_rdn (s : State) (b) (c) : (queuePhase s b c).rdn = s.rdn := rfl
@[simp] theorem queuePhase_sel (s : State) (b) (c) : (queuePhase s b c).sel = s.sel := rfl

@[simp] theorem startWake_pending (s : State) (b) : (startWake s b).pending = s.pending := rfl
@[simp] theorem startWake_out (s : State) (b) : (startWake s b).out = s.out := rfl
@[simp] theorem startWake_fresh (s : State) (b) : (startWake s b).fresh = s.fresh := rfl
@[simp] theorem startWake_ns (s : State) (b) : (startWake s b).ns = s.ns := rfl
@[simp] theorem startWake_regs (s : State) (b) : (startWake s b).regs = s.regs := rfl
@[simp] theorem startWake_hst (s : State) (b) : (startWake s b).hst = s.hst := rfl
@[simp] theorem startWake_boot (s : State) (b) : (startWake s b).boot = s.boot := rfl
@[simp] theorem startWake_otp (s : State) (b) : (startWake s b).otp = s.otp := rfl
@[simp] theorem startWake_evr (s : State) (b) : (startWake s b).evr = s.evr := rfl
@[simp] theorem startWake_crc (s : State) (b) : (startWake s b).crc = s.crc := rfl
@[simp] theorem startWake_blt (s : State) (b) : (startWake s b).blt = s.blt := rfl
@[simp] theorem startWake_mem (s : State) (b) : (startWake s b).mem = s.mem := rfl
@[simp] theorem startWake_flow (s : State) (b) : (startWake s b).flow = s.flow := rfl
@[simp] theorem startWake_ct (s : State) (b) : (startWake s b).ct = s.ct := rfl
@[simp] theorem startWake_eng (s : State) (b) : (startWake s b).eng = s.eng := rfl
@[simp] theorem startWake_opt (s : State) (b) : (startWake s b).opt = s.opt := rfl
@[simp] theorem startWake_board (s : State) (b) : (startWake s b).board = s.board := rfl
@[simp] theorem startWake_kft (s : State) (b) : (startWake s b).kft = s.kft := rfl
@[simp] theorem startWake_ste (s : State) (b) : (startWake s b).ste = s.ste := rfl
@[simp] theorem startWake_rdn (s : State) (b) : (startWake s b).rdn = s.rdn := rfl
@[simp] theorem startWake_sel (s : State) (b) : (startWake s b).sel = s.sel := rfl

@[simp] theorem startUngate_pending (s : State) (b) : (startUngate s b).pending = s.pending := rfl
@[simp] theorem startUngate_out (s : State) (b) : (startUngate s b).out = s.out := rfl
@[simp] theorem startUngate_fresh (s : State) (b) : (startUngate s b).fresh = s.fresh := rfl
@[simp] theorem startUngate_ns (s : State) (b) : (startUngate s b).ns = s.ns := rfl
@[simp] theorem startUngate_regs (s : State) (b) : (startUngate s b).regs = s.regs := rfl
@[simp] theorem startUngate_hst (s : State) (b) : (startUngate s b).hst = s.hst := rfl
@[simp] theorem startUngate_boot (s : State) (b) : (startUngate s b).boot = s.boot := rfl
@[simp] theorem startUngate_otp (s : State) (b) : (startUngate s b).otp = s.otp := rfl
@[simp] theorem startUngate_evr (s : State) (b) : (startUngate s b).evr = s.evr := rfl
@[simp] theorem startUngate_crc (s : State) (b) : (startUngate s b).crc = s.crc := rfl
@[simp] theorem startUngate_blt (s : State) (b) : (startUngate s b).blt = s.blt := rfl
@[simp] theorem startUngate_mem (s : State) (b) : (startUngate s b).mem = s.mem := rfl
@[simp] theorem startUngate_flow (s : State) (b) : (startUngate s b).flow = s.flow := rfl
@[simp] theorem startUngate_ct (s : State) (b) : (startUngate s b).ct = s.ct := rfl
@[simp] theorem startUngate_eng (s : State) (b) : (startUngate s b).eng = s.eng := rfl
@[simp] theorem startUngate_opt (s : State) (b) : (startUngate s b).opt = s.opt := rfl
@[simp] theorem startUngate_board (s : State) (b) : (startUngate s b).board = s.board := rfl
@[simp] theorem startUngate_kft (s : State) (b) : (startUngate s b).kft = s.kft := rfl
@[simp] theorem startUngate_ste (s : State) (b) : (startUngate s b).ste = s.ste := rfl
@[simp] theorem startUngate_rdn (s : State) (b) : (startUngate s b).rdn = s.rdn := rfl
@[simp] theorem startUngate_sel (s : State) (b) : (startUngate s b).sel = s.sel := rfl

@[simp] theorem enterIdle_pending (s : State) (b) : (enterIdle s b).pending = s.pending := rfl
@[simp] theorem enterIdle_out (s : State) (b) : (enterIdle s b).out = s.out := rfl
@[simp] theorem enterIdle_fresh (s : State) (b) : (enterIdle s b).fresh = s.fresh := rfl
@[simp] theorem enterIdle_ns (s : State) (b) : (enterIdle s b).ns = s.ns := rfl
@[simp] theorem enterIdle_regs (s : State) (b) : (enterIdle s b).regs = s.regs := rfl
@[simp] theorem enterIdle_hst (s : State) (b) : (enterIdle s b).hst = s.hst := rfl
@[simp] theorem enterIdle_boot (s : State) (b) : (enterIdle s b).boot = s.boot := rfl
@[simp] theorem enterIdle_otp (s : State) (b) : (enterIdle s b).otp = s.otp := rfl
@[simp] theorem enterIdle_evr (s : State) (b) : (enterIdle s b).evr = s.evr := rfl
@[simp] theorem enterIdle_crc (s : State) (b) : (enterIdle s b).crc = s.crc := rfl
@[simp] theorem enterIdle_blt (s : State) (b) : (enterIdle s b).blt = s.blt := rfl
@[simp] theorem enterIdle_mem (s : State) (b) : (enterIdle s b).mem = s.mem := rfl
@[simp] theorem enterIdle_flow (s : State) (b) : (enterIdle s b).flow = s.flow := rfl
@[simp] theorem enterIdle_ct (s : State) (b) : (enterIdle s b).ct = s.ct := rfl
@[simp] theorem enterIdle_eng (s : State) (b) : (enterIdle s b).eng = s.eng := rfl
@[simp] theorem enterIdle_opt (s : State) (b) : (enterIdle s b).opt = s.opt := rfl
@[simp] theorem enterIdle_board (s : State) (b) : (enterIdle s b).board = s.board := rfl
@[simp] theorem enterIdle_kft (s : State) (b) : (enterIdle s b).kft = s.kft := rfl
@[simp] theorem enterIdle_ste (s : State) (b) : (enterIdle s b).ste = s.ste := rfl
@[simp] theorem enterIdle_rdn (s : State) (b) : (enterIdle s b).rdn = s.rdn := rfl
@[simp] theorem enterIdle_sel (s : State) (b) : (enterIdle s b).sel = s.sel := rfl

@[simp] theorem startOff_pending (s : State) (b) : (startOff s b).pending = s.pending := rfl
@[simp] theorem startOff_out (s : State) (b) : (startOff s b).out = s.out := rfl
@[simp] theorem startOff_fresh (s : State) (b) : (startOff s b).fresh = s.fresh := rfl
@[simp] theorem startOff_ns (s : State) (b) : (startOff s b).ns = s.ns := rfl
@[simp] theorem startOff_regs (s : State) (b) : (startOff s b).regs = s.regs := rfl
@[simp] theorem startOff_hst (s : State) (b) : (startOff s b).hst = s.hst := rfl
@[simp] theorem startOff_boot (s : State) (b) : (startOff s b).boot = s.boot := rfl
@[simp] theorem startOff_otp (s : State) (b) : (startOff s b).otp = s.otp := rfl
@[simp] theorem startOff_evr (s : State) (b) : (startOff s b).evr = s.evr := rfl
@[simp] theorem startOff_crc (s : State) (b) : (startOff s b).crc = s.crc := rfl
@[simp] theorem startOff_blt (s : State) (b) : (startOff s b).blt = s.blt := rfl
@[simp] theorem startOff_mem (s : State) (b) : (startOff s b).mem = s.mem := rfl
@[simp] theorem startOff_flow (s : State) (b) : (startOff s b).flow = s.flow := rfl
@[simp] theorem startOff_ct (s : State) (b) : (startOff s b).ct = s.ct := rfl
@[simp] theorem startOff_eng (s : State) (b) : (startOff s b).eng = s.eng := rfl
@[simp] theorem startOff_opt (s : State) (b) : (startOff s b).opt = s.opt := rfl
@[simp] theorem startOff_board (s : State) (b) : (startOff s b).board = s.board := rfl
@[simp] theorem startOff_kft (s : State) (b) : (startOff s b).kft = s.kft := rfl
@[simp] theorem startOff_ste (s : State) (b) : (startOff s b).ste = s.ste := rfl
@[simp] theorem startOff_rdn (s : State) (b) : (startOff s b).rdn = s.rdn := rfl
@[simp] theorem startOff_sel (s : State) (b) : (startOff s b).sel = s.sel := rfl

@[simp] theorem setPoison_pending (s : State) (b) (c) : (setPoison s b c).pending = s.pending := rfl
@[simp] theorem setPoison_out (s : State) (b) (c) : (setPoison s b c).out = s.out := rfl
@[simp] theorem setPoison_fresh (s : State) (b) (c) : (setPoison s b c).fresh = s.fresh := rfl
@[simp] theorem setPoison_ns (s : State) (b) (c) : (setPoison s b c).ns = s.ns := rfl
@[simp] theorem setPoison_regs (s : State) (b) (c) : (setPoison s b c).regs = s.regs := rfl
@[simp] theorem setPoison_pwr (s : State) (b) (c) : (setPoison s b c).pwr = s.pwr := rfl
@[simp] theorem setPoison_hst (s : State) (b) (c) : (setPoison s b c).hst = s.hst := rfl
@[simp] theorem setPoison_boot (s : State) (b) (c) : (setPoison s b c).boot = s.boot := rfl
@[simp] theorem setPoison_otp (s : State) (b) (c) : (setPoison s b c).otp = s.otp := rfl
@[simp] theorem setPoison_evr (s : State) (b) (c) : (setPoison s b c).evr = s.evr := rfl
@[simp] theorem setPoison_crc (s : State) (b) (c) : (setPoison s b c).crc = s.crc := rfl
@[simp] theorem setPoison_blt (s : State) (b) (c) : (setPoison s b c).blt = s.blt := rfl
@[simp] theorem setPoison_flow (s : State) (b) (c) : (setPoison s b c).flow = s.flow := rfl
@[simp] theorem setPoison_ct (s : State) (b) (c) : (setPoison s b c).ct = s.ct := rfl
@[simp] theorem setPoison_eng (s : State) (b) (c) : (setPoison s b c).eng = s.eng := rfl
@[simp] theorem setPoison_opt (s : State) (b) (c) : (setPoison s b c).opt = s.opt := rfl
@[simp] theorem setPoison_board (s : State) (b) (c) : (setPoison s b c).board = s.board := rfl
@[simp] theorem setPoison_kft (s : State) (b) (c) : (setPoison s b c).kft = s.kft := rfl
@[simp] theorem setPoison_ste (s : State) (b) (c) : (setPoison s b c).ste = s.ste := rfl
@[simp] theorem setPoison_rdn (s : State) (b) (c) : (setPoison s b c).rdn = s.rdn := rfl
@[simp] theorem setPoison_sel (s : State) (b) (c) : (setPoison s b c).sel = s.sel := rfl

@[simp] theorem setFresh_pending (s : State) (b) (c) : (setFresh s b c).pending = s.pending := rfl
@[simp] theorem setFresh_out (s : State) (b) (c) : (setFresh s b c).out = s.out := rfl
@[simp] theorem setFresh_fresh (s : State) (b) (c) : (setFresh s b c).fresh = s.fresh := rfl
@[simp] theorem setFresh_ns (s : State) (b) (c) : (setFresh s b c).ns = s.ns := rfl
@[simp] theorem setFresh_regs (s : State) (b) (c) : (setFresh s b c).regs = s.regs := rfl
@[simp] theorem setFresh_pwr (s : State) (b) (c) : (setFresh s b c).pwr = s.pwr := rfl
@[simp] theorem setFresh_hst (s : State) (b) (c) : (setFresh s b c).hst = s.hst := rfl
@[simp] theorem setFresh_boot (s : State) (b) (c) : (setFresh s b c).boot = s.boot := rfl
@[simp] theorem setFresh_otp (s : State) (b) (c) : (setFresh s b c).otp = s.otp := rfl
@[simp] theorem setFresh_evr (s : State) (b) (c) : (setFresh s b c).evr = s.evr := rfl
@[simp] theorem setFresh_crc (s : State) (b) (c) : (setFresh s b c).crc = s.crc := rfl
@[simp] theorem setFresh_blt (s : State) (b) (c) : (setFresh s b c).blt = s.blt := rfl
@[simp] theorem setFresh_flow (s : State) (b) (c) : (setFresh s b c).flow = s.flow := rfl
@[simp] theorem setFresh_ct (s : State) (b) (c) : (setFresh s b c).ct = s.ct := rfl
@[simp] theorem setFresh_eng (s : State) (b) (c) : (setFresh s b c).eng = s.eng := rfl
@[simp] theorem setFresh_opt (s : State) (b) (c) : (setFresh s b c).opt = s.opt := rfl
@[simp] theorem setFresh_board (s : State) (b) (c) : (setFresh s b c).board = s.board := rfl
@[simp] theorem setFresh_kft (s : State) (b) (c) : (setFresh s b c).kft = s.kft := rfl
@[simp] theorem setFresh_ste (s : State) (b) (c) : (setFresh s b c).ste = s.ste := rfl
@[simp] theorem setFresh_rdn (s : State) (b) (c) : (setFresh s b c).rdn = s.rdn := rfl
@[simp] theorem setFresh_sel (s : State) (b) (c) : (setFresh s b c).sel = s.sel := rfl

@[simp] theorem storeBytes_pending (s : State) (b) (c) : (storeBytes s b c).pending = s.pending := rfl
@[simp] theorem storeBytes_out (s : State) (b) (c) : (storeBytes s b c).out = s.out := rfl
@[simp] theorem storeBytes_fresh (s : State) (b) (c) : (storeBytes s b c).fresh = s.fresh := rfl
@[simp] theorem storeBytes_ns (s : State) (b) (c) : (storeBytes s b c).ns = s.ns := rfl
@[simp] theorem storeBytes_regs (s : State) (b) (c) : (storeBytes s b c).regs = s.regs := rfl
@[simp] theorem storeBytes_pwr (s : State) (b) (c) : (storeBytes s b c).pwr = s.pwr := rfl
@[simp] theorem storeBytes_hst (s : State) (b) (c) : (storeBytes s b c).hst = s.hst := rfl
@[simp] theorem storeBytes_boot (s : State) (b) (c) : (storeBytes s b c).boot = s.boot := rfl
@[simp] theorem storeBytes_otp (s : State) (b) (c) : (storeBytes s b c).otp = s.otp := rfl
@[simp] theorem storeBytes_evr (s : State) (b) (c) : (storeBytes s b c).evr = s.evr := rfl
@[simp] theorem storeBytes_crc (s : State) (b) (c) : (storeBytes s b c).crc = s.crc := rfl
@[simp] theorem storeBytes_blt (s : State) (b) (c) : (storeBytes s b c).blt = s.blt := rfl
@[simp] theorem storeBytes_flow (s : State) (b) (c) : (storeBytes s b c).flow = s.flow := rfl
@[simp] theorem storeBytes_ct (s : State) (b) (c) : (storeBytes s b c).ct = s.ct := rfl
@[simp] theorem storeBytes_eng (s : State) (b) (c) : (storeBytes s b c).eng = s.eng := rfl
@[simp] theorem storeBytes_opt (s : State) (b) (c) : (storeBytes s b c).opt = s.opt := rfl
@[simp] theorem storeBytes_board (s : State) (b) (c) : (storeBytes s b c).board = s.board := rfl
@[simp] theorem storeBytes_kft (s : State) (b) (c) : (storeBytes s b c).kft = s.kft := rfl
@[simp] theorem storeBytes_ste (s : State) (b) (c) : (storeBytes s b c).ste = s.ste := rfl
@[simp] theorem storeBytes_rdn (s : State) (b) (c) : (storeBytes s b c).rdn = s.rdn := rfl
@[simp] theorem storeBytes_sel (s : State) (b) (c) : (storeBytes s b c).sel = s.sel := rfl

@[simp] theorem setLink_pending (s : State) (b) (c) : (setLink s b c).pending = s.pending := rfl
@[simp] theorem setLink_out (s : State) (b) (c) : (setLink s b c).out = s.out := rfl
@[simp] theorem setLink_fresh (s : State) (b) (c) : (setLink s b c).fresh = s.fresh := rfl
@[simp] theorem setLink_ns (s : State) (b) (c) : (setLink s b c).ns = s.ns := rfl
@[simp] theorem setLink_regs (s : State) (b) (c) : (setLink s b c).regs = s.regs := rfl
@[simp] theorem setLink_pwr (s : State) (b) (c) : (setLink s b c).pwr = s.pwr := rfl
@[simp] theorem setLink_hst (s : State) (b) (c) : (setLink s b c).hst = s.hst := rfl
@[simp] theorem setLink_boot (s : State) (b) (c) : (setLink s b c).boot = s.boot := rfl
@[simp] theorem setLink_otp (s : State) (b) (c) : (setLink s b c).otp = s.otp := rfl
@[simp] theorem setLink_evr (s : State) (b) (c) : (setLink s b c).evr = s.evr := rfl
@[simp] theorem setLink_crc (s : State) (b) (c) : (setLink s b c).crc = s.crc := rfl
@[simp] theorem setLink_blt (s : State) (b) (c) : (setLink s b c).blt = s.blt := rfl
@[simp] theorem setLink_mem (s : State) (b) (c) : (setLink s b c).mem = s.mem := rfl
@[simp] theorem setLink_flow (s : State) (b) (c) : (setLink s b c).flow = s.flow := rfl
@[simp] theorem setLink_ct (s : State) (b) (c) : (setLink s b c).ct = s.ct := rfl
@[simp] theorem setLink_eng (s : State) (b) (c) : (setLink s b c).eng = s.eng := rfl
@[simp] theorem setLink_opt (s : State) (b) (c) : (setLink s b c).opt = s.opt := rfl
@[simp] theorem setLink_kft (s : State) (b) (c) : (setLink s b c).kft = s.kft := rfl
@[simp] theorem setLink_ste (s : State) (b) (c) : (setLink s b c).ste = s.ste := rfl
@[simp] theorem setLink_rdn (s : State) (b) (c) : (setLink s b c).rdn = s.rdn := rfl
@[simp] theorem setLink_sel (s : State) (b) (c) : (setLink s b c).sel = s.sel := rfl

@[simp] theorem setTok_pending (s : State) (b) (c) : (setTok s b c).pending = s.pending := rfl
@[simp] theorem setTok_out (s : State) (b) (c) : (setTok s b c).out = s.out := rfl
@[simp] theorem setTok_fresh (s : State) (b) (c) : (setTok s b c).fresh = s.fresh := rfl
@[simp] theorem setTok_ns (s : State) (b) (c) : (setTok s b c).ns = s.ns := rfl
@[simp] theorem setTok_regs (s : State) (b) (c) : (setTok s b c).regs = s.regs := rfl
@[simp] theorem setTok_pwr (s : State) (b) (c) : (setTok s b c).pwr = s.pwr := rfl
@[simp] theorem setTok_hst (s : State) (b) (c) : (setTok s b c).hst = s.hst := rfl
@[simp] theorem setTok_boot (s : State) (b) (c) : (setTok s b c).boot = s.boot := rfl
@[simp] theorem setTok_otp (s : State) (b) (c) : (setTok s b c).otp = s.otp := rfl
@[simp] theorem setTok_evr (s : State) (b) (c) : (setTok s b c).evr = s.evr := rfl
@[simp] theorem setTok_crc (s : State) (b) (c) : (setTok s b c).crc = s.crc := rfl
@[simp] theorem setTok_blt (s : State) (b) (c) : (setTok s b c).blt = s.blt := rfl
@[simp] theorem setTok_mem (s : State) (b) (c) : (setTok s b c).mem = s.mem := rfl
@[simp] theorem setTok_ct (s : State) (b) (c) : (setTok s b c).ct = s.ct := rfl
@[simp] theorem setTok_eng (s : State) (b) (c) : (setTok s b c).eng = s.eng := rfl
@[simp] theorem setTok_opt (s : State) (b) (c) : (setTok s b c).opt = s.opt := rfl
@[simp] theorem setTok_board (s : State) (b) (c) : (setTok s b c).board = s.board := rfl
@[simp] theorem setTok_kft (s : State) (b) (c) : (setTok s b c).kft = s.kft := rfl
@[simp] theorem setTok_ste (s : State) (b) (c) : (setTok s b c).ste = s.ste := rfl
@[simp] theorem setTok_rdn (s : State) (b) (c) : (setTok s b c).rdn = s.rdn := rfl
@[simp] theorem setTok_sel (s : State) (b) (c) : (setTok s b c).sel = s.sel := rfl

@[simp] theorem setEng_pending (s : State) (b) (c) (d) : (setEng s b c d).pending = s.pending := rfl
@[simp] theorem setEng_out (s : State) (b) (c) (d) : (setEng s b c d).out = s.out := rfl
@[simp] theorem setEng_fresh (s : State) (b) (c) (d) : (setEng s b c d).fresh = s.fresh := rfl
@[simp] theorem setEng_ns (s : State) (b) (c) (d) : (setEng s b c d).ns = s.ns := rfl
@[simp] theorem setEng_regs (s : State) (b) (c) (d) : (setEng s b c d).regs = s.regs := rfl
@[simp] theorem setEng_pwr (s : State) (b) (c) (d) : (setEng s b c d).pwr = s.pwr := rfl
@[simp] theorem setEng_hst (s : State) (b) (c) (d) : (setEng s b c d).hst = s.hst := rfl
@[simp] theorem setEng_boot (s : State) (b) (c) (d) : (setEng s b c d).boot = s.boot := rfl
@[simp] theorem setEng_otp (s : State) (b) (c) (d) : (setEng s b c d).otp = s.otp := rfl
@[simp] theorem setEng_evr (s : State) (b) (c) (d) : (setEng s b c d).evr = s.evr := rfl
@[simp] theorem setEng_crc (s : State) (b) (c) (d) : (setEng s b c d).crc = s.crc := rfl
@[simp] theorem setEng_blt (s : State) (b) (c) (d) : (setEng s b c d).blt = s.blt := rfl
@[simp] theorem setEng_mem (s : State) (b) (c) (d) : (setEng s b c d).mem = s.mem := rfl
@[simp] theorem setEng_flow (s : State) (b) (c) (d) : (setEng s b c d).flow = s.flow := rfl
@[simp] theorem setEng_ct (s : State) (b) (c) (d) : (setEng s b c d).ct = s.ct := rfl
@[simp] theorem setEng_opt (s : State) (b) (c) (d) : (setEng s b c d).opt = s.opt := rfl
@[simp] theorem setEng_board (s : State) (b) (c) (d) : (setEng s b c d).board = s.board := rfl
@[simp] theorem setEng_kft (s : State) (b) (c) (d) : (setEng s b c d).kft = s.kft := rfl
@[simp] theorem setEng_ste (s : State) (b) (c) (d) : (setEng s b c d).ste = s.ste := rfl
@[simp] theorem setEng_rdn (s : State) (b) (c) (d) : (setEng s b c d).rdn = s.rdn := rfl
@[simp] theorem setEng_sel (s : State) (b) (c) (d) : (setEng s b c d).sel = s.sel := rfl

@[simp] theorem setEngOn_pending (s : State) (b) (c) (d) : (setEngOn s b c d).pending = s.pending := rfl
@[simp] theorem setEngOn_out (s : State) (b) (c) (d) : (setEngOn s b c d).out = s.out := rfl
@[simp] theorem setEngOn_fresh (s : State) (b) (c) (d) : (setEngOn s b c d).fresh = s.fresh := rfl
@[simp] theorem setEngOn_ns (s : State) (b) (c) (d) : (setEngOn s b c d).ns = s.ns := rfl
@[simp] theorem setEngOn_regs (s : State) (b) (c) (d) : (setEngOn s b c d).regs = s.regs := rfl
@[simp] theorem setEngOn_hst (s : State) (b) (c) (d) : (setEngOn s b c d).hst = s.hst := rfl
@[simp] theorem setEngOn_boot (s : State) (b) (c) (d) : (setEngOn s b c d).boot = s.boot := rfl
@[simp] theorem setEngOn_otp (s : State) (b) (c) (d) : (setEngOn s b c d).otp = s.otp := rfl
@[simp] theorem setEngOn_evr (s : State) (b) (c) (d) : (setEngOn s b c d).evr = s.evr := rfl
@[simp] theorem setEngOn_crc (s : State) (b) (c) (d) : (setEngOn s b c d).crc = s.crc := rfl
@[simp] theorem setEngOn_blt (s : State) (b) (c) (d) : (setEngOn s b c d).blt = s.blt := rfl
@[simp] theorem setEngOn_mem (s : State) (b) (c) (d) : (setEngOn s b c d).mem = s.mem := rfl
@[simp] theorem setEngOn_flow (s : State) (b) (c) (d) : (setEngOn s b c d).flow = s.flow := rfl
@[simp] theorem setEngOn_ct (s : State) (b) (c) (d) : (setEngOn s b c d).ct = s.ct := rfl
@[simp] theorem setEngOn_eng (s : State) (b) (c) (d) : (setEngOn s b c d).eng = s.eng := rfl
@[simp] theorem setEngOn_opt (s : State) (b) (c) (d) : (setEngOn s b c d).opt = s.opt := rfl
@[simp] theorem setEngOn_board (s : State) (b) (c) (d) : (setEngOn s b c d).board = s.board := rfl
@[simp] theorem setEngOn_kft (s : State) (b) (c) (d) : (setEngOn s b c d).kft = s.kft := rfl
@[simp] theorem setEngOn_ste (s : State) (b) (c) (d) : (setEngOn s b c d).ste = s.ste := rfl
@[simp] theorem setEngOn_rdn (s : State) (b) (c) (d) : (setEngOn s b c d).rdn = s.rdn := rfl
@[simp] theorem setEngOn_sel (s : State) (b) (c) (d) : (setEngOn s b c d).sel = s.sel := rfl

@[simp] theorem setCt_pending (s : State) (b) (c) : (setCt s b c).pending = s.pending := rfl
@[simp] theorem setCt_out (s : State) (b) (c) : (setCt s b c).out = s.out := rfl
@[simp] theorem setCt_fresh (s : State) (b) (c) : (setCt s b c).fresh = s.fresh := rfl
@[simp] theorem setCt_ns (s : State) (b) (c) : (setCt s b c).ns = s.ns := rfl
@[simp] theorem setCt_regs (s : State) (b) (c) : (setCt s b c).regs = s.regs := rfl
@[simp] theorem setCt_pwr (s : State) (b) (c) : (setCt s b c).pwr = s.pwr := rfl
@[simp] theorem setCt_hst (s : State) (b) (c) : (setCt s b c).hst = s.hst := rfl
@[simp] theorem setCt_boot (s : State) (b) (c) : (setCt s b c).boot = s.boot := rfl
@[simp] theorem setCt_otp (s : State) (b) (c) : (setCt s b c).otp = s.otp := rfl
@[simp] theorem setCt_evr (s : State) (b) (c) : (setCt s b c).evr = s.evr := rfl
@[simp] theorem setCt_crc (s : State) (b) (c) : (setCt s b c).crc = s.crc := rfl
@[simp] theorem setCt_blt (s : State) (b) (c) : (setCt s b c).blt = s.blt := rfl
@[simp] theorem setCt_mem (s : State) (b) (c) : (setCt s b c).mem = s.mem := rfl
@[simp] theorem setCt_flow (s : State) (b) (c) : (setCt s b c).flow = s.flow := rfl
@[simp] theorem setCt_eng (s : State) (b) (c) : (setCt s b c).eng = s.eng := rfl
@[simp] theorem setCt_opt (s : State) (b) (c) : (setCt s b c).opt = s.opt := rfl
@[simp] theorem setCt_board (s : State) (b) (c) : (setCt s b c).board = s.board := rfl
@[simp] theorem setCt_kft (s : State) (b) (c) : (setCt s b c).kft = s.kft := rfl
@[simp] theorem setCt_ste (s : State) (b) (c) : (setCt s b c).ste = s.ste := rfl
@[simp] theorem setCt_rdn (s : State) (b) (c) : (setCt s b c).rdn = s.rdn := rfl
@[simp] theorem setCt_sel (s : State) (b) (c) : (setCt s b c).sel = s.sel := rfl

@[simp] theorem setOpt_pending (s : State) (b) (c) : (setOpt s b c).pending = s.pending := rfl
@[simp] theorem setOpt_out (s : State) (b) (c) : (setOpt s b c).out = s.out := rfl
@[simp] theorem setOpt_fresh (s : State) (b) (c) : (setOpt s b c).fresh = s.fresh := rfl
@[simp] theorem setOpt_ns (s : State) (b) (c) : (setOpt s b c).ns = s.ns := rfl
@[simp] theorem setOpt_regs (s : State) (b) (c) : (setOpt s b c).regs = s.regs := rfl
@[simp] theorem setOpt_pwr (s : State) (b) (c) : (setOpt s b c).pwr = s.pwr := rfl
@[simp] theorem setOpt_hst (s : State) (b) (c) : (setOpt s b c).hst = s.hst := rfl
@[simp] theorem setOpt_boot (s : State) (b) (c) : (setOpt s b c).boot = s.boot := rfl
@[simp] theorem setOpt_otp (s : State) (b) (c) : (setOpt s b c).otp = s.otp := rfl
@[simp] theorem setOpt_evr (s : State) (b) (c) : (setOpt s b c).evr = s.evr := rfl
@[simp] theorem setOpt_crc (s : State) (b) (c) : (setOpt s b c).crc = s.crc := rfl
@[simp] theorem setOpt_blt (s : State) (b) (c) : (setOpt s b c).blt = s.blt := rfl
@[simp] theorem setOpt_mem (s : State) (b) (c) : (setOpt s b c).mem = s.mem := rfl
@[simp] theorem setOpt_flow (s : State) (b) (c) : (setOpt s b c).flow = s.flow := rfl
@[simp] theorem setOpt_ct (s : State) (b) (c) : (setOpt s b c).ct = s.ct := rfl
@[simp] theorem setOpt_eng (s : State) (b) (c) : (setOpt s b c).eng = s.eng := rfl
@[simp] theorem setOpt_board (s : State) (b) (c) : (setOpt s b c).board = s.board := rfl
@[simp] theorem setOpt_kft (s : State) (b) (c) : (setOpt s b c).kft = s.kft := rfl
@[simp] theorem setOpt_ste (s : State) (b) (c) : (setOpt s b c).ste = s.ste := rfl
@[simp] theorem setOpt_rdn (s : State) (b) (c) : (setOpt s b c).rdn = s.rdn := rfl
@[simp] theorem setOpt_sel (s : State) (b) (c) : (setOpt s b c).sel = s.sel := rfl

@[simp] theorem setTile_pending (s : State) (b) (c) : (setTile s b c).pending = s.pending := rfl
@[simp] theorem setTile_out (s : State) (b) (c) : (setTile s b c).out = s.out := rfl
@[simp] theorem setTile_fresh (s : State) (b) (c) : (setTile s b c).fresh = s.fresh := rfl
@[simp] theorem setTile_ns (s : State) (b) (c) : (setTile s b c).ns = s.ns := rfl
@[simp] theorem setTile_regs (s : State) (b) (c) : (setTile s b c).regs = s.regs := rfl
@[simp] theorem setTile_pwr (s : State) (b) (c) : (setTile s b c).pwr = s.pwr := rfl
@[simp] theorem setTile_hst (s : State) (b) (c) : (setTile s b c).hst = s.hst := rfl
@[simp] theorem setTile_boot (s : State) (b) (c) : (setTile s b c).boot = s.boot := rfl
@[simp] theorem setTile_otp (s : State) (b) (c) : (setTile s b c).otp = s.otp := rfl
@[simp] theorem setTile_evr (s : State) (b) (c) : (setTile s b c).evr = s.evr := rfl
@[simp] theorem setTile_crc (s : State) (b) (c) : (setTile s b c).crc = s.crc := rfl
@[simp] theorem setTile_blt (s : State) (b) (c) : (setTile s b c).blt = s.blt := rfl
@[simp] theorem setTile_mem (s : State) (b) (c) : (setTile s b c).mem = s.mem := rfl
@[simp] theorem setTile_flow (s : State) (b) (c) : (setTile s b c).flow = s.flow := rfl
@[simp] theorem setTile_ct (s : State) (b) (c) : (setTile s b c).ct = s.ct := rfl
@[simp] theorem setTile_eng (s : State) (b) (c) : (setTile s b c).eng = s.eng := rfl
@[simp] theorem setTile_opt (s : State) (b) (c) : (setTile s b c).opt = s.opt := rfl
@[simp] theorem setTile_board (s : State) (b) (c) : (setTile s b c).board = s.board := rfl
@[simp] theorem setTile_kft (s : State) (b) (c) : (setTile s b c).kft = s.kft := rfl
@[simp] theorem setTile_rdn (s : State) (b) (c) : (setTile s b c).rdn = s.rdn := rfl
@[simp] theorem setTile_sel (s : State) (b) (c) : (setTile s b c).sel = s.sel := rfl

@[simp] theorem setSlot_pending (s : State) (b) (c) : (setSlot s b c).pending = s.pending := rfl
@[simp] theorem setSlot_out (s : State) (b) (c) : (setSlot s b c).out = s.out := rfl
@[simp] theorem setSlot_fresh (s : State) (b) (c) : (setSlot s b c).fresh = s.fresh := rfl
@[simp] theorem setSlot_ns (s : State) (b) (c) : (setSlot s b c).ns = s.ns := rfl
@[simp] theorem setSlot_regs (s : State) (b) (c) : (setSlot s b c).regs = s.regs := rfl
@[simp] theorem setSlot_pwr (s : State) (b) (c) : (setSlot s b c).pwr = s.pwr := rfl
@[simp] theorem setSlot_hst (s : State) (b) (c) : (setSlot s b c).hst = s.hst := rfl
@[simp] theorem setSlot_boot (s : State) (b) (c) : (setSlot s b c).boot = s.boot := rfl
@[simp] theorem setSlot_otp (s : State) (b) (c) : (setSlot s b c).otp = s.otp := rfl
@[simp] theorem setSlot_evr (s : State) (b) (c) : (setSlot s b c).evr = s.evr := rfl
@[simp] theorem setSlot_crc (s : State) (b) (c) : (setSlot s b c).crc = s.crc := rfl
@[simp] theorem setSlot_blt (s : State) (b) (c) : (setSlot s b c).blt = s.blt := rfl
@[simp] theorem setSlot_mem (s : State) (b) (c) : (setSlot s b c).mem = s.mem := rfl
@[simp] theorem setSlot_flow (s : State) (b) (c) : (setSlot s b c).flow = s.flow := rfl
@[simp] theorem setSlot_ct (s : State) (b) (c) : (setSlot s b c).ct = s.ct := rfl
@[simp] theorem setSlot_eng (s : State) (b) (c) : (setSlot s b c).eng = s.eng := rfl
@[simp] theorem setSlot_opt (s : State) (b) (c) : (setSlot s b c).opt = s.opt := rfl
@[simp] theorem setSlot_board (s : State) (b) (c) : (setSlot s b c).board = s.board := rfl
@[simp] theorem setSlot_kft (s : State) (b) (c) : (setSlot s b c).kft = s.kft := rfl
@[simp] theorem setSlot_rdn (s : State) (b) (c) : (setSlot s b c).rdn = s.rdn := rfl
@[simp] theorem setSlot_sel (s : State) (b) (c) : (setSlot s b c).sel = s.sel := rfl

@[simp] theorem setAxis_pending (s : State) (b) (c) : (setAxis s b c).pending = s.pending := rfl
@[simp] theorem setAxis_out (s : State) (b) (c) : (setAxis s b c).out = s.out := rfl
@[simp] theorem setAxis_fresh (s : State) (b) (c) : (setAxis s b c).fresh = s.fresh := rfl
@[simp] theorem setAxis_ns (s : State) (b) (c) : (setAxis s b c).ns = s.ns := rfl
@[simp] theorem setAxis_regs (s : State) (b) (c) : (setAxis s b c).regs = s.regs := rfl
@[simp] theorem setAxis_pwr (s : State) (b) (c) : (setAxis s b c).pwr = s.pwr := rfl
@[simp] theorem setAxis_hst (s : State) (b) (c) : (setAxis s b c).hst = s.hst := rfl
@[simp] theorem setAxis_boot (s : State) (b) (c) : (setAxis s b c).boot = s.boot := rfl
@[simp] theorem setAxis_otp (s : State) (b) (c) : (setAxis s b c).otp = s.otp := rfl
@[simp] theorem setAxis_evr (s : State) (b) (c) : (setAxis s b c).evr = s.evr := rfl
@[simp] theorem setAxis_crc (s : State) (b) (c) : (setAxis s b c).crc = s.crc := rfl
@[simp] theorem setAxis_blt (s : State) (b) (c) : (setAxis s b c).blt = s.blt := rfl
@[simp] theorem setAxis_mem (s : State) (b) (c) : (setAxis s b c).mem = s.mem := rfl
@[simp] theorem setAxis_flow (s : State) (b) (c) : (setAxis s b c).flow = s.flow := rfl
@[simp] theorem setAxis_ct (s : State) (b) (c) : (setAxis s b c).ct = s.ct := rfl
@[simp] theorem setAxis_eng (s : State) (b) (c) : (setAxis s b c).eng = s.eng := rfl
@[simp] theorem setAxis_opt (s : State) (b) (c) : (setAxis s b c).opt = s.opt := rfl
@[simp] theorem setAxis_board (s : State) (b) (c) : (setAxis s b c).board = s.board := rfl
@[simp] theorem setAxis_kft (s : State) (b) (c) : (setAxis s b c).kft = s.kft := rfl
@[simp] theorem setAxis_rdn (s : State) (b) (c) : (setAxis s b c).rdn = s.rdn := rfl
@[simp] theorem setAxis_sel (s : State) (b) (c) : (setAxis s b c).sel = s.sel := rfl

@[simp] theorem setMir_pending (s : State) (b) (c) : (setMir s b c).pending = s.pending := rfl
@[simp] theorem setMir_out (s : State) (b) (c) : (setMir s b c).out = s.out := rfl
@[simp] theorem setMir_fresh (s : State) (b) (c) : (setMir s b c).fresh = s.fresh := rfl
@[simp] theorem setMir_ns (s : State) (b) (c) : (setMir s b c).ns = s.ns := rfl
@[simp] theorem setMir_regs (s : State) (b) (c) : (setMir s b c).regs = s.regs := rfl
@[simp] theorem setMir_pwr (s : State) (b) (c) : (setMir s b c).pwr = s.pwr := rfl
@[simp] theorem setMir_hst (s : State) (b) (c) : (setMir s b c).hst = s.hst := rfl
@[simp] theorem setMir_boot (s : State) (b) (c) : (setMir s b c).boot = s.boot := rfl
@[simp] theorem setMir_otp (s : State) (b) (c) : (setMir s b c).otp = s.otp := rfl
@[simp] theorem setMir_evr (s : State) (b) (c) : (setMir s b c).evr = s.evr := rfl
@[simp] theorem setMir_crc (s : State) (b) (c) : (setMir s b c).crc = s.crc := rfl
@[simp] theorem setMir_blt (s : State) (b) (c) : (setMir s b c).blt = s.blt := rfl
@[simp] theorem setMir_mem (s : State) (b) (c) : (setMir s b c).mem = s.mem := rfl
@[simp] theorem setMir_flow (s : State) (b) (c) : (setMir s b c).flow = s.flow := rfl
@[simp] theorem setMir_ct (s : State) (b) (c) : (setMir s b c).ct = s.ct := rfl
@[simp] theorem setMir_eng (s : State) (b) (c) : (setMir s b c).eng = s.eng := rfl
@[simp] theorem setMir_opt (s : State) (b) (c) : (setMir s b c).opt = s.opt := rfl
@[simp] theorem setMir_board (s : State) (b) (c) : (setMir s b c).board = s.board := rfl
@[simp] theorem setMir_kft (s : State) (b) (c) : (setMir s b c).kft = s.kft := rfl
@[simp] theorem setMir_rdn (s : State) (b) (c) : (setMir s b c).rdn = s.rdn := rfl
@[simp] theorem setMir_sel (s : State) (b) (c) : (setMir s b c).sel = s.sel := rfl

@[simp] theorem setPort_pending (s : State) (b) (c) : (setPort s b c).pending = s.pending := rfl
@[simp] theorem setPort_out (s : State) (b) (c) : (setPort s b c).out = s.out := rfl
@[simp] theorem setPort_fresh (s : State) (b) (c) : (setPort s b c).fresh = s.fresh := rfl
@[simp] theorem setPort_ns (s : State) (b) (c) : (setPort s b c).ns = s.ns := rfl
@[simp] theorem setPort_regs (s : State) (b) (c) : (setPort s b c).regs = s.regs := rfl
@[simp] theorem setPort_pwr (s : State) (b) (c) : (setPort s b c).pwr = s.pwr := rfl
@[simp] theorem setPort_hst (s : State) (b) (c) : (setPort s b c).hst = s.hst := rfl
@[simp] theorem setPort_boot (s : State) (b) (c) : (setPort s b c).boot = s.boot := rfl
@[simp] theorem setPort_otp (s : State) (b) (c) : (setPort s b c).otp = s.otp := rfl
@[simp] theorem setPort_evr (s : State) (b) (c) : (setPort s b c).evr = s.evr := rfl
@[simp] theorem setPort_crc (s : State) (b) (c) : (setPort s b c).crc = s.crc := rfl
@[simp] theorem setPort_blt (s : State) (b) (c) : (setPort s b c).blt = s.blt := rfl
@[simp] theorem setPort_mem (s : State) (b) (c) : (setPort s b c).mem = s.mem := rfl
@[simp] theorem setPort_flow (s : State) (b) (c) : (setPort s b c).flow = s.flow := rfl
@[simp] theorem setPort_ct (s : State) (b) (c) : (setPort s b c).ct = s.ct := rfl
@[simp] theorem setPort_eng (s : State) (b) (c) : (setPort s b c).eng = s.eng := rfl
@[simp] theorem setPort_opt (s : State) (b) (c) : (setPort s b c).opt = s.opt := rfl
@[simp] theorem setPort_board (s : State) (b) (c) : (setPort s b c).board = s.board := rfl
@[simp] theorem setPort_ste (s : State) (b) (c) : (setPort s b c).ste = s.ste := rfl
@[simp] theorem setPort_rdn (s : State) (b) (c) : (setPort s b c).rdn = s.rdn := rfl
@[simp] theorem setPort_sel (s : State) (b) (c) : (setPort s b c).sel = s.sel := rfl

@[simp] theorem modSte_pending (s : State) (b) : (modSte s b).pending = s.pending := rfl
@[simp] theorem modSte_out (s : State) (b) : (modSte s b).out = s.out := rfl
@[simp] theorem modSte_fresh (s : State) (b) : (modSte s b).fresh = s.fresh := rfl
@[simp] theorem modSte_ns (s : State) (b) : (modSte s b).ns = s.ns := rfl
@[simp] theorem modSte_regs (s : State) (b) : (modSte s b).regs = s.regs := rfl
@[simp] theorem modSte_pwr (s : State) (b) : (modSte s b).pwr = s.pwr := rfl
@[simp] theorem modSte_hst (s : State) (b) : (modSte s b).hst = s.hst := rfl
@[simp] theorem modSte_boot (s : State) (b) : (modSte s b).boot = s.boot := rfl
@[simp] theorem modSte_otp (s : State) (b) : (modSte s b).otp = s.otp := rfl
@[simp] theorem modSte_evr (s : State) (b) : (modSte s b).evr = s.evr := rfl
@[simp] theorem modSte_crc (s : State) (b) : (modSte s b).crc = s.crc := rfl
@[simp] theorem modSte_blt (s : State) (b) : (modSte s b).blt = s.blt := rfl
@[simp] theorem modSte_mem (s : State) (b) : (modSte s b).mem = s.mem := rfl
@[simp] theorem modSte_flow (s : State) (b) : (modSte s b).flow = s.flow := rfl
@[simp] theorem modSte_ct (s : State) (b) : (modSte s b).ct = s.ct := rfl
@[simp] theorem modSte_eng (s : State) (b) : (modSte s b).eng = s.eng := rfl
@[simp] theorem modSte_opt (s : State) (b) : (modSte s b).opt = s.opt := rfl
@[simp] theorem modSte_board (s : State) (b) : (modSte s b).board = s.board := rfl
@[simp] theorem modSte_kft (s : State) (b) : (modSte s b).kft = s.kft := rfl
@[simp] theorem modSte_rdn (s : State) (b) : (modSte s b).rdn = s.rdn := rfl
@[simp] theorem modSte_sel (s : State) (b) : (modSte s b).sel = s.sel := rfl

@[simp] theorem setEntry_pending (s : State) (b) (c) : (setEntry s b c).pending = s.pending := rfl
@[simp] theorem setEntry_out (s : State) (b) (c) : (setEntry s b c).out = s.out := rfl
@[simp] theorem setEntry_fresh (s : State) (b) (c) : (setEntry s b c).fresh = s.fresh := rfl
@[simp] theorem setEntry_ns (s : State) (b) (c) : (setEntry s b c).ns = s.ns := rfl
@[simp] theorem setEntry_regs (s : State) (b) (c) : (setEntry s b c).regs = s.regs := rfl
@[simp] theorem setEntry_pwr (s : State) (b) (c) : (setEntry s b c).pwr = s.pwr := rfl
@[simp] theorem setEntry_hst (s : State) (b) (c) : (setEntry s b c).hst = s.hst := rfl
@[simp] theorem setEntry_boot (s : State) (b) (c) : (setEntry s b c).boot = s.boot := rfl
@[simp] theorem setEntry_otp (s : State) (b) (c) : (setEntry s b c).otp = s.otp := rfl
@[simp] theorem setEntry_evr (s : State) (b) (c) : (setEntry s b c).evr = s.evr := rfl
@[simp] theorem setEntry_crc (s : State) (b) (c) : (setEntry s b c).crc = s.crc := rfl
@[simp] theorem setEntry_blt (s : State) (b) (c) : (setEntry s b c).blt = s.blt := rfl
@[simp] theorem setEntry_mem (s : State) (b) (c) : (setEntry s b c).mem = s.mem := rfl
@[simp] theorem setEntry_flow (s : State) (b) (c) : (setEntry s b c).flow = s.flow := rfl
@[simp] theorem setEntry_ct (s : State) (b) (c) : (setEntry s b c).ct = s.ct := rfl
@[simp] theorem setEntry_eng (s : State) (b) (c) : (setEntry s b c).eng = s.eng := rfl
@[simp] theorem setEntry_opt (s : State) (b) (c) : (setEntry s b c).opt = s.opt := rfl
@[simp] theorem setEntry_board (s : State) (b) (c) : (setEntry s b c).board = s.board := rfl
@[simp] theorem setEntry_kft (s : State) (b) (c) : (setEntry s b c).kft = s.kft := rfl
@[simp] theorem setEntry_rdn (s : State) (b) (c) : (setEntry s b c).rdn = s.rdn := rfl
@[simp] theorem setEntry_sel (s : State) (b) (c) : (setEntry s b c).sel = s.sel := rfl

@[simp] theorem modFix_pending (s : State) (b) : (modFix s b).pending = s.pending := rfl
@[simp] theorem modFix_out (s : State) (b) : (modFix s b).out = s.out := rfl
@[simp] theorem modFix_fresh (s : State) (b) : (modFix s b).fresh = s.fresh := rfl
@[simp] theorem modFix_ns (s : State) (b) : (modFix s b).ns = s.ns := rfl
@[simp] theorem modFix_regs (s : State) (b) : (modFix s b).regs = s.regs := rfl
@[simp] theorem modFix_pwr (s : State) (b) : (modFix s b).pwr = s.pwr := rfl
@[simp] theorem modFix_hst (s : State) (b) : (modFix s b).hst = s.hst := rfl
@[simp] theorem modFix_boot (s : State) (b) : (modFix s b).boot = s.boot := rfl
@[simp] theorem modFix_otp (s : State) (b) : (modFix s b).otp = s.otp := rfl
@[simp] theorem modFix_evr (s : State) (b) : (modFix s b).evr = s.evr := rfl
@[simp] theorem modFix_crc (s : State) (b) : (modFix s b).crc = s.crc := rfl
@[simp] theorem modFix_blt (s : State) (b) : (modFix s b).blt = s.blt := rfl
@[simp] theorem modFix_mem (s : State) (b) : (modFix s b).mem = s.mem := rfl
@[simp] theorem modFix_flow (s : State) (b) : (modFix s b).flow = s.flow := rfl
@[simp] theorem modFix_ct (s : State) (b) : (modFix s b).ct = s.ct := rfl
@[simp] theorem modFix_eng (s : State) (b) : (modFix s b).eng = s.eng := rfl
@[simp] theorem modFix_opt (s : State) (b) : (modFix s b).opt = s.opt := rfl
@[simp] theorem modFix_board (s : State) (b) : (modFix s b).board = s.board := rfl
@[simp] theorem modFix_kft (s : State) (b) : (modFix s b).kft = s.kft := rfl
@[simp] theorem modFix_ste (s : State) (b) : (modFix s b).ste = s.ste := rfl
@[simp] theorem modFix_rdn (s : State) (b) : (modFix s b).rdn = s.rdn := rfl

@[simp] theorem setLoop_pending (s : State) (b) (c) : (setLoop s b c).pending = s.pending := rfl
@[simp] theorem setLoop_out (s : State) (b) (c) : (setLoop s b c).out = s.out := rfl
@[simp] theorem setLoop_fresh (s : State) (b) (c) : (setLoop s b c).fresh = s.fresh := rfl
@[simp] theorem setLoop_ns (s : State) (b) (c) : (setLoop s b c).ns = s.ns := rfl
@[simp] theorem setLoop_regs (s : State) (b) (c) : (setLoop s b c).regs = s.regs := rfl
@[simp] theorem setLoop_pwr (s : State) (b) (c) : (setLoop s b c).pwr = s.pwr := rfl
@[simp] theorem setLoop_hst (s : State) (b) (c) : (setLoop s b c).hst = s.hst := rfl
@[simp] theorem setLoop_boot (s : State) (b) (c) : (setLoop s b c).boot = s.boot := rfl
@[simp] theorem setLoop_otp (s : State) (b) (c) : (setLoop s b c).otp = s.otp := rfl
@[simp] theorem setLoop_evr (s : State) (b) (c) : (setLoop s b c).evr = s.evr := rfl
@[simp] theorem setLoop_crc (s : State) (b) (c) : (setLoop s b c).crc = s.crc := rfl
@[simp] theorem setLoop_blt (s : State) (b) (c) : (setLoop s b c).blt = s.blt := rfl
@[simp] theorem setLoop_mem (s : State) (b) (c) : (setLoop s b c).mem = s.mem := rfl
@[simp] theorem setLoop_flow (s : State) (b) (c) : (setLoop s b c).flow = s.flow := rfl
@[simp] theorem setLoop_ct (s : State) (b) (c) : (setLoop s b c).ct = s.ct := rfl
@[simp] theorem setLoop_eng (s : State) (b) (c) : (setLoop s b c).eng = s.eng := rfl
@[simp] theorem setLoop_opt (s : State) (b) (c) : (setLoop s b c).opt = s.opt := rfl
@[simp] theorem setLoop_board (s : State) (b) (c) : (setLoop s b c).board = s.board := rfl
@[simp] theorem setLoop_kft (s : State) (b) (c) : (setLoop s b c).kft = s.kft := rfl
@[simp] theorem setLoop_ste (s : State) (b) (c) : (setLoop s b c).ste = s.ste := rfl
@[simp] theorem setLoop_rdn (s : State) (b) (c) : (setLoop s b c).rdn = s.rdn := rfl

@[simp] theorem setChannel_pending (s : State) (b) (c) : (setChannel s b c).pending = s.pending := rfl
@[simp] theorem setChannel_out (s : State) (b) (c) : (setChannel s b c).out = s.out := rfl
@[simp] theorem setChannel_fresh (s : State) (b) (c) : (setChannel s b c).fresh = s.fresh := rfl
@[simp] theorem setChannel_ns (s : State) (b) (c) : (setChannel s b c).ns = s.ns := rfl
@[simp] theorem setChannel_regs (s : State) (b) (c) : (setChannel s b c).regs = s.regs := rfl
@[simp] theorem setChannel_pwr (s : State) (b) (c) : (setChannel s b c).pwr = s.pwr := rfl
@[simp] theorem setChannel_hst (s : State) (b) (c) : (setChannel s b c).hst = s.hst := rfl
@[simp] theorem setChannel_boot (s : State) (b) (c) : (setChannel s b c).boot = s.boot := rfl
@[simp] theorem setChannel_otp (s : State) (b) (c) : (setChannel s b c).otp = s.otp := rfl
@[simp] theorem setChannel_evr (s : State) (b) (c) : (setChannel s b c).evr = s.evr := rfl
@[simp] theorem setChannel_crc (s : State) (b) (c) : (setChannel s b c).crc = s.crc := rfl
@[simp] theorem setChannel_blt (s : State) (b) (c) : (setChannel s b c).blt = s.blt := rfl
@[simp] theorem setChannel_mem (s : State) (b) (c) : (setChannel s b c).mem = s.mem := rfl
@[simp] theorem setChannel_flow (s : State) (b) (c) : (setChannel s b c).flow = s.flow := rfl
@[simp] theorem setChannel_ct (s : State) (b) (c) : (setChannel s b c).ct = s.ct := rfl
@[simp] theorem setChannel_eng (s : State) (b) (c) : (setChannel s b c).eng = s.eng := rfl
@[simp] theorem setChannel_opt (s : State) (b) (c) : (setChannel s b c).opt = s.opt := rfl
@[simp] theorem setChannel_board (s : State) (b) (c) : (setChannel s b c).board = s.board := rfl
@[simp] theorem setChannel_kft (s : State) (b) (c) : (setChannel s b c).kft = s.kft := rfl
@[simp] theorem setChannel_ste (s : State) (b) (c) : (setChannel s b c).ste = s.ste := rfl
@[simp] theorem setChannel_rdn (s : State) (b) (c) : (setChannel s b c).rdn = s.rdn := rfl

@[simp] theorem modRdn_pending (s : State) (b) : (modRdn s b).pending = s.pending := rfl
@[simp] theorem modRdn_out (s : State) (b) : (modRdn s b).out = s.out := rfl
@[simp] theorem modRdn_fresh (s : State) (b) : (modRdn s b).fresh = s.fresh := rfl
@[simp] theorem modRdn_ns (s : State) (b) : (modRdn s b).ns = s.ns := rfl
@[simp] theorem modRdn_regs (s : State) (b) : (modRdn s b).regs = s.regs := rfl
@[simp] theorem modRdn_pwr (s : State) (b) : (modRdn s b).pwr = s.pwr := rfl
@[simp] theorem modRdn_hst (s : State) (b) : (modRdn s b).hst = s.hst := rfl
@[simp] theorem modRdn_boot (s : State) (b) : (modRdn s b).boot = s.boot := rfl
@[simp] theorem modRdn_otp (s : State) (b) : (modRdn s b).otp = s.otp := rfl
@[simp] theorem modRdn_evr (s : State) (b) : (modRdn s b).evr = s.evr := rfl
@[simp] theorem modRdn_crc (s : State) (b) : (modRdn s b).crc = s.crc := rfl
@[simp] theorem modRdn_blt (s : State) (b) : (modRdn s b).blt = s.blt := rfl
@[simp] theorem modRdn_mem (s : State) (b) : (modRdn s b).mem = s.mem := rfl
@[simp] theorem modRdn_flow (s : State) (b) : (modRdn s b).flow = s.flow := rfl
@[simp] theorem modRdn_ct (s : State) (b) : (modRdn s b).ct = s.ct := rfl
@[simp] theorem modRdn_eng (s : State) (b) : (modRdn s b).eng = s.eng := rfl
@[simp] theorem modRdn_opt (s : State) (b) : (modRdn s b).opt = s.opt := rfl
@[simp] theorem modRdn_board (s : State) (b) : (modRdn s b).board = s.board := rfl
@[simp] theorem modRdn_kft (s : State) (b) : (modRdn s b).kft = s.kft := rfl
@[simp] theorem modRdn_ste (s : State) (b) : (modRdn s b).ste = s.ste := rfl
@[simp] theorem modRdn_sel (s : State) (b) : (modRdn s b).sel = s.sel := rfl

@[simp] theorem modCal_pending (s : State) (b) : (modCal s b).pending = s.pending := rfl
@[simp] theorem modCal_out (s : State) (b) : (modCal s b).out = s.out := rfl
@[simp] theorem modCal_fresh (s : State) (b) : (modCal s b).fresh = s.fresh := rfl
@[simp] theorem modCal_ns (s : State) (b) : (modCal s b).ns = s.ns := rfl
@[simp] theorem modCal_regs (s : State) (b) : (modCal s b).regs = s.regs := rfl
@[simp] theorem modCal_pwr (s : State) (b) : (modCal s b).pwr = s.pwr := rfl
@[simp] theorem modCal_hst (s : State) (b) : (modCal s b).hst = s.hst := rfl
@[simp] theorem modCal_boot (s : State) (b) : (modCal s b).boot = s.boot := rfl
@[simp] theorem modCal_otp (s : State) (b) : (modCal s b).otp = s.otp := rfl
@[simp] theorem modCal_evr (s : State) (b) : (modCal s b).evr = s.evr := rfl
@[simp] theorem modCal_crc (s : State) (b) : (modCal s b).crc = s.crc := rfl
@[simp] theorem modCal_blt (s : State) (b) : (modCal s b).blt = s.blt := rfl
@[simp] theorem modCal_mem (s : State) (b) : (modCal s b).mem = s.mem := rfl
@[simp] theorem modCal_flow (s : State) (b) : (modCal s b).flow = s.flow := rfl
@[simp] theorem modCal_ct (s : State) (b) : (modCal s b).ct = s.ct := rfl
@[simp] theorem modCal_eng (s : State) (b) : (modCal s b).eng = s.eng := rfl
@[simp] theorem modCal_opt (s : State) (b) : (modCal s b).opt = s.opt := rfl
@[simp] theorem modCal_board (s : State) (b) : (modCal s b).board = s.board := rfl
@[simp] theorem modCal_kft (s : State) (b) : (modCal s b).kft = s.kft := rfl
@[simp] theorem modCal_ste (s : State) (b) : (modCal s b).ste = s.ste := rfl
@[simp] theorem modCal_rdn (s : State) (b) : (modCal s b).rdn = s.rdn := rfl

@[simp] theorem modEvr_pending (s : State) (b) : (modEvr s b).pending = s.pending := rfl
@[simp] theorem modEvr_out (s : State) (b) : (modEvr s b).out = s.out := rfl
@[simp] theorem modEvr_fresh (s : State) (b) : (modEvr s b).fresh = s.fresh := rfl
@[simp] theorem modEvr_ns (s : State) (b) : (modEvr s b).ns = s.ns := rfl
@[simp] theorem modEvr_regs (s : State) (b) : (modEvr s b).regs = s.regs := rfl
@[simp] theorem modEvr_pwr (s : State) (b) : (modEvr s b).pwr = s.pwr := rfl
@[simp] theorem modEvr_hst (s : State) (b) : (modEvr s b).hst = s.hst := rfl
@[simp] theorem modEvr_boot (s : State) (b) : (modEvr s b).boot = s.boot := rfl
@[simp] theorem modEvr_otp (s : State) (b) : (modEvr s b).otp = s.otp := rfl
@[simp] theorem modEvr_crc (s : State) (b) : (modEvr s b).crc = s.crc := rfl
@[simp] theorem modEvr_blt (s : State) (b) : (modEvr s b).blt = s.blt := rfl
@[simp] theorem modEvr_mem (s : State) (b) : (modEvr s b).mem = s.mem := rfl
@[simp] theorem modEvr_flow (s : State) (b) : (modEvr s b).flow = s.flow := rfl
@[simp] theorem modEvr_ct (s : State) (b) : (modEvr s b).ct = s.ct := rfl
@[simp] theorem modEvr_eng (s : State) (b) : (modEvr s b).eng = s.eng := rfl
@[simp] theorem modEvr_opt (s : State) (b) : (modEvr s b).opt = s.opt := rfl
@[simp] theorem modEvr_board (s : State) (b) : (modEvr s b).board = s.board := rfl
@[simp] theorem modEvr_kft (s : State) (b) : (modEvr s b).kft = s.kft := rfl
@[simp] theorem modEvr_ste (s : State) (b) : (modEvr s b).ste = s.ste := rfl
@[simp] theorem modEvr_rdn (s : State) (b) : (modEvr s b).rdn = s.rdn := rfl
@[simp] theorem modEvr_sel (s : State) (b) : (modEvr s b).sel = s.sel := rfl

@[simp] theorem modBlt_pending (s : State) (b) : (modBlt s b).pending = s.pending := rfl
@[simp] theorem modBlt_out (s : State) (b) : (modBlt s b).out = s.out := rfl
@[simp] theorem modBlt_fresh (s : State) (b) : (modBlt s b).fresh = s.fresh := rfl
@[simp] theorem modBlt_ns (s : State) (b) : (modBlt s b).ns = s.ns := rfl
@[simp] theorem modBlt_regs (s : State) (b) : (modBlt s b).regs = s.regs := rfl
@[simp] theorem modBlt_pwr (s : State) (b) : (modBlt s b).pwr = s.pwr := rfl
@[simp] theorem modBlt_hst (s : State) (b) : (modBlt s b).hst = s.hst := rfl
@[simp] theorem modBlt_boot (s : State) (b) : (modBlt s b).boot = s.boot := rfl
@[simp] theorem modBlt_otp (s : State) (b) : (modBlt s b).otp = s.otp := rfl
@[simp] theorem modBlt_evr (s : State) (b) : (modBlt s b).evr = s.evr := rfl
@[simp] theorem modBlt_crc (s : State) (b) : (modBlt s b).crc = s.crc := rfl
@[simp] theorem modBlt_mem (s : State) (b) : (modBlt s b).mem = s.mem := rfl
@[simp] theorem modBlt_flow (s : State) (b) : (modBlt s b).flow = s.flow := rfl
@[simp] theorem modBlt_ct (s : State) (b) : (modBlt s b).ct = s.ct := rfl
@[simp] theorem modBlt_eng (s : State) (b) : (modBlt s b).eng = s.eng := rfl
@[simp] theorem modBlt_opt (s : State) (b) : (modBlt s b).opt = s.opt := rfl
@[simp] theorem modBlt_board (s : State) (b) : (modBlt s b).board = s.board := rfl
@[simp] theorem modBlt_kft (s : State) (b) : (modBlt s b).kft = s.kft := rfl
@[simp] theorem modBlt_ste (s : State) (b) : (modBlt s b).ste = s.ste := rfl
@[simp] theorem modBlt_rdn (s : State) (b) : (modBlt s b).rdn = s.rdn := rfl
@[simp] theorem modBlt_sel (s : State) (b) : (modBlt s b).sel = s.sel := rfl

@[simp] theorem setCrc_pending (s : State) (b) (c) : (setCrc s b c).pending = s.pending := rfl
@[simp] theorem setCrc_out (s : State) (b) (c) : (setCrc s b c).out = s.out := rfl
@[simp] theorem setCrc_fresh (s : State) (b) (c) : (setCrc s b c).fresh = s.fresh := rfl
@[simp] theorem setCrc_ns (s : State) (b) (c) : (setCrc s b c).ns = s.ns := rfl
@[simp] theorem setCrc_regs (s : State) (b) (c) : (setCrc s b c).regs = s.regs := rfl
@[simp] theorem setCrc_pwr (s : State) (b) (c) : (setCrc s b c).pwr = s.pwr := rfl
@[simp] theorem setCrc_hst (s : State) (b) (c) : (setCrc s b c).hst = s.hst := rfl
@[simp] theorem setCrc_boot (s : State) (b) (c) : (setCrc s b c).boot = s.boot := rfl
@[simp] theorem setCrc_otp (s : State) (b) (c) : (setCrc s b c).otp = s.otp := rfl
@[simp] theorem setCrc_evr (s : State) (b) (c) : (setCrc s b c).evr = s.evr := rfl
@[simp] theorem setCrc_blt (s : State) (b) (c) : (setCrc s b c).blt = s.blt := rfl
@[simp] theorem setCrc_mem (s : State) (b) (c) : (setCrc s b c).mem = s.mem := rfl
@[simp] theorem setCrc_flow (s : State) (b) (c) : (setCrc s b c).flow = s.flow := rfl
@[simp] theorem setCrc_ct (s : State) (b) (c) : (setCrc s b c).ct = s.ct := rfl
@[simp] theorem setCrc_eng (s : State) (b) (c) : (setCrc s b c).eng = s.eng := rfl
@[simp] theorem setCrc_opt (s : State) (b) (c) : (setCrc s b c).opt = s.opt := rfl
@[simp] theorem setCrc_board (s : State) (b) (c) : (setCrc s b c).board = s.board := rfl
@[simp] theorem setCrc_kft (s : State) (b) (c) : (setCrc s b c).kft = s.kft := rfl
@[simp] theorem setCrc_ste (s : State) (b) (c) : (setCrc s b c).ste = s.ste := rfl
@[simp] theorem setCrc_rdn (s : State) (b) (c) : (setCrc s b c).rdn = s.rdn := rfl
@[simp] theorem setCrc_sel (s : State) (b) (c) : (setCrc s b c).sel = s.sel := rfl

@[simp] theorem modBoot_pending (s : State) (b) : (modBoot s b).pending = s.pending := rfl
@[simp] theorem modBoot_out (s : State) (b) : (modBoot s b).out = s.out := rfl
@[simp] theorem modBoot_fresh (s : State) (b) : (modBoot s b).fresh = s.fresh := rfl
@[simp] theorem modBoot_ns (s : State) (b) : (modBoot s b).ns = s.ns := rfl
@[simp] theorem modBoot_regs (s : State) (b) : (modBoot s b).regs = s.regs := rfl
@[simp] theorem modBoot_pwr (s : State) (b) : (modBoot s b).pwr = s.pwr := rfl
@[simp] theorem modBoot_hst (s : State) (b) : (modBoot s b).hst = s.hst := rfl
@[simp] theorem modBoot_otp (s : State) (b) : (modBoot s b).otp = s.otp := rfl
@[simp] theorem modBoot_evr (s : State) (b) : (modBoot s b).evr = s.evr := rfl
@[simp] theorem modBoot_crc (s : State) (b) : (modBoot s b).crc = s.crc := rfl
@[simp] theorem modBoot_blt (s : State) (b) : (modBoot s b).blt = s.blt := rfl
@[simp] theorem modBoot_mem (s : State) (b) : (modBoot s b).mem = s.mem := rfl
@[simp] theorem modBoot_flow (s : State) (b) : (modBoot s b).flow = s.flow := rfl
@[simp] theorem modBoot_ct (s : State) (b) : (modBoot s b).ct = s.ct := rfl
@[simp] theorem modBoot_eng (s : State) (b) : (modBoot s b).eng = s.eng := rfl
@[simp] theorem modBoot_opt (s : State) (b) : (modBoot s b).opt = s.opt := rfl
@[simp] theorem modBoot_board (s : State) (b) : (modBoot s b).board = s.board := rfl
@[simp] theorem modBoot_kft (s : State) (b) : (modBoot s b).kft = s.kft := rfl
@[simp] theorem modBoot_ste (s : State) (b) : (modBoot s b).ste = s.ste := rfl
@[simp] theorem modBoot_rdn (s : State) (b) : (modBoot s b).rdn = s.rdn := rfl
@[simp] theorem modBoot_sel (s : State) (b) : (modBoot s b).sel = s.sel := rfl

@[simp] theorem modPwr_pending (s : State) (b) : (modPwr s b).pending = s.pending := rfl
@[simp] theorem modPwr_out (s : State) (b) : (modPwr s b).out = s.out := rfl
@[simp] theorem modPwr_fresh (s : State) (b) : (modPwr s b).fresh = s.fresh := rfl
@[simp] theorem modPwr_ns (s : State) (b) : (modPwr s b).ns = s.ns := rfl
@[simp] theorem modPwr_regs (s : State) (b) : (modPwr s b).regs = s.regs := rfl
@[simp] theorem modPwr_hst (s : State) (b) : (modPwr s b).hst = s.hst := rfl
@[simp] theorem modPwr_boot (s : State) (b) : (modPwr s b).boot = s.boot := rfl
@[simp] theorem modPwr_otp (s : State) (b) : (modPwr s b).otp = s.otp := rfl
@[simp] theorem modPwr_evr (s : State) (b) : (modPwr s b).evr = s.evr := rfl
@[simp] theorem modPwr_crc (s : State) (b) : (modPwr s b).crc = s.crc := rfl
@[simp] theorem modPwr_blt (s : State) (b) : (modPwr s b).blt = s.blt := rfl
@[simp] theorem modPwr_mem (s : State) (b) : (modPwr s b).mem = s.mem := rfl
@[simp] theorem modPwr_flow (s : State) (b) : (modPwr s b).flow = s.flow := rfl
@[simp] theorem modPwr_ct (s : State) (b) : (modPwr s b).ct = s.ct := rfl
@[simp] theorem modPwr_eng (s : State) (b) : (modPwr s b).eng = s.eng := rfl
@[simp] theorem modPwr_opt (s : State) (b) : (modPwr s b).opt = s.opt := rfl
@[simp] theorem modPwr_board (s : State) (b) : (modPwr s b).board = s.board := rfl
@[simp] theorem modPwr_kft (s : State) (b) : (modPwr s b).kft = s.kft := rfl
@[simp] theorem modPwr_ste (s : State) (b) : (modPwr s b).ste = s.ste := rfl
@[simp] theorem modPwr_rdn (s : State) (b) : (modPwr s b).rdn = s.rdn := rfl
@[simp] theorem modPwr_sel (s : State) (b) : (modPwr s b).sel = s.sel := rfl

@[simp] theorem setDomain_pending (s : State) (b) (c) : (setDomain s b c).pending = s.pending := rfl
@[simp] theorem setDomain_out (s : State) (b) (c) : (setDomain s b c).out = s.out := rfl
@[simp] theorem setDomain_fresh (s : State) (b) (c) : (setDomain s b c).fresh = s.fresh := rfl
@[simp] theorem setDomain_ns (s : State) (b) (c) : (setDomain s b c).ns = s.ns := rfl
@[simp] theorem setDomain_regs (s : State) (b) (c) : (setDomain s b c).regs = s.regs := rfl
@[simp] theorem setDomain_pwr (s : State) (b) (c) : (setDomain s b c).pwr = s.pwr := rfl
@[simp] theorem setDomain_hst (s : State) (b) (c) : (setDomain s b c).hst = s.hst := rfl
@[simp] theorem setDomain_boot (s : State) (b) (c) : (setDomain s b c).boot = s.boot := rfl
@[simp] theorem setDomain_otp (s : State) (b) (c) : (setDomain s b c).otp = s.otp := rfl
@[simp] theorem setDomain_evr (s : State) (b) (c) : (setDomain s b c).evr = s.evr := rfl
@[simp] theorem setDomain_crc (s : State) (b) (c) : (setDomain s b c).crc = s.crc := rfl
@[simp] theorem setDomain_blt (s : State) (b) (c) : (setDomain s b c).blt = s.blt := rfl
@[simp] theorem setDomain_flow (s : State) (b) (c) : (setDomain s b c).flow = s.flow := rfl
@[simp] theorem setDomain_ct (s : State) (b) (c) : (setDomain s b c).ct = s.ct := rfl
@[simp] theorem setDomain_eng (s : State) (b) (c) : (setDomain s b c).eng = s.eng := rfl
@[simp] theorem setDomain_opt (s : State) (b) (c) : (setDomain s b c).opt = s.opt := rfl
@[simp] theorem setDomain_board (s : State) (b) (c) : (setDomain s b c).board = s.board := rfl
@[simp] theorem setDomain_kft (s : State) (b) (c) : (setDomain s b c).kft = s.kft := rfl
@[simp] theorem setDomain_ste (s : State) (b) (c) : (setDomain s b c).ste = s.ste := rfl
@[simp] theorem setDomain_rdn (s : State) (b) (c) : (setDomain s b c).rdn = s.rdn := rfl
@[simp] theorem setDomain_sel (s : State) (b) (c) : (setDomain s b c).sel = s.sel := rfl

@[simp] theorem setChan_pending (s : State) (b) (c) : (setChan s b c).pending = s.pending := rfl
@[simp] theorem setChan_out (s : State) (b) (c) : (setChan s b c).out = s.out := rfl
@[simp] theorem setChan_fresh (s : State) (b) (c) : (setChan s b c).fresh = s.fresh := rfl
@[simp] theorem setChan_ns (s : State) (b) (c) : (setChan s b c).ns = s.ns := rfl
@[simp] theorem setChan_regs (s : State) (b) (c) : (setChan s b c).regs = s.regs := rfl
@[simp] theorem setChan_pwr (s : State) (b) (c) : (setChan s b c).pwr = s.pwr := rfl
@[simp] theorem setChan_hst (s : State) (b) (c) : (setChan s b c).hst = s.hst := rfl
@[simp] theorem setChan_boot (s : State) (b) (c) : (setChan s b c).boot = s.boot := rfl
@[simp] theorem setChan_otp (s : State) (b) (c) : (setChan s b c).otp = s.otp := rfl
@[simp] theorem setChan_evr (s : State) (b) (c) : (setChan s b c).evr = s.evr := rfl
@[simp] theorem setChan_crc (s : State) (b) (c) : (setChan s b c).crc = s.crc := rfl
@[simp] theorem setChan_blt (s : State) (b) (c) : (setChan s b c).blt = s.blt := rfl
@[simp] theorem setChan_flow (s : State) (b) (c) : (setChan s b c).flow = s.flow := rfl
@[simp] theorem setChan_ct (s : State) (b) (c) : (setChan s b c).ct = s.ct := rfl
@[simp] theorem setChan_eng (s : State) (b) (c) : (setChan s b c).eng = s.eng := rfl
@[simp] theorem setChan_opt (s : State) (b) (c) : (setChan s b c).opt = s.opt := rfl
@[simp] theorem setChan_board (s : State) (b) (c) : (setChan s b c).board = s.board := rfl
@[simp] theorem setChan_kft (s : State) (b) (c) : (setChan s b c).kft = s.kft := rfl
@[simp] theorem setChan_ste (s : State) (b) (c) : (setChan s b c).ste = s.ste := rfl
@[simp] theorem setChan_rdn (s : State) (b) (c) : (setChan s b c).rdn = s.rdn := rfl
@[simp] theorem setChan_sel (s : State) (b) (c) : (setChan s b c).sel = s.sel := rfl

@[simp] theorem setPin_pending (s : State) (b) (c) : (setPin s b c).pending = s.pending := rfl
@[simp] theorem setPin_out (s : State) (b) (c) : (setPin s b c).out = s.out := rfl
@[simp] theorem setPin_fresh (s : State) (b) (c) : (setPin s b c).fresh = s.fresh := rfl
@[simp] theorem setPin_ns (s : State) (b) (c) : (setPin s b c).ns = s.ns := rfl
@[simp] theorem setPin_regs (s : State) (b) (c) : (setPin s b c).regs = s.regs := rfl
@[simp] theorem setPin_pwr (s : State) (b) (c) : (setPin s b c).pwr = s.pwr := rfl
@[simp] theorem setPin_hst (s : State) (b) (c) : (setPin s b c).hst = s.hst := rfl
@[simp] theorem setPin_boot (s : State) (b) (c) : (setPin s b c).boot = s.boot := rfl
@[simp] theorem setPin_otp (s : State) (b) (c) : (setPin s b c).otp = s.otp := rfl
@[simp] theorem setPin_evr (s : State) (b) (c) : (setPin s b c).evr = s.evr := rfl
@[simp] theorem setPin_crc (s : State) (b) (c) : (setPin s b c).crc = s.crc := rfl
@[simp] theorem setPin_blt (s : State) (b) (c) : (setPin s b c).blt = s.blt := rfl
@[simp] theorem setPin_flow (s : State) (b) (c) : (setPin s b c).flow = s.flow := rfl
@[simp] theorem setPin_ct (s : State) (b) (c) : (setPin s b c).ct = s.ct := rfl
@[simp] theorem setPin_eng (s : State) (b) (c) : (setPin s b c).eng = s.eng := rfl
@[simp] theorem setPin_opt (s : State) (b) (c) : (setPin s b c).opt = s.opt := rfl
@[simp] theorem setPin_board (s : State) (b) (c) : (setPin s b c).board = s.board := rfl
@[simp] theorem setPin_kft (s : State) (b) (c) : (setPin s b c).kft = s.kft := rfl
@[simp] theorem setPin_ste (s : State) (b) (c) : (setPin s b c).ste = s.ste := rfl
@[simp] theorem setPin_rdn (s : State) (b) (c) : (setPin s b c).rdn = s.rdn := rfl
@[simp] theorem setPin_sel (s : State) (b) (c) : (setPin s b c).sel = s.sel := rfl

@[simp] theorem setTrack_pending (s : State) (b) : (setTrack s b).pending = s.pending := rfl
@[simp] theorem setTrack_out (s : State) (b) : (setTrack s b).out = s.out := rfl
@[simp] theorem setTrack_fresh (s : State) (b) : (setTrack s b).fresh = s.fresh := rfl
@[simp] theorem setTrack_ns (s : State) (b) : (setTrack s b).ns = s.ns := rfl
@[simp] theorem setTrack_regs (s : State) (b) : (setTrack s b).regs = s.regs := rfl
@[simp] theorem setTrack_pwr (s : State) (b) : (setTrack s b).pwr = s.pwr := rfl
@[simp] theorem setTrack_hst (s : State) (b) : (setTrack s b).hst = s.hst := rfl
@[simp] theorem setTrack_boot (s : State) (b) : (setTrack s b).boot = s.boot := rfl
@[simp] theorem setTrack_otp (s : State) (b) : (setTrack s b).otp = s.otp := rfl
@[simp] theorem setTrack_evr (s : State) (b) : (setTrack s b).evr = s.evr := rfl
@[simp] theorem setTrack_crc (s : State) (b) : (setTrack s b).crc = s.crc := rfl
@[simp] theorem setTrack_blt (s : State) (b) : (setTrack s b).blt = s.blt := rfl
@[simp] theorem setTrack_mem (s : State) (b) : (setTrack s b).mem = s.mem := rfl
@[simp] theorem setTrack_flow (s : State) (b) : (setTrack s b).flow = s.flow := rfl
@[simp] theorem setTrack_ct (s : State) (b) : (setTrack s b).ct = s.ct := rfl
@[simp] theorem setTrack_eng (s : State) (b) : (setTrack s b).eng = s.eng := rfl
@[simp] theorem setTrack_opt (s : State) (b) : (setTrack s b).opt = s.opt := rfl
@[simp] theorem setTrack_board (s : State) (b) : (setTrack s b).board = s.board := rfl
@[simp] theorem setTrack_ste (s : State) (b) : (setTrack s b).ste = s.ste := rfl
@[simp] theorem setTrack_rdn (s : State) (b) : (setTrack s b).rdn = s.rdn := rfl
@[simp] theorem setTrack_sel (s : State) (b) : (setTrack s b).sel = s.sel := rfl

@[simp] theorem setSrst_pending (s : State) (b) (c) (d) : (setSrst s b c d).pending = s.pending := rfl
@[simp] theorem setSrst_out (s : State) (b) (c) (d) : (setSrst s b c d).out = s.out := rfl
@[simp] theorem setSrst_fresh (s : State) (b) (c) (d) : (setSrst s b c d).fresh = s.fresh := rfl
@[simp] theorem setSrst_ns (s : State) (b) (c) (d) : (setSrst s b c d).ns = s.ns := rfl
@[simp] theorem setSrst_regs (s : State) (b) (c) (d) : (setSrst s b c d).regs = s.regs := rfl
@[simp] theorem setSrst_pwr (s : State) (b) (c) (d) : (setSrst s b c d).pwr = s.pwr := rfl
@[simp] theorem setSrst_boot (s : State) (b) (c) (d) : (setSrst s b c d).boot = s.boot := rfl
@[simp] theorem setSrst_otp (s : State) (b) (c) (d) : (setSrst s b c d).otp = s.otp := rfl
@[simp] theorem setSrst_evr (s : State) (b) (c) (d) : (setSrst s b c d).evr = s.evr := rfl
@[simp] theorem setSrst_crc (s : State) (b) (c) (d) : (setSrst s b c d).crc = s.crc := rfl
@[simp] theorem setSrst_blt (s : State) (b) (c) (d) : (setSrst s b c d).blt = s.blt := rfl
@[simp] theorem setSrst_mem (s : State) (b) (c) (d) : (setSrst s b c d).mem = s.mem := rfl
@[simp] theorem setSrst_flow (s : State) (b) (c) (d) : (setSrst s b c d).flow = s.flow := rfl
@[simp] theorem setSrst_ct (s : State) (b) (c) (d) : (setSrst s b c d).ct = s.ct := rfl
@[simp] theorem setSrst_eng (s : State) (b) (c) (d) : (setSrst s b c d).eng = s.eng := rfl
@[simp] theorem setSrst_opt (s : State) (b) (c) (d) : (setSrst s b c d).opt = s.opt := rfl
@[simp] theorem setSrst_board (s : State) (b) (c) (d) : (setSrst s b c d).board = s.board := rfl
@[simp] theorem setSrst_kft (s : State) (b) (c) (d) : (setSrst s b c d).kft = s.kft := rfl
@[simp] theorem setSrst_ste (s : State) (b) (c) (d) : (setSrst s b c d).ste = s.ste := rfl
@[simp] theorem setSrst_rdn (s : State) (b) (c) (d) : (setSrst s b c d).rdn = s.rdn := rfl
@[simp] theorem setSrst_sel (s : State) (b) (c) (d) : (setSrst s b c d).sel = s.sel := rfl

@[simp] theorem flashWrite_pending (s : State) (b) (c) : (flashWrite s b c).pending = s.pending := rfl
@[simp] theorem flashWrite_out (s : State) (b) (c) : (flashWrite s b c).out = s.out := rfl
@[simp] theorem flashWrite_fresh (s : State) (b) (c) : (flashWrite s b c).fresh = s.fresh := rfl
@[simp] theorem flashWrite_ns (s : State) (b) (c) : (flashWrite s b c).ns = s.ns := rfl
@[simp] theorem flashWrite_regs (s : State) (b) (c) : (flashWrite s b c).regs = s.regs := rfl
@[simp] theorem flashWrite_pwr (s : State) (b) (c) : (flashWrite s b c).pwr = s.pwr := rfl
@[simp] theorem flashWrite_hst (s : State) (b) (c) : (flashWrite s b c).hst = s.hst := rfl
@[simp] theorem flashWrite_boot (s : State) (b) (c) : (flashWrite s b c).boot = s.boot := rfl
@[simp] theorem flashWrite_otp (s : State) (b) (c) : (flashWrite s b c).otp = s.otp := rfl
@[simp] theorem flashWrite_evr (s : State) (b) (c) : (flashWrite s b c).evr = s.evr := rfl
@[simp] theorem flashWrite_crc (s : State) (b) (c) : (flashWrite s b c).crc = s.crc := rfl
@[simp] theorem flashWrite_blt (s : State) (b) (c) : (flashWrite s b c).blt = s.blt := rfl
@[simp] theorem flashWrite_flow (s : State) (b) (c) : (flashWrite s b c).flow = s.flow := rfl
@[simp] theorem flashWrite_ct (s : State) (b) (c) : (flashWrite s b c).ct = s.ct := rfl
@[simp] theorem flashWrite_eng (s : State) (b) (c) : (flashWrite s b c).eng = s.eng := rfl
@[simp] theorem flashWrite_opt (s : State) (b) (c) : (flashWrite s b c).opt = s.opt := rfl
@[simp] theorem flashWrite_board (s : State) (b) (c) : (flashWrite s b c).board = s.board := rfl
@[simp] theorem flashWrite_kft (s : State) (b) (c) : (flashWrite s b c).kft = s.kft := rfl
@[simp] theorem flashWrite_ste (s : State) (b) (c) : (flashWrite s b c).ste = s.ste := rfl
@[simp] theorem flashWrite_rdn (s : State) (b) (c) : (flashWrite s b c).rdn = s.rdn := rfl
@[simp] theorem flashWrite_sel (s : State) (b) (c) : (flashWrite s b c).sel = s.sel := rfl

@[simp] theorem flashErase_pending (s : State) (b) (c) : (flashErase s b c).pending = s.pending := rfl
@[simp] theorem flashErase_out (s : State) (b) (c) : (flashErase s b c).out = s.out := rfl
@[simp] theorem flashErase_fresh (s : State) (b) (c) : (flashErase s b c).fresh = s.fresh := rfl
@[simp] theorem flashErase_ns (s : State) (b) (c) : (flashErase s b c).ns = s.ns := rfl
@[simp] theorem flashErase_regs (s : State) (b) (c) : (flashErase s b c).regs = s.regs := rfl
@[simp] theorem flashErase_pwr (s : State) (b) (c) : (flashErase s b c).pwr = s.pwr := rfl
@[simp] theorem flashErase_hst (s : State) (b) (c) : (flashErase s b c).hst = s.hst := rfl
@[simp] theorem flashErase_boot (s : State) (b) (c) : (flashErase s b c).boot = s.boot := rfl
@[simp] theorem flashErase_otp (s : State) (b) (c) : (flashErase s b c).otp = s.otp := rfl
@[simp] theorem flashErase_evr (s : State) (b) (c) : (flashErase s b c).evr = s.evr := rfl
@[simp] theorem flashErase_crc (s : State) (b) (c) : (flashErase s b c).crc = s.crc := rfl
@[simp] theorem flashErase_blt (s : State) (b) (c) : (flashErase s b c).blt = s.blt := rfl
@[simp] theorem flashErase_flow (s : State) (b) (c) : (flashErase s b c).flow = s.flow := rfl
@[simp] theorem flashErase_ct (s : State) (b) (c) : (flashErase s b c).ct = s.ct := rfl
@[simp] theorem flashErase_eng (s : State) (b) (c) : (flashErase s b c).eng = s.eng := rfl
@[simp] theorem flashErase_opt (s : State) (b) (c) : (flashErase s b c).opt = s.opt := rfl
@[simp] theorem flashErase_board (s : State) (b) (c) : (flashErase s b c).board = s.board := rfl
@[simp] theorem flashErase_kft (s : State) (b) (c) : (flashErase s b c).kft = s.kft := rfl
@[simp] theorem flashErase_ste (s : State) (b) (c) : (flashErase s b c).ste = s.ste := rfl
@[simp] theorem flashErase_rdn (s : State) (b) (c) : (flashErase s b c).rdn = s.rdn := rfl
@[simp] theorem flashErase_sel (s : State) (b) (c) : (flashErase s b c).sel = s.sel := rfl

@[simp] theorem clearStaging_pending (s : State) (b) : (clearStaging s b).pending = s.pending := rfl
@[simp] theorem clearStaging_out (s : State) (b) : (clearStaging s b).out = s.out := rfl
@[simp] theorem clearStaging_fresh (s : State) (b) : (clearStaging s b).fresh = s.fresh := rfl
@[simp] theorem clearStaging_ns (s : State) (b) : (clearStaging s b).ns = s.ns := rfl
@[simp] theorem clearStaging_regs (s : State) (b) : (clearStaging s b).regs = s.regs := rfl
@[simp] theorem clearStaging_pwr (s : State) (b) : (clearStaging s b).pwr = s.pwr := rfl
@[simp] theorem clearStaging_hst (s : State) (b) : (clearStaging s b).hst = s.hst := rfl
@[simp] theorem clearStaging_boot (s : State) (b) : (clearStaging s b).boot = s.boot := rfl
@[simp] theorem clearStaging_otp (s : State) (b) : (clearStaging s b).otp = s.otp := rfl
@[simp] theorem clearStaging_evr (s : State) (b) : (clearStaging s b).evr = s.evr := rfl
@[simp] theorem clearStaging_crc (s : State) (b) : (clearStaging s b).crc = s.crc := rfl
@[simp] theorem clearStaging_blt (s : State) (b) : (clearStaging s b).blt = s.blt := rfl
@[simp] theorem clearStaging_flow (s : State) (b) : (clearStaging s b).flow = s.flow := rfl
@[simp] theorem clearStaging_ct (s : State) (b) : (clearStaging s b).ct = s.ct := rfl
@[simp] theorem clearStaging_eng (s : State) (b) : (clearStaging s b).eng = s.eng := rfl
@[simp] theorem clearStaging_opt (s : State) (b) : (clearStaging s b).opt = s.opt := rfl
@[simp] theorem clearStaging_board (s : State) (b) : (clearStaging s b).board = s.board := rfl
@[simp] theorem clearStaging_kft (s : State) (b) : (clearStaging s b).kft = s.kft := rfl
@[simp] theorem clearStaging_ste (s : State) (b) : (clearStaging s b).ste = s.ste := rfl
@[simp] theorem clearStaging_rdn (s : State) (b) : (clearStaging s b).rdn = s.rdn := rfl
@[simp] theorem clearStaging_sel (s : State) (b) : (clearStaging s b).sel = s.sel := rfl

end Sys2Proof.Machine
end

