-- ==== Sys2Proof/Laws/Tbl.lean ====
section
/-!
SUPPORT. Laws of the sparse tables: what a read gives after a write, and that every operation keeps
the canonical form.
-/

namespace Sys2Proof.Machine

variable {α : Type} {d : Nat → α}

theorem tget_terase_same (t : Tbl α) (k : Nat) : tget d (terase t k) k = d k := by
  induction t with
  | nil => rfl
  | cons e t ih =>
    obtain ⟨j, w⟩ := e
    by_cases h : j = k <;> simp [terase, tget, h, ih]

theorem tget_terase_ne (t : Tbl α) {k j : Nat} (h : k ≠ j) : tget d (terase t k) j = tget d t j := by
  induction t with
  | nil => rfl
  | cons e t ih =>
    obtain ⟨i, w⟩ := e
    by_cases h1 : i = k
    · subst h1; simp [terase, tget, h, ih]
    · by_cases h2 : i = j
      · subst h2; simp [terase, tget, h1]
      · simp [terase, tget, h1, h2, ih]

/-- Filtering by key leaves the kept keys alone. -/
theorem tget_filter (t : Tbl α) (p : Nat → Bool) (k : Nat) (h : p k = true) :
    tget d (t.filter fun e => p e.1) k = tget d t k := by
  induction t with
  | nil => rfl
  | cons e t ih =>
    obtain ⟨j, v⟩ := e
    by_cases hj : p j = true
    · simp [List.filter, hj, tget, ih]
    · have : j ≠ k := fun e => hj (e ▸ h)
      simp [List.filter, hj, tget, ih, this]

/-- Filtering by key resets the keys that go. -/
theorem tget_filter_out (t : Tbl α) (p : Nat → Bool) (k : Nat) (h : p k = false) :
    tget d (t.filter fun e => p e.1) k = d k := by
  induction t with
  | nil => rfl
  | cons e t ih =>
    obtain ⟨j, v⟩ := e
    by_cases hj : p j = true
    · have : j ≠ k := fun e => by simp [e, h] at hj
      simp [List.filter, hj, tget, ih, this]
    · simp [List.filter, hj, ih]

variable [DecidableEq α]

/-- A read after a write to the same key gives the value written. -/
@[simp] theorem tget_tset_same (t : Tbl α) (k : Nat) (v : α) : tget d (tset d t k v) k = v := by
  induction t with
  | nil => by_cases h : v = d k <;> simp [tset, tget, h]
  | cons e t ih =>
    obtain ⟨j, w⟩ := e
    simp only [tset]
    split
    · rename_i h
      simp [tget, Nat.ne_of_lt h, ih]
    · split
      · rename_i h; rw [tget_terase_same, h]
      · simp [tget]

/-- A write leaves every other key alone. -/
theorem tget_tset_ne (t : Tbl α) {k j : Nat} (v : α) (h : k ≠ j) : tget d (tset d t k v) j = tget d t j := by
  induction t with
  | nil => by_cases h' : v = d k <;> simp [tset, tget, h, h']
  | cons e t ih =>
    obtain ⟨i, w⟩ := e
    simp only [tset]
    split
    · by_cases h2 : i = j <;> simp [tget, h2, ih]
    · split
      · exact tget_terase_ne _ h
      · rw [show tget d ((k, v) :: terase ((i, w) :: t) k) j = tget d (terase ((i, w) :: t) k) j by simp [tget, h]]
        exact tget_terase_ne _ h

/-- Both cases of a read after a write. -/
theorem tget_tset (t : Tbl α) (k j : Nat) (v : α) :
    tget d (tset d t k v) j = if k = j then v else tget d t j := by
  by_cases h : k = j
  · subst h; simp
  · simp [h, tget_tset_ne]

theorem tget_tmod (t : Tbl α) (k j : Nat) (f : α → α) :
    tget d (tmod d t k f) j = if k = j then f (tget d t k) else tget d t j := tget_tset ..

/-! ## The canonical form -/

theorem tblWfFrom_mono {lo lo' : Option Nat} (h : ∀ j, (∀ l, lo = some l → l < j) → ∀ l, lo' = some l → l < j)
    (t : Tbl α) (hw : tblWfFrom d lo t = true) : tblWfFrom d lo' t = true := by
  cases t with
  | nil => rfl
  | cons e t =>
    obtain ⟨j, v⟩ := e
    cases lo <;> cases lo' <;> simp_all [tblWfFrom]

theorem tblWfFrom_none {lo : Option Nat} (t : Tbl α) (hw : tblWfFrom d lo t = true) : tblWf d t = true :=
  tblWfFrom_mono (by simp) t hw

theorem terase_wfFrom (t : Tbl α) (k : Nat) (lo : Option Nat) (hw : tblWfFrom d lo t = true) :
    tblWfFrom d lo (terase t k) = true := by
  induction t generalizing lo with
  | nil => rfl
  | cons e t ih =>
    obtain ⟨j, v⟩ := e
    have h2 : tblWfFrom d (some j) t = true := by simp_all [tblWfFrom]
    by_cases h : j = k
    · simp only [terase, h, if_true]
      refine ih lo (tblWfFrom_mono ?_ t h2)
      cases lo with
      | none => simp
      | some l =>
        have : l < j := by simp_all [tblWfFrom]
        intro i hi l' hl'
        have := hi j rfl
        cases hl'; omega
    · simp only [terase, h, if_false]
      have := ih (some j) h2
      cases lo <;> simp_all [tblWfFrom]

/-- A key below the whole table can be put in front. -/
theorem terase_above (t : Tbl α) (k j : Nat) (lo : Option Nat) (v : α) (hj : ¬ j < k)
    (hw : tblWfFrom d lo ((j, v) :: t) = true) : tblWfFrom d (some k) (terase ((j, v) :: t) k) = true := by
  have h2 : tblWfFrom d (some j) t = true := by cases lo <;> simp_all [tblWfFrom]
  by_cases h : j = k
  · subst h
    simpa [terase] using terase_wfFrom t j _ h2
  · have hv : v ≠ d j := by cases lo <;> simp_all [tblWfFrom]
    have := terase_wfFrom t k _ h2
    simp only [terase, h, if_false, tblWfFrom]
    simp [this, hv]; omega

theorem tset_wfFrom (t : Tbl α) (k : Nat) (v : α) (lo : Option Nat) (hk : ∀ l, lo = some l → l < k)
    (hw : tblWfFrom d lo t = true) : tblWfFrom d lo (tset d t k v) = true := by
  induction t generalizing lo with
  | nil =>
    by_cases h : v = d k
    · simp [tset, h, tblWfFrom]
    · cases lo <;> simp_all [tset, tblWfFrom]
  | cons e t ih =>
    obtain ⟨j, w⟩ := e
    have h2 : tblWfFrom d (some j) t = true := by cases lo <;> simp_all [tblWfFrom]
    simp only [tset]
    split
    · rename_i h
      have := ih (some j) (by simp [h]) h2
      cases lo <;> simp_all [tblWfFrom]
    · rename_i h
      split
      · exact terase_wfFrom _ _ _ hw
      · rename_i hv
        have := terase_above t k j lo w h hw
        cases lo <;> simp_all [tblWfFrom]

/-- A write keeps the canonical form. -/
theorem tset_wf (t : Tbl α) (k : Nat) (v : α) (hw : tblWf d t = true) : tblWf d (tset d t k v) = true :=
  tset_wfFrom t k v none (by simp) hw

/-- So does an update of one entry. -/
theorem tmod_wf (t : Tbl α) (k : Nat) (f : α → α) (hw : tblWf d t = true) : tblWf d (tmod d t k f) = true :=
  tset_wf _ _ _ hw

theorem filter_wfFrom (t : Tbl α) (p : Nat × α → Bool) (lo : Option Nat) (hw : tblWfFrom d lo t = true) :
    tblWfFrom d lo (t.filter p) = true := by
  induction t generalizing lo with
  | nil => rfl
  | cons e t ih =>
    obtain ⟨j, v⟩ := e
    have h2 : tblWfFrom d (some j) t = true := by cases lo <;> simp_all [tblWfFrom]
    simp only [List.filter]
    split
    · have := ih (some j) h2
      cases lo <;> simp_all [tblWfFrom]
    · refine ih lo (tblWfFrom_mono ?_ t h2)
      cases lo with
      | none => simp
      | some l =>
        have : l < j := by simp_all [tblWfFrom]
        intro i hi l' hl'
        have := hi j rfl
        cases hl'; omega

/-- Dropping entries keeps the canonical form. -/
theorem filter_wf (t : Tbl α) (p : Nat × α → Bool) (hw : tblWf d t = true) : tblWf d (t.filter p) = true :=
  filter_wfFrom t p none hw

theorem tclear_wf (t : Tbl α) (lo hi : Nat) (hw : tblWf d t = true) : tblWf d (tclear t lo hi) = true :=
  filter_wf t _ hw

/-- Writing bytes keeps the canonical form. -/
theorem twriteBytes_wf {d : Nat → Byte} (bs : List Byte) (t : Tbl Byte) (a : Nat) (hw : tblWf d t = true) :
    tblWf d (twriteBytes d t a bs) = true := by
  induction bs generalizing t a with
  | nil => exact hw
  | cons b bs ih => exact ih _ _ (tset_wf t a b hw)

/-- A byte outside the bytes written reads as before. -/
theorem tget_twriteBytes_out {d : Nat → Byte} (bs : List Byte) (t : Tbl Byte) (a k : Nat)
    (h : k < a ∨ a + bs.length ≤ k) : tget d (twriteBytes d t a bs) k = tget d t k := by
  induction bs generalizing t a with
  | nil => rfl
  | cons b bs ih =>
    simp only [List.length_cons] at h
    rw [twriteBytes, ih _ _ (by omega), tget_tset_ne _ _ (by omega)]

/-- A byte inside the bytes written reads as the byte written there. -/
theorem tget_twriteBytes_in {d : Nat → Byte} (bs : List Byte) (t : Tbl Byte) (a i : Nat) (h : i < bs.length) :
    tget d (twriteBytes d t a bs) (a + i) = bs[i] := by
  induction bs generalizing t a i with
  | nil => simp at h
  | cons b bs ih =>
    cases i with
    | zero => rw [twriteBytes, tget_twriteBytes_out _ _ _ _ (by omega), Nat.add_zero, tget_tset_same]; rfl
    | succ i =>
      have := ih (tset d t a b) (a + 1) i (by simpa using h)
      rw [twriteBytes, show a + (i + 1) = a + 1 + i by omega, this]; rfl

/-- Bytes read back as they were written. -/
theorem treadBytes_twriteBytes {d : Nat → Byte} (bs : List Byte) (t : Tbl Byte) (a : Nat) :
    treadBytes d (twriteBytes d t a bs) a bs.length = bs := by
  induction bs generalizing t a with
  | nil => rfl
  | cons b bs ih =>
    rw [List.length_cons, treadBytes, twriteBytes, tget_twriteBytes_out _ _ _ _ (by omega), tget_tset_same, ih]

end Sys2Proof.Machine
end

