-- ==== Sys2Proof/Laws/Regs.lean ====
section
/-!
SUPPORT. Reads of register words, dies and queues after writes.
-/

namespace Sys2Proof.Machine

/-- A register reads what was stored, and every other one as before. -/
theorem getReg_setReg (s : State) (k j : Nat) (w : Word) :
    getReg (setReg s k w) j = if k = j then w else getReg s j := tget_tset ..

@[simp] theorem getReg_setReg_same (s : State) (k : Nat) (w : Word) : getReg (setReg s k w) k = w := tget_tset_same ..

theorem getReg_setReg_ne (s : State) {k j : Nat} (w : Word) (h : k ≠ j) : getReg (setReg s k w) j = getReg s j :=
  tget_tset_ne _ _ h

/-- Register words depend on the register file alone. -/
theorem getReg_congr {s t : State} (h : t.regs = s.regs) (k : Nat) : getReg t k = getReg s k := by
  unfold getReg; rw [h]

theorem getReg_setRegN (s : State) (k j n : Nat) :
    getReg (setRegN s k n) j = if k = j then toWord n else getReg s j := getReg_setReg ..

theorem getReg_setRegFld (s : State) (k j lo n v : Nat) :
    getReg (setRegFld s k lo n v) j = if k = j then putFld (getReg s k) lo n v else getReg s j := getReg_setReg ..

theorem getReg_bumpReg (s : State) (k j n : Nat) :
    getReg (bumpReg s k n) j = if k = j then satAdd (getReg s k) n else getReg s j := getReg_setReg ..

theorem getReg_wrapReg (s : State) (k j n : Nat) :
    getReg (wrapReg s k n) j = if k = j then getReg s k + toWord n else getReg s j := getReg_setReg ..

theorem getReg_orReg (s : State) (k j : Nat) (m : Word) :
    getReg (orReg s k m) j = if k = j then getReg s k ||| m else getReg s j := getReg_setReg ..

theorem getReg_andNotReg (s : State) (k j : Nat) (m : Word) :
    getReg (andNotReg s k m) j = if k = j then getReg s k &&& ~~~ m else getReg s j := getReg_setReg ..

/-- A die's power state after a change. -/
theorem unitSt_setUnit (s : State) (u v : Nat) (p : PState) :
    unitSt (setUnit s u p) v = if u = v then p else unitSt s v := tget_tset ..

theorem unitSt_congr {s t : State} (h : t.pwr.units = s.pwr.units) (u : Nat) : unitSt t u = unitSt s u := by
  unfold unitSt; rw [h]

theorem queueOf_setQueue (s : State) (q r : Nat) (x : Queue) :
    queueOf (setQueue s q x) r = if q = r then x else queueOf s r := tget_tset ..

theorem ctOf_setCt (s : State) (i j : Nat) (x : CtEntry) :
    ctOf (setCt s i x) j = if i = j then x else ctOf s j := tget_tset ..

theorem tokOf_setTok (s : State) (i j : Nat) (x : Token) :
    tokOf (setTok s i x) j = if i = j then x else tokOf s j := tget_tset ..

theorem linkOf_setLink (s : State) (i j : Nat) (x : Link) :
    linkOf (setLink s i x) j = if i = j then x else linkOf s j := tget_tset ..

theorem optOf_setOpt (s : State) (i j : Nat) (x : OptEng) :
    optOf (setOpt s i x) j = if i = j then x else optOf s j := tget_tset ..

theorem slotOf_setSlot (s : State) (i j : Nat) (x : Slot) :
    slotOf (setSlot s i x) j = if i = j then x else slotOf s j := tget_tset ..

theorem axisOf_setAxis (s : State) (i j : Nat) (x : Axis) :
    axisOf (setAxis s i x) j = if i = j then x else axisOf s j := tget_tset ..

theorem loopOf_setLoop (s : State) (i j : Nat) (x : Loop) :
    loopOf (setLoop s i x) j = if i = j then x else loopOf s j := tget_tset ..

theorem channelOf_setChannel (s : State) (i j : Nat) (x : Channel) :
    channelOf (setChannel s i x) j = if i = j then x else channelOf s j := tget_tset ..

theorem portOf_setPort (s : State) (i j : Nat) (x : Port) :
    portOf (setPort s i x) j = if i = j then x else portOf s j := tget_tset ..

theorem sessOf_setSess (s : State) (i j : Nat) (x : Session) :
    sessOf (setSess s i x) j = if i = j then x else sessOf s j := tget_tset ..

theorem crcOf_setCrc (s : State) (i j : Nat) (x : Crc) :
    crcOf (setCrc s i x) j = if i = j then x else crcOf s j := tget_tset ..

theorem bucketOf_setBucket (s : State) (i j : Nat) (x : Bucket) :
    bucketOf (setBucket s i x) j = if i = j then x else bucketOf s j := tget_tset ..

/-! ## Bytes of local memory -/

/-- A byte of local memory after a store: the byte stored there, or the byte before. -/
theorem readByte_storeBytes_out (s : State) (a k : Nat) (bs : List Byte) (h : k < a ∨ a + bs.length ≤ k) :
    readByte (storeBytes s a bs) k = readByte s k := tget_twriteBytes_out _ _ _ _ h

theorem readByte_storeBytes_in (s : State) (a i : Nat) (bs : List Byte) (h : i < bs.length) :
    readByte (storeBytes s a bs) (a + i) = bs[i] := tget_twriteBytes_in _ _ _ _ h

theorem readBytes_storeBytes (s : State) (a : Nat) (bs : List Byte) :
    readBytes (storeBytes s a bs) a bs.length = bs := treadBytes_twriteBytes ..

end Sys2Proof.Machine
end

