-- ==== Sys2Proof/Laws/Access.lean ====
section
/-!
SUPPORT. The path of one register write (R68): a write that reaches its block is what the block's page does with it,
and a write that a block refuses is recorded in its page.
-/

namespace Sys2Proof.Machine

/-- A register's window address names its page, instance and offset. -/
theorem regTarget_regAddr (ty inst o : Nat) (h1 : ty < 256) (h2 : inst < 256) (h3 : o < 4096) :
    regTarget (regAddr ty inst o) = some (ty, inst, o) := by
  unfold regTarget regAddr pageKey
  rw [if_pos (by simp only [Bool.and_eq_true, decide_eq_true_eq]; omega)]
  simp only [Option.some.injEq, Prod.mk.injEq]
  refine ⟨?_, ?_, ?_⟩ <;> omega

theorem regTarget_addr (a : Nat) (p : Nat × Nat × Nat) (h : regTarget a = some p) :
    p.1 < 256 ∧ p.2.1 < 256 ∧ p.2.2 < 4096 := by
  unfold regTarget at h
  split at h
  · rename_i c
    simp only [Bool.and_eq_true, decide_eq_true_eq] at c
    cases h
    refine ⟨?_, Nat.mod_lt _ (by decide), Nat.mod_lt _ (by decide)⟩
    dsimp only
    omega
  · cases h

/-- One access that no check stops is what the block's page does, or the record of its refusal. -/
theorem accessWrite_eq {s : State} {cls a ty inst o : Nat} {sid : BitVec 16} (v : Word)
    (ha : regTarget a = some (ty, inst, o)) (c1 : pageExists ty inst = true) (c2 : mayAccess s cls ty o true = true)
    (c3 : sealedReg s ty o = false) (c4 : notReady s ty inst o = false) (h4 : o % 4 = 0)
    (r : WRes) (hr : regWrite s cls sid ty inst o v = r) :
    (accessWrite s cls sid a v).2.2 =
      if r.1 == stOK then r.2.2
      else if ty == 0x02 && o == 0x044 then
        setRegFld (refuse s 0x02 0 r.1 r.2.1) (pageKey 0x02 0 + 0x01C) 8 8 (pcode (unitSt s (fld v 0 2)))
      else refuse s ty inst r.1 r.2.1 := by
  have e4 : (o % 4 != 0) = false := by simp [h4]
  unfold accessWrite
  rw [ha]
  dsimp only
  rw [c1, c2, c3, c4, e4, hr]
  simp only [Bool.not_true, Bool.false_eq_true, if_false]
  by_cases h : (r.1 == stOK) = true
  · rw [if_pos h, if_pos h]
  · rw [if_neg h, if_neg h]
    by_cases g : (ty == 0x02 && o == 0x044) = true
    · rw [if_pos g, if_pos g]
    · rw [if_neg g, if_neg g]
      rfl

/-- A write of the module's own requesters outside reset is one access. -/
theorem writeAt_eq {s : State} {who : Requester} {ty inst o : Nat} (v : Nat) (h : Reaches s who ty inst o)
    (h1 : ty < 256) (h2 : inst < 256) (h3 : o < 4096) (h4 : o % 4 = 0)
    (r : WRes) (hr : regWrite s (classOf who) 0#16 ty inst o (toWord v) = r) :
    writeAt s who ty inst o v =
      if r.1 == stOK then r.2.2
      else if ty == 0x02 && o == 0x044 then
        setRegFld (refuse s 0x02 0 r.1 r.2.1) (pageKey 0x02 0 + 0x01C) 8 8 (pcode (unitSt s (fld (toWord v) 0 2)))
      else refuse s ty inst r.1 r.2.1 := by
  obtain ⟨c0, c1, c2, c3, c4⟩ := h
  rw [← accessWrite_eq (toWord v) (regTarget_regAddr ty inst o h1 h2 h3) c1 c2 c3 c4 h4 r hr]
  unfold writeAt writeBy
  rw [c0, if_neg Bool.false_ne_true]

/-- A write that the block's page takes. -/
theorem writeAt_ok {s t : State} {who : Requester} {ty inst o d : Nat} (v : Nat) (h : Reaches s who ty inst o)
    (h1 : ty < 256) (h2 : inst < 256) (h3 : o < 4096) (h4 : o % 4 = 0)
    (hw : regWrite s (classOf who) 0#16 ty inst o (toWord v) = (stOK, d, t)) : writeAt s who ty inst o v = t := by
  rw [writeAt_eq v h h1 h2 h3 h4 _ hw, if_pos (show (stOK == stOK) = true from rfl)]

/-- A write that the block's page refuses; `PWR.FLW_CMD` has its own record. -/
theorem writeAt_refused {s t : State} {who : Requester} {ty inst o d st : Nat} (v : Nat) (h : Reaches s who ty inst o)
    (h1 : ty < 256) (h2 : inst < 256) (h3 : o < 4096) (h4 : o % 4 = 0)
    (hw : regWrite s (classOf who) 0#16 ty inst o (toWord v) = (st, d, t)) (hst : st ≠ stOK)
    (hp : ty ≠ 0x02 ∨ o ≠ 0x044) : writeAt s who ty inst o v = refuse s ty inst st d := by
  rw [writeAt_eq v h h1 h2 h3 h4 _ hw]
  have : (st == stOK) = false := by simpa using hst
  have g : (ty == 0x02 && o == 0x044) = false := by
    rcases hp with x | x
    · simp only [Bool.and_eq_false_iff, beq_eq_false_iff_ne, ne_eq]; exact Or.inl x
    · simp only [Bool.and_eq_false_iff, beq_eq_false_iff_ne, ne_eq]; exact Or.inr x
  simp [this, g]

/-- One read that no check stops is the register's value and its latch. -/
theorem accessRead_eq {s : State} {cls a ty inst o : Nat} (ha : regTarget a = some (ty, inst, o))
    (c1 : pageExists ty inst = true) (c2 : mayAccess s cls ty o false = true) (h4 : o % 4 = 0)
    (w : Word) (t : State) (hr : readRun s ty inst o = (w, t)) : accessRead s cls a = (stOK, 0#32, w, t) := by
  have e4 : (o % 4 != 0) = false := by simp [h4]
  unfold accessRead
  rw [ha]
  dsimp only
  rw [c1, c2, e4, hr]
  simp only [Bool.not_true, Bool.false_eq_true, if_false]

/-- A read of the module's own requesters outside reset latches at most a high half. -/
theorem readBy_eq {s : State} {who : Requester} {ty inst o : Nat} (h : s.pwr.inReset = false)
    (h1 : ty < 256) (h2 : inst < 256) (h3 : o < 4096) (h4 : o % 4 = 0) (c1 : pageExists ty inst = true)
    (c2 : mayAccess s (classOf who) ty o false = true) :
    readBy s who (regAddr ty inst o) = (readRun s ty inst o).2 := by
  have e := accessRead_eq (regTarget_regAddr ty inst o h1 h2 h3) c1 c2 h4 _ _ (Prod.eta (readRun s ty inst o)).symm
  unfold readBy
  rw [h, if_neg Bool.false_ne_true, e]

/-- A page's state code fits in a byte. -/
theorem pageStat_lt (s : State) (ty inst : Nat) : pageStat s ty inst < 256 := by
  have hp : ∀ p, pcode p < 256 := by intro p; cases p <;> decide
  have hh : hstState s < 256 := by
    have : fld (getReg s Reg.HST_PORT_STAT) 0 2 < 2 ^ 2 := Nat.mod_lt _ (by decide)
    unfold hstState; omega
  have hr : rcode s.rdn.st < 256 := by cases s.rdn.st <;> decide
  have he : ∀ t, engineState s t inst < 256 := by
    intro t; unfold engineState; dsimp only; repeat' split
    all_goals decide
  unfold pageStat
  split
  · unfold blockState
    split
    all_goals first
      | exact hh | exact hr | exact he _ | decide
      | (simp only [sysState, pwrState, clkState, bootState, protState, evrState, crcState, dmcState, linkState, fppState,
          lpeState, pliState, acdState, fslState, afeState, calState, fixState, bltState]; repeat' split
         all_goals decide)
  · exact hp _

/-- What a refusal leaves (R66). -/
theorem refuse_refused (s : State) (ty inst st d : Nat) (hd : d < 256) (hst : st < 65536) :
    RefusedWith s (refuse s ty inst st d) ty inst st := by
  have hp := pageStat_lt s ty inst
  refine ⟨rfl, ?_, ?_, fun k h1 h2 => ?_⟩
  · unfold refuse
    rw [getReg_bumpReg, if_neg (by omega), getReg_setRegN, if_pos rfl]
    simp only [fld, toWord, BitVec.toNat_ofNat, Nat.shiftRight_eq_div_pow]
    omega
  · unfold refuse
    rw [getReg_bumpReg, if_pos rfl, getReg_setRegN, if_neg (by omega)]
  · unfold refuse
    rw [getReg_bumpReg, if_neg (Ne.symm h2), getReg_setRegN, if_neg (Ne.symm h1)]

/-- A write to a block's own register that no check of the header stops is what its page does. -/
theorem regWrite_page {s : State} {cls ty inst o : Nat} {sid : BitVec 16} {v : Word} (h0 : 0x040 ≤ o)
    (h1 : (regInfo ty o).isSome = true) (h2 : valueOk ty o v = true) (h3 : isCommand ty o v = true → enOf s ty inst = true) :
    regWrite s cls sid ty inst o v = settleWrite ty (service s) (writePage s cls sid ty inst o v) := by
  unfold regWrite
  rw [if_neg (by omega), if_neg (by cases e : regInfo ty o <;> simp_all), if_neg (by simp [h2]), if_neg]
  intro e
  simp only [Bool.and_eq_true, Bool.not_eq_true'] at e
  rw [h3 e.1] at e
  exact absurd e.2 (by simp)

theorem settleWrite_plain {ty b : Nat} (r : WRes) (h : ty ≠ 0x05) (h' : ty ≠ 0x0A) : settleWrite ty b r = r := by
  unfold settleWrite statusPage
  simp [h, h']

end Sys2Proof.Machine
end

