-- ==== Sys2Proof/Laws/Events.lean ====
section
/-!
SUPPORT. What a report of an event may change: one lemma `<operation>_reports` for each operation of
the rate limiter, the FIFO, the interrupt bits and their NOTIFY frames.
-/

namespace Sys2Proof.Machine

theorem Reports.refl (ks : List Nat) (s : State) : Reports ks s s := ⟨rfl, rfl, rfl, fun _ _ _ => rfl⟩

theorem Reports.trans {ks : List Nat} {s t u : State} (a : Reports ks s t) (b : Reports ks t u) : Reports ks s u := by
  refine ⟨?_, ?_, ?_, fun k h1 h2 => (b.regs k h1 h2).trans (a.regs k h1 h2)⟩
  · rw [b.rest, a.rest]
  · rw [b.evr, a.evr]
  · rw [b.hst, a.hst]

theorem Reports.mono {ks ls : List Nat} {s t : State} (h : ∀ k ∈ ks, k ∈ ls) (a : Reports ks s t) : Reports ls s t :=
  ⟨a.rest, a.evr, a.hst, fun k h1 h2 => a.regs k (fun hk => h1 (h k hk)) h2⟩

/-- A write of one of the registers named. -/
theorem Reports.setReg {ks : List Nat} {s t : State} (k : Nat) (w : Word) (hk : k ∈ ks ∨ k ∈ reportKeys)
    (a : Reports ks s t) : Reports ks s (setReg t k w) := by
  refine a.trans ⟨rfl, rfl, rfl, fun j h1 h2 => getReg_setReg_ne _ _ ?_⟩
  rintro rfl
  exact hk.elim h1 h2

theorem Reports.orReg {ks : List Nat} {s t : State} (k : Nat) (w : Word) (hk : k ∈ ks ∨ k ∈ reportKeys)
    (a : Reports ks s t) : Reports ks s (orReg t k w) := a.setReg k _ hk

theorem Reports.bumpReg {ks : List Nat} {s t : State} (k n : Nat) (hk : k ∈ ks ∨ k ∈ reportKeys)
    (a : Reports ks s t) : Reports ks s (bumpReg t k n) := a.setReg k _ hk

theorem Reports.setSess {ks : List Nat} {s t : State} (i : Nat) (x : Session) (a : Reports ks s t) :
    Reports ks s (setSess t i x) := a.trans ⟨rfl, rfl, rfl, fun _ _ _ => rfl⟩

theorem Reports.setBucket {ks : List Nat} {s t : State} (i : Nat) (x : Bucket) (a : Reports ks s t) :
    Reports ks s (setBucket t i x) := a.trans ⟨rfl, rfl, rfl, fun _ _ _ => rfl⟩

theorem Reports.sendNotify {ks : List Nat} {s t : State} (x : Session) (n : Notify) (a : Reports ks s t) :
    Reports ks s (sendNotify t x n) := a.trans ⟨rfl, rfl, rfl, fun _ _ _ => rfl⟩

theorem notifySlot_reports {ks : List Nat} {s : State} (ty inst : Nat) (pend : Word) {p : State × Bool} (i : Nat)
    (a : Reports ks s p.1) : Reports ks s (notifySlot ty inst pend p i).1 := by
  unfold notifySlot
  dsimp only
  split
  · split
    · exact a.setSess _ _
    · exact (a.setSess _ _).sendNotify _ _
  · exact a

theorem foldl_fst_inv {α β γ : Type} {P : α → Prop} {f : α × β → γ → α × β} (l : List γ) (p : α × β)
    (hf : ∀ p x, P p.1 → P (f p x).1) (h : P p.1) : P (l.foldl f p).1 := by
  induction l generalizing p with
  | nil => exact h
  | cons x l ih => exact ih _ (hf p x h)

theorem notifyPage_reports {ks : List Nat} {s t : State} (ty inst : Nat) (a : Reports ks s t) :
    Reports ks s (notifyPage t ty inst).1 := by
  unfold notifyPage
  dsimp only
  split
  · exact a.trans ⟨rfl, rfl, rfl, fun _ _ _ => rfl⟩
  · split
    · exact a
    · exact foldl_fst_inv (P := Reports ks s) _ _ (fun p x h => notifySlot_reports _ _ _ _ h)
        (a.trans ⟨rfl, rfl, rfl, fun _ _ _ => rfl⟩)

theorem settleQuiet_reports {ks : List Nat} {s t : State} (ty inst : Nat) (a : Reports ks s t) :
    Reports ks s (settleQuiet t ty inst) := by
  have h := notifyPage_reports ty inst a
  unfold settleQuiet
  split
  · rename_i e; rw [e] at h; exact h
  · rename_i e; rw [e] at h
    exact notifyPage_reports _ _ (h.orReg _ _ (Or.inr (by simp [reportKeys])))

theorem Reports.modEvr {ks : List Nat} {s t u : State} (a : Reports ks s t)
    (h : u = { t with evr := { t.evr with buckets := u.evr.buckets, fifo := u.evr.fifo, losses := u.evr.losses, lossFirst := u.evr.lossFirst, lossLast := u.evr.lossLast } }) :
    Reports ks s u := by
  have h1 : u.evr = { t.evr with buckets := u.evr.buckets, fifo := u.evr.fifo, losses := u.evr.losses, lossFirst := u.evr.lossFirst, lossLast := u.evr.lossLast } := congrArg State.evr h
  have h2 : u.regs = t.regs := by rw [h]
  have h3 : u.hst = t.hst := by rw [h]
  refine a.trans ⟨?_, h1, ?_, fun k _ _ => getReg_congr h2 k⟩
  · rw [h]
  · rw [h3]

theorem loseRec_reports {ks : List Nat} {s t : State} (r : Rec) (a : Reports ks s t) : Reports ks s (loseRec t r) := by
  unfold loseRec
  exact ((a.modEvr rfl).bumpReg _ _ (Or.inr (by simp [reportKeys]))).orReg _ _ (Or.inr (by simp [reportKeys]))

theorem fifoPush_reports {ks : List Nat} {s t : State} (r : Rec) (a : Reports ks s t) : Reports ks s (fifoPush t r) := by
  unfold fifoPush
  split
  · exact a.modEvr rfl
  · split
    · exact loseRec_reports _ a
    · split
      · exact loseRec_reports _ (a.modEvr rfl)
      · exact loseRec_reports _ a

theorem evrAdmit_reports {ks : List Nat} {s t : State} (r : Rec) (a : Reports ks s t) : Reports ks s (evrAdmit t r) := by
  unfold evrAdmit
  dsimp only
  split
  · exact fifoPush_reports _ a
  · split
    · exact fifoPush_reports _ (a.setBucket _ _)
    · exact (a.setBucket _ _).bumpReg _ _ (Or.inr (by simp [reportKeys]))

theorem evrSettle_reports {ks : List Nat} {s t : State} (a : Reports ks s t) : Reports ks s (evrSettle t) := by
  unfold evrSettle
  split
  · exact settleQuiet_reports _ _ a
  · exact a

theorem eventSev_reports {ks : List Nat} {s t : State} (dflt code page inst status : Nat) (args : List Nat)
    (a : Reports ks s t) : Reports ks s (eventSev t dflt code page inst status args) := by
  unfold eventSev
  exact evrSettle_reports (evrAdmit_reports _ a)

theorem event_reports {ks : List Nat} {s t : State} (code page inst status : Nat) (args : List Nat)
    (a : Reports ks s t) : Reports ks s (event t code page inst status args) := eventSev_reports _ _ _ _ _ _ a

theorem irqSettle_reports {ks : List Nat} {s t : State} (ty inst : Nat) (a : Reports ks s t) :
    Reports ks s (irqSettle t ty inst) := by
  have h := notifyPage_reports ty inst a
  unfold irqSettle
  split
  · rename_i e; rw [e] at h; exact h
  · rename_i e; rw [e] at h
    exact notifyPage_reports _ _ (event_reports _ _ _ _ _ (h.orReg _ _ (Or.inr (by simp [reportKeys]))))

/-- An interrupt bit writes its page's `IRQ_STAT` and what reports write. -/
theorem raiseIrqArgs_reports {ks : List Nat} {s t : State} (ty inst bit status : Nat) (args : List Nat)
    (hk : pageKey ty inst + 0x010 ∈ ks) (a : Reports ks s t) :
    Reports ks s (raiseIrqArgs t ty inst bit status args) := by
  unfold raiseIrqArgs
  refine irqSettle_reports _ _ ?_
  split
  · exact a.orReg _ _ (Or.inl hk)
  · exact event_reports _ _ _ _ _ (a.orReg _ _ (Or.inl hk))

theorem raiseIrq_reports {ks : List Nat} {s t : State} (ty inst bit : Nat) (hk : pageKey ty inst + 0x010 ∈ ks)
    (a : Reports ks s t) : Reports ks s (raiseIrq t ty inst bit) := raiseIrqArgs_reports _ _ _ _ _ hk a

/-- A page's `IRQ_STAT` after one of its bits was set, when reports do not write that register. -/
theorem raiseIrqArgs_stat (s : State) (ty inst bit status : Nat) (args : List Nat)
    (hk : pageKey ty inst + 0x010 ∉ reportKeys) :
    getReg (raiseIrqArgs s ty inst bit status args) (pageKey ty inst + 0x010) =
      getReg s (pageKey ty inst + 0x010) ||| toWord (2 ^ bit) := by
  unfold raiseIrqArgs
  have e : getReg (orReg s (pageKey ty inst + 0x010) (toWord (2 ^ bit))) (pageKey ty inst + 0x010) =
      getReg s (pageKey ty inst + 0x010) ||| toWord (2 ^ bit) := by rw [getReg_orReg, if_pos rfl]
  rw [(irqSettle_reports (ks := []) _ _ (Reports.refl _ _)).regs _ (by simp) hk]
  split
  · exact e
  · rw [(event_reports (ks := []) _ _ _ _ _ (Reports.refl _ _)).regs _ (by simp) hk]
    exact e

end Sys2Proof.Machine
end

