-- ==== Sys2Proof/Laws/Keep.lean ====
section
/-!
SUPPORT. What every operation of the block keeps: the queue of waiting commands, blown fuses, and the
canonical forms of the memories and of the register file, and units that FAILED. `Keep r s` says so of a
state `s` that the block reaches from `r`; each operation of the machine has one lemma `<operation>_keep`.
-/

namespace Sys2Proof.Machine

set_option linter.all false

/-- From `r` to `s` the queue stayed, fuses were only blown, and canonical forms stayed canonical. -/
structure Kept (r s : State) : Prop where
  pending : s.pending = r.pending
  floor : r.otp.floor ≤ s.otp.floor
  owner1 : ∀ x, r.otp.owner1 = some x → s.otp.owner1 = some x
  revoked : r.otp.owner0Revoked = true → s.otp.owner0Revoked = true
  mem : Memory.wf r.mem = true → Memory.wf s.mem = true
  regs : tblWf regDefault r.regs = true → tblWf regDefault s.regs = true

/-- From `p` to `q` no die left FAILED, the module stayed out of reset, and a lost SDSREF156 stayed lost. -/
structure PwrKept (p q : Pwr) : Prop where
  failed : ∀ u, tget (fun _ => PState.off) p.units u = .failed → tget (fun _ => PState.off) q.units u = .failed
  inReset : p.inReset = false → q.inReset = false
  ref156 : p.ref156 = false → q.ref156 = false

theorem PwrKept.refl (p : Pwr) : PwrKept p p := ⟨fun _ h => h, id, id⟩

theorem PwrKept.trans {p q r : Pwr} (h : PwrKept p q) (g : PwrKept q r) : PwrKept p r :=
  ⟨fun u x => g.failed u (h.failed u x), fun x => g.inReset (h.inReset x), fun x => g.ref156 (h.ref156 x)⟩

/-- The same with the power domain: all that a command keeps which is no module reset. -/
structure Keep (r s : State) : Prop extends Kept r s where
  pwr : PwrKept r.pwr s.pwr

theorem Keep.failed {r s : State} (h : Keep r s) (u : Nat) (hu : unitSt r u = .failed) : unitSt s u = .failed :=
  h.pwr.failed u hu

theorem Keep.refl (s : State) : Keep s s := ⟨⟨rfl, Nat.le_refl _, fun _ h => h, id, id, id⟩, PwrKept.refl _⟩

theorem Kept.trans {r s t : State} (h : Kept r s) (g : Kept s t) : Kept r t :=
  ⟨g.pending.trans h.pending, Nat.le_trans h.floor g.floor, fun x hx => g.owner1 x (h.owner1 x hx),
    fun x => g.revoked (h.revoked x), fun x => g.mem (h.mem x), fun x => g.regs (h.regs x)⟩

theorem Keep.trans {r s t : State} (h : Keep r s) (g : Keep s t) : Keep r t :=
  ⟨h.toKept.trans g.toKept, h.pwr.trans g.pwr⟩

/-- An update of other fields keeps all. -/
theorem Keep.upd {r s : State} {v1 v2 v3 v6 v7 v9 v10 v11 v13 v14 v15 v16 v17 v18 v19 v20 v21} (h : Keep r s) :
    Keep r (State.mk s.pending v1 v2 v3 s.regs s.pwr v6 v7 s.otp v9 v10 v11 s.mem v13 v14 v15 v16 v17 v18 v19 v20 v21) :=
  ⟨⟨h.pending, h.floor, h.owner1, h.revoked, h.mem, h.regs⟩, h.pwr⟩

theorem Keep.upd_iff {r s : State} {v1 v2 v3 v6 v7 v9 v10 v11 v13 v14 v15 v16 v17 v18 v19 v20 v21} :
    Keep r (State.mk s.pending v1 v2 v3 s.regs s.pwr v6 v7 s.otp v9 v10 v11 s.mem v13 v14 v15 v16 v17 v18 v19 v20 v21) ↔ Keep r s :=
  ⟨fun h => ⟨⟨h.pending, h.floor, h.owner1, h.revoked, h.mem, h.regs⟩, h.pwr⟩, Keep.upd⟩

/-- So does an update of the memories that leaves the six byte and mark tables. -/
theorem Keep.updMem {r s : State} {v1 v2 v3 v6 v7 v9 v10 v11 v13 v14 v15 v16 v17 v18 v19 v20 v21} {w5 w7 w8 w9 w10 w11 w12 w13 w14 w15 w16 w17 w18} (h : Keep r s) :
    Keep r (State.mk s.pending v1 v2 v3 s.regs s.pwr v6 v7 s.otp v9 v10 v11 (Mem.mk s.mem.cells s.mem.poison s.mem.unfresh s.mem.scratch s.mem.spare w5 s.mem.flash w7 w8 w9 w10 w11 w12 w13 w14 w15 w16 w17 w18) v13 v14 v15 v16 v17 v18 v19 v20 v21) :=
  ⟨⟨h.pending, h.floor, h.owner1, h.revoked, h.mem, h.regs⟩, h.pwr⟩

theorem Keep.updMem_iff {r s : State} {v1 v2 v3 v6 v7 v9 v10 v11 v13 v14 v15 v16 v17 v18 v19 v20 v21} {w5 w7 w8 w9 w10 w11 w12 w13 w14 w15 w16 w17 w18} :
    Keep r (State.mk s.pending v1 v2 v3 s.regs s.pwr v6 v7 s.otp v9 v10 v11 (Mem.mk s.mem.cells s.mem.poison s.mem.unfresh s.mem.scratch s.mem.spare w5 s.mem.flash w7 w8 w9 w10 w11 w12 w13 w14 w15 w16 w17 w18) v13 v14 v15 v16 v17 v18 v19 v20 v21) ↔ Keep r s :=
  ⟨fun h => ⟨⟨h.pending, h.floor, h.owner1, h.revoked, h.mem, h.regs⟩, h.pwr⟩, Keep.updMem⟩

/-- So does an update of the power domain that leaves the dies' power states, reset and SDSREF156. -/
theorem Keep.updPwr {r s : State} {v1 v2 v3 v6 v7 v9 v10 v11 v13 v14 v15 v16 v17 v18 v19 v20 v21} {w1 w2 w3 w4 w5 w7 w8 w9 w10 w11 w12 w13 w14 w15 w16 w18 w19 w20 w21} (h : Keep r s) :
    Keep r (State.mk s.pending v1 v2 v3 s.regs (Pwr.mk s.pwr.inReset w1 w2 w3 w4 w5 s.pwr.units w7 w8 w9 w10 w11 w12 w13 w14 w15 w16 s.pwr.ref156 w18 w19 w20 w21) v6 v7 s.otp v9 v10 v11 s.mem v13 v14 v15 v16 v17 v18 v19 v20 v21) :=
  ⟨⟨h.pending, h.floor, h.owner1, h.revoked, h.mem, h.regs⟩, ⟨h.pwr.failed, h.pwr.inReset, h.pwr.ref156⟩⟩

theorem Keep.updPwr_iff {r s : State} {v1 v2 v3 v6 v7 v9 v10 v11 v13 v14 v15 v16 v17 v18 v19 v20 v21} {w1 w2 w3 w4 w5 w7 w8 w9 w10 w11 w12 w13 w14 w15 w16 w18 w19 w20 w21} :
    Keep r (State.mk s.pending v1 v2 v3 s.regs (Pwr.mk s.pwr.inReset w1 w2 w3 w4 w5 s.pwr.units w7 w8 w9 w10 w11 w12 w13 w14 w15 w16 s.pwr.ref156 w18 w19 w20 w21) v6 v7 s.otp v9 v10 v11 s.mem v13 v14 v15 v16 v17 v18 v19 v20 v21) ↔ Keep r s :=
  ⟨fun h => ⟨⟨h.pending, h.floor, h.owner1, h.revoked, h.mem, h.regs⟩, ⟨h.pwr.failed, h.pwr.inReset, h.pwr.ref156⟩⟩, Keep.updPwr⟩

/-- An update of the memories to canonical ones keeps all. -/
theorem Keep.ofMem {r s t : State} (h : Keep r s) (h1 : t.pending = s.pending) (h2 : t.otp = s.otp)
    (h4 : t.regs = s.regs) (h5 : t.pwr = s.pwr) (hm : Memory.wf s.mem = true → Memory.wf t.mem = true) : Keep r t :=
  ⟨⟨h1 ▸ h.pending, h2 ▸ h.floor, h2 ▸ h.owner1, h2 ▸ h.revoked, fun x => hm (h.mem x), h4 ▸ h.regs⟩,
    h5 ▸ h.pwr⟩

theorem Keep.snd {α : Type} {r : State} {p : α × State} {a : α} {t : State} (e : p = (a, t)) (h : Keep r p.2) :
    Keep r t := by subst e; exact h

theorem Keep.fst {α : Type} {r : State} {p : State × α} {a : α} {t : State} (e : p = (t, a)) (h : Keep r p.1) :
    Keep r t := by subst e; exact h

theorem Keep.snd3 {α β : Type} {r : State} {p : α × β × State} {a : α} {b : β} {t : State} (e : p = (a, b, t))
    (h : Keep r p.2.2) : Keep r t := by subst e; exact h

theorem Keep.snd4 {α β γ : Type} {r : State} {p : α × β × γ × State} {a : α} {b : β} {c : γ} {t : State}
    (e : p = (a, b, c, t)) (h : Keep r p.2.2.2) : Keep r t := by subst e; exact h

theorem Keep.snd5 {α β γ δ : Type} {r : State} {p : α × β × γ × δ × State} {a : α} {b : β} {c : γ} {x : δ} {t : State}
    (e : p = (a, b, c, x, t)) (h : Keep r p.2.2.2.2) : Keep r t := by subst e; exact h

theorem Keep.foldl {α : Type} {r s : State} {f : State → α → State} {l : List α} (h : Keep r s)
    (hf : ∀ s x, Keep r s → Keep r (f s x)) : Keep r (l.foldl f s) := by
  induction l generalizing s with
  | nil => exact h
  | cons x l ih => exact ih (hf s x h)

theorem Keep.foldl_snd {α β : Type} {r : State} {p : β × State} {f : β × State → α → β × State} {l : List α}
    (h : Keep r p.2) (hf : ∀ p x, Keep r p.2 → Keep r (f p x).2) : Keep r (l.foldl f p).2 := by
  induction l generalizing p with
  | nil => exact h
  | cons x l ih => exact ih (hf p x h)

theorem Keep.foldl_fst {α β : Type} {r : State} {p : State × β} {f : State × β → α → State × β} {l : List α}
    (h : Keep r p.1) (hf : ∀ p x, Keep r p.1 → Keep r (f p x).1) : Keep r (l.foldl f p).1 := by
  induction l generalizing p with
  | nil => exact h
  | cons x l ih => exact ih (hf p x h)

theorem Keep.foldl_snd2 {α β γ : Type} {r : State} {p : β × γ × State} {f : β × γ × State → α → β × γ × State}
    {l : List α} (h : Keep r p.2.2) (hf : ∀ p x, Keep r p.2.2 → Keep r (f p x).2.2) :
    Keep r (l.foldl f p).2.2 := by
  induction l generalizing p with
  | nil => exact h
  | cons x l ih => exact ih (hf p x h)

theorem Keep.foldl_snd3 {α β γ δ : Type} {r : State} {p : β × γ × δ × State}
    {f : β × γ × δ × State → α → β × γ × δ × State} {l : List α} (h : Keep r p.2.2.2)
    (hf : ∀ p x, Keep r p.2.2.2 → Keep r (f p x).2.2.2) : Keep r (l.foldl f p).2.2.2 := by
  induction l generalizing p with
  | nil => exact h
  | cons x l ih => exact ih (hf p x h)

/-! ## The stores -/

theorem setReg_keep {r s : State} (k : Nat) (w : Word) (h : Keep r s) : Keep r (setReg s k w) :=
  ⟨⟨h.pending, h.floor, h.owner1, h.revoked, h.mem, fun x => tset_wf _ _ _ (h.regs x)⟩, h.pwr⟩

/-- A die's power state may change unless it is FAILED. -/
theorem setUnit_keep {r s : State} {u : Nat} {p : PState} (h : Keep r s) (hu : unitSt s u ≠ .failed ∨ p = .failed) :
    Keep r (setUnit s u p) := by
  refine ⟨⟨h.pending, h.floor, h.owner1, h.revoked, h.mem, h.regs⟩, ⟨fun v hv => ?_, h.pwr.inReset, h.pwr.ref156⟩⟩
  show tget _ (tset _ _ _ _) v = _
  rw [tget_tset]
  split
  · rename_i e
    subst e
    exact hu.elim (fun x => absurd (h.failed _ hv) x) id
  · exact h.pwr.failed v hv

theorem setPoison_keep {r s : State} (a : Nat) (b : Bool) (h : Keep r s) : Keep r (setPoison s a b) := by
  refine Keep.ofMem h rfl rfl rfl rfl fun x => ?_
  simp only [Memory.wf, setPoison, Bool.and_eq_true] at x ⊢
  exact ⟨⟨⟨⟨⟨x.1.1.1.1.1, tset_wf _ _ _ x.1.1.1.1.2⟩, x.1.1.1.2⟩, x.1.1.2⟩, x.1.2⟩, x.2⟩

theorem setFresh_keep {r s : State} (a : Nat) (b : Bool) (h : Keep r s) : Keep r (setFresh s a b) := by
  refine Keep.ofMem h rfl rfl rfl rfl fun x => ?_
  simp only [Memory.wf, setFresh, Bool.and_eq_true] at x ⊢
  exact ⟨⟨⟨⟨⟨x.1.1.1.1.1, x.1.1.1.1.2⟩, tset_wf _ _ _ x.1.1.1.2⟩, x.1.1.2⟩, x.1.2⟩, x.2⟩

theorem storeBytes_keep {r s : State} (a : Nat) (bs : List Byte) (h : Keep r s) : Keep r (storeBytes s a bs) := by
  refine Keep.ofMem h rfl rfl rfl rfl fun x => ?_
  simp only [Memory.wf, storeBytes, Bool.and_eq_true] at x ⊢
  exact ⟨⟨⟨⟨⟨twriteBytes_wf _ _ _ x.1.1.1.1.1, x.1.1.1.1.2⟩, x.1.1.1.2⟩, x.1.1.2⟩, x.1.2⟩, x.2⟩

end Sys2Proof.Machine
end

