-- ==== Sys2Proof/Laws/KeepBase.lean ====
section
/-!
SUPPORT. `Keep` for each operation of the block: the stores, events, power, memory, links, tokens and queues.
-/

namespace Sys2Proof.Machine

set_option linter.all false

/-! ## Ops -/

theorem setRegN_keep {r : State} {x0} (x1) (x2) (hx0 : Keep r x0) : Keep r (setRegN x0 x1 x2) := by
  unfold setRegN
  try dsimp only
  repeat' (first | with_reducible assumption | with_reducible apply setReg_keep | split)

theorem setRegFld_keep {r : State} {x0} (x1) (x2) (x3) (x4) (hx0 : Keep r x0) : Keep r (setRegFld x0 x1 x2 x3 x4) := by
  unfold setRegFld
  try dsimp only
  repeat' (first | with_reducible assumption | with_reducible apply setReg_keep | split)

theorem bumpReg_keep {r : State} {x0} (x1) (x2) (hx0 : Keep r x0) : Keep r (bumpReg x0 x1 x2) := by
  unfold bumpReg
  try dsimp only
  repeat' (first | with_reducible assumption | with_reducible apply setReg_keep | split)

theorem wrapReg_keep {r : State} {x0} (x1) (x2) (hx0 : Keep r x0) : Keep r (wrapReg x0 x1 x2) := by
  unfold wrapReg
  try dsimp only
  repeat' (first | with_reducible assumption | with_reducible apply setReg_keep | split)

theorem orReg_keep {r : State} {x0} (x1) (x2) (hx0 : Keep r x0) : Keep r (orReg x0 x1 x2) := by
  unfold orReg
  try dsimp only
  repeat' (first | with_reducible assumption | with_reducible apply setReg_keep | split)

theorem andNotReg_keep {r : State} {x0} (x1) (x2) (hx0 : Keep r x0) : Keep r (andNotReg x0 x1 x2) := by
  unfold andNotReg
  try dsimp only
  repeat' (first | with_reducible assumption | with_reducible apply setReg_keep | split)

theorem bump64_keep {r : State} {x0} (x1) (x2) (x3) (hx0 : Keep r x0) : Keep r (bump64 x0 x1 x2 x3) := by
  unfold bump64
  try dsimp only
  repeat' (first | with_reducible assumption | with_reducible apply setRegN_keep | split)

theorem modWake_keep {r : State} {x0} (x1) (x2) (hx0 : Keep r x0) : Keep r (modWake x0 x1 x2) := by
  unfold modWake
  try dsimp only
  repeat' (first
      | with_reducible assumption | simp only [↓Keep.upd_iff] | simp only [↓Keep.updPwr_iff] | intro _ | split)

theorem freeNat_keep {r : State} (x0) {x1} (hx1 : Keep r x1) : Keep r (freeNat x0 x1).2 := by
  unfold freeNat
  try dsimp only
  repeat' (first | with_reducible assumption | simp only [↓Keep.upd_iff] | split)

theorem send_keep {r : State} {x0} (x1) (hx0 : Keep r x0) : Keep r (send x0 x1) := by
  unfold send
  try dsimp only
  repeat' (first | with_reducible assumption | simp only [↓Keep.upd_iff] | split)

theorem setSess_keep {r : State} {x0} (x1) (x2) (hx0 : Keep r x0) : Keep r (setSess x0 x1 x2) := by
  unfold setSess
  try dsimp only
  repeat' (first | with_reducible assumption | simp only [↓Keep.upd_iff] | intro _ | split)

theorem sendNotify_keep {r : State} {x0} (x1) (x2) (hx0 : Keep r x0) : Keep r (sendNotify x0 x1 x2) := by
  unfold sendNotify
  try dsimp only
  repeat' (first
      | with_reducible assumption | with_reducible apply send_keep | simp only [↓Keep.upd_iff]
      | simp only [↓Keep.updMem_iff] | simp only [↓Keep.updPwr_iff] | refine Keep.snd (by assumption) ?_
      | refine Keep.snd3 (by assumption) ?_ | refine Keep.fst (by assumption) ?_ | with_reducible apply Keep.foldl
      | with_reducible apply Keep.foldl_snd | with_reducible apply Keep.foldl_fst
      | with_reducible apply Keep.foldl_snd2 | intro _ | split)

theorem notifySlot_keep {r : State} (x0) (x1) (x2) {x3} (x4) (hx3 : Keep r x3.1) : Keep r (notifySlot x0 x1 x2 x3 x4).1 := by
  unfold notifySlot
  try dsimp only
  repeat' (first
      | with_reducible assumption | with_reducible apply setSess_keep | with_reducible apply sendNotify_keep
      | refine Keep.snd (by assumption) ?_ | refine Keep.snd3 (by assumption) ?_
      | refine Keep.fst (by assumption) ?_ | split)

theorem notifyPage_keep {r : State} {x0} (x1) (x2) (hx0 : Keep r x0) : Keep r (notifyPage x0 x1 x2).1 := by
  unfold notifyPage
  try dsimp only
  repeat' (first
      | with_reducible assumption | with_reducible apply notifySlot_keep | simp only [↓Keep.upd_iff]
      | with_reducible apply Keep.foldl | with_reducible apply Keep.foldl_snd | with_reducible apply Keep.foldl_fst
      | with_reducible apply Keep.foldl_snd2 | intro _ | split)

theorem settleQuiet_keep {r : State} {x0} (x1) (x2) (hx0 : Keep r x0) : Keep r (settleQuiet x0 x1 x2) := by
  unfold settleQuiet
  try dsimp only
  repeat' (first
      | with_reducible assumption | with_reducible apply notifyPage_keep | with_reducible apply orReg_keep
      | refine Keep.snd (by assumption) ?_ | refine Keep.snd3 (by assumption) ?_
      | refine Keep.fst (by assumption) ?_ | split)

theorem loseRec_keep {r : State} {x0} (x1) (hx0 : Keep r x0) : Keep r (loseRec x0 x1) := by
  unfold loseRec
  try dsimp only
  repeat' (first
      | with_reducible assumption | with_reducible apply orReg_keep | with_reducible apply bumpReg_keep
      | simp only [↓Keep.upd_iff] | simp only [↓Keep.updPwr_iff] | intro _ | split)

theorem fifoPush_keep {r : State} {x0} (x1) (hx0 : Keep r x0) : Keep r (fifoPush x0 x1) := by
  unfold fifoPush
  try dsimp only
  repeat' (first
      | with_reducible assumption | with_reducible apply loseRec_keep | simp only [↓Keep.upd_iff]
      | refine Keep.snd (by assumption) ?_ | refine Keep.snd3 (by assumption) ?_
      | refine Keep.fst (by assumption) ?_ | split)

theorem setBucket_keep {r : State} {x0} (x1) (x2) (hx0 : Keep r x0) : Keep r (setBucket x0 x1 x2) := by
  unfold setBucket
  try dsimp only
  repeat' (first | with_reducible assumption | simp only [↓Keep.upd_iff] | intro _ | split)

theorem evrAdmit_keep {r : State} {x0} (x1) (hx0 : Keep r x0) : Keep r (evrAdmit x0 x1) := by
  unfold evrAdmit
  try dsimp only
  repeat' (first
      | with_reducible assumption | with_reducible apply fifoPush_keep | with_reducible apply setBucket_keep
      | with_reducible apply bumpReg_keep | split)

theorem evrSettle_keep {r : State} {x0} (hx0 : Keep r x0) : Keep r (evrSettle x0) := by
  unfold evrSettle
  split
  · exact settleQuiet_keep _ _ hx0
  · exact hx0

theorem eventSev_keep {r : State} {x0} (x1) (x2) (x3) (x4) (x5) (x6) (hx0 : Keep r x0) : Keep r (eventSev x0 x1 x2 x3 x4 x5 x6) := by
  unfold eventSev
  try dsimp only
  repeat' (first
      | with_reducible assumption | with_reducible apply evrAdmit_keep | with_reducible apply evrSettle_keep
      | simp only [↓Keep.upd_iff] | simp only [↓Keep.updPwr_iff] | split)

theorem event_keep {r : State} {x0} (x1) (x2) (x3) (x4) (x5) (hx0 : Keep r x0) : Keep r (event x0 x1 x2 x3 x4 x5) := by
  unfold event
  try dsimp only
  repeat' (first | with_reducible assumption | with_reducible apply eventSev_keep | split)

theorem irqSettle_keep {r : State} {x0} (x1) (x2) (hx0 : Keep r x0) : Keep r (irqSettle x0 x1 x2) := by
  unfold irqSettle
  try dsimp only
  repeat' (first
      | with_reducible assumption | with_reducible apply notifyPage_keep | with_reducible apply event_keep
      | with_reducible apply orReg_keep | refine Keep.snd (by assumption) ?_ | refine Keep.snd3 (by assumption) ?_
      | refine Keep.fst (by assumption) ?_ | split)

theorem raiseIrqArgs_keep {r : State} {x0} (x1) (x2) (x3) (x4) (x5) (hx0 : Keep r x0) : Keep r (raiseIrqArgs x0 x1 x2 x3 x4 x5) := by
  unfold raiseIrqArgs
  try dsimp only
  repeat' (first
      | with_reducible assumption | with_reducible apply orReg_keep | with_reducible apply event_keep
      | with_reducible apply irqSettle_keep | split)

theorem raiseIrq_keep {r : State} {x0} (x1) (x2) (x3) (hx0 : Keep r x0) : Keep r (raiseIrq x0 x1 x2 x3) := by
  unfold raiseIrq
  try dsimp only
  repeat' (first | with_reducible assumption | with_reducible apply raiseIrqArgs_keep | split)

theorem raiseQuiet_keep {r : State} {x0} (x1) (x2) (x3) (hx0 : Keep r x0) : Keep r (raiseQuiet x0 x1 x2 x3) := by
  unfold raiseQuiet
  try dsimp only
  repeat' (first
      | with_reducible assumption | with_reducible apply irqSettle_keep | with_reducible apply orReg_keep | split)

theorem forEach_keep {r : State} (x0) {x1} (x2) (hx1 : Keep r x1) (hx2 : ∀ y0 y1, Keep r y0 → Keep r (x2 y0 y1)) : Keep r (forEach x0 x1 x2) := by
  unfold forEach
  try dsimp only
  repeat' (first
      | with_reducible assumption | with_reducible apply hx2 | with_reducible apply Keep.foldl
      | with_reducible apply Keep.foldl_snd | with_reducible apply Keep.foldl_fst
      | with_reducible apply Keep.foldl_snd2 | intro _ | split)

/-! ## Power -/

theorem setQueue_keep {r : State} {x0} (x1) (x2) (hx0 : Keep r x0) : Keep r (setQueue x0 x1 x2) := by
  unfold setQueue
  try dsimp only
  repeat' (first | with_reducible assumption | simp only [↓Keep.upd_iff] | intro _ | split)

theorem queuePhase_keep {r : State} {x0} (x1) (x2) (hx0 : Keep r x0) : Keep r (queuePhase x0 x1 x2) := by
  unfold queuePhase
  try dsimp only
  repeat' (first | with_reducible assumption | simp only [↓Keep.upd_iff] | simp only [↓Keep.updPwr_iff] | split)

theorem startWake_keep {r s : State} {u : Nat} (h : Keep r s) (hu : unitSt s u ≠ .failed) : Keep r (startWake s u) :=
  queuePhase_keep _ _ (setUnit_keep h (Or.inl hu))

theorem startUngate_keep {r s : State} {u : Nat} (h : Keep r s) (hu : unitSt s u ≠ .failed) :
    Keep r (startUngate s u) := queuePhase_keep _ _ (setUnit_keep h (Or.inl hu))

theorem wakeDie_keep {r s : State} (d) (h : Keep r s) : Keep r (wakeDie s d) := by
  unfold wakeDie
  split
  · rename_i e; exact startWake_keep (modWake_keep _ _ h) (show unitSt s d ≠ _ by rw [e]; decide)
  · rename_i e; exact startUngate_keep (modWake_keep _ _ h) (show unitSt s d ≠ _ by rw [e]; decide)
  · split <;> exact modWake_keep _ _ h
  · exact modWake_keep _ _ h
  · exact h

theorem enterIdle_keep {r s : State} {u : Nat} (h : Keep r s) (hu : unitSt s u ≠ .failed) : Keep r (enterIdle s u) :=
  modWake_keep _ _ (setUnit_keep h (Or.inl hu))

theorem startOff_keep {r s : State} {u : Nat} (h : Keep r s) (hu : unitSt s u ≠ .failed) : Keep r (startOff s u) :=
  queuePhase_keep _ _ (modWake_keep _ _ (setUnit_keep h (Or.inl hu)))

theorem offAfterRestart_keep {r : State} {x0} (x1) (hx0 : Keep r x0) : Keep r (offAfterRestart x0 x1) := by
  unfold offAfterRestart
  try dsimp only
  repeat' (first | with_reducible assumption | with_reducible apply modWake_keep | intro _ | split)

theorem clearStaging_keep {r : State} {x0} (x1) (hx0 : Keep r x0) : Keep r (clearStaging x0 x1) := by
  refine Keep.ofMem hx0 rfl rfl rfl rfl fun x => ?_
  simp only [Memory.wf, clearStaging, Bool.and_eq_true] at x ⊢
  exact ⟨⟨⟨⟨⟨tclear_wf _ _ _ x.1.1.1.1.1, tclear_wf _ _ _ x.1.1.1.1.2⟩, tclear_wf _ _ _ x.1.1.1.2⟩, x.1.1.2⟩, x.1.2⟩, x.2⟩

theorem ne_failed_of_beq {p q : PState} (h : (p == q) = true) (hq : q ≠ .failed) : p ≠ .failed := by
  have := eq_of_beq h; subst this; exact hq

theorem stackOn_keep {r s : State} (k) (h : Keep r s) :
    Keep r (if unitSt s (dieSTK + k) == .retain then setUnit s (dieSTK + k) .on else s) := by
  split
  · rename_i e; exact setUnit_keep h (Or.inl (ne_failed_of_beq e (by decide)))
  · exact h

theorem stacksOn_keep {r s : State} (d) (h : Keep r s) : Keep r (stacksOn s d) :=
  stackOn_keep _ (stackOn_keep _ h)

theorem unitSt_stacksOn_failed (s : State) (d u : Nat) (h : unitSt (stacksOn s d) u = .failed) : unitSt s u = .failed := by
  have key : ∀ (s : State) k, unitSt (if unitSt s (dieSTK + k) == .retain then setUnit s (dieSTK + k) .on else s) u = .failed →
      unitSt s u = .failed := by
    intro s k h
    split at h
    · have e : unitSt (setUnit s (dieSTK + k) .on) u = if dieSTK + k = u then .on else unitSt s u := tget_tset ..
      rw [e] at h
      split at h
      · cases h
      · exact h
    · exact h
  exact key _ _ (key _ _ h)

theorem stackRetain_keep {r s : State} (k) (h : Keep r s) :
    Keep r (if unitSt s (dieSTK + k) == .on then setUnit s (dieSTK + k) .retain else s) := by
  split
  · rename_i e; exact setUnit_keep h (Or.inl (ne_failed_of_beq e (by decide)))
  · exact h

theorem stacksRetain_keep {r s : State} (d) (h : Keep r s) : Keep r (stacksRetain s d) :=
  stackRetain_keep _ (stackRetain_keep _ h)

theorem reachOn_keep {r s : State} {d : Nat} (h : Keep r s) (hu : unitSt s d ≠ .failed) : Keep r (reachOn s d) := by
  have h1 := modWake_keep d (fun _ => {}) (stacksOn_keep d (setUnit_keep h (p := .on) (Or.inl hu)))
  unfold reachOn
  dsimp only
  split
  · exact raiseIrq_keep _ _ _ h1
  · exact h1

theorem dmcFollow_keep {r s : State} (h : Keep r s) : Keep r (dmcFollow s) := by
  refine forEach_keep _ _ h fun s m h => ?_
  dsimp only
  split
  · rename_i e
    refine setUnit_keep h (Or.inl (ne_failed_of_beq (q := .retain) ?_ (by decide)))
    simp only [Bool.and_eq_true] at e; exact e.2
  · split
    · rename_i e
      refine setUnit_keep h (Or.inl (ne_failed_of_beq (q := .on) ?_ (by decide)))
      simp only [Bool.and_eq_true] at e; exact e.2
    · exact h

theorem wakeHub_keep {r s : State} (k) (h : Keep r s) : Keep r (wakeHub s k) := by
  unfold wakeHub
  split
  · rename_i e; exact startWake_keep h (ne_failed_of_beq e (by decide))
  · exact h

theorem failUnit_keep {r : State} {x0} (x1) (hx0 : Keep r x0) : Keep r (failUnit x0 x1) := by
  unfold failUnit
  try dsimp only
  repeat' (first
      | with_reducible assumption | (refine setUnit_keep ?_ (Or.inr rfl)) | with_reducible apply event_keep
      | simp only [↓Keep.upd_iff] | simp only [↓Keep.updPwr_iff] | intro _ | split)

theorem setTemp_keep {r : State} {x0} (x1) (x2) (hx0 : Keep r x0) : Keep r (setTemp x0 x1 x2) := by
  unfold setTemp
  try dsimp only
  repeat' (first | with_reducible assumption | with_reducible apply setRegFld_keep | split)

/-! ## MemOps -/

theorem countTraffic_keep {r : State} {x0} (x1) (x2) (x3) (hx0 : Keep r x0) : Keep r (countTraffic x0 x1 x2 x3) := by
  unfold countTraffic
  try dsimp only
  repeat' (first
      | with_reducible assumption | simp only [↓Keep.upd_iff] | simp only [↓Keep.updMem_iff]
      | refine Keep.snd (by assumption) ?_ | refine Keep.snd3 (by assumption) ?_
      | refine Keep.fst (by assumption) ?_ | intro _ | split)

theorem eccCorrected_keep {r : State} {x0} (x1) (hx0 : Keep r x0) : Keep r (eccCorrected x0 x1) := by
  unfold eccCorrected
  try dsimp only
  repeat' (first
      | with_reducible assumption | with_reducible apply raiseIrq_keep | with_reducible apply bumpReg_keep
      | refine Keep.snd (by assumption) ?_ | refine Keep.snd3 (by assumption) ?_
      | refine Keep.fst (by assumption) ?_ | split)

theorem eccUncorrectable_keep {r : State} {x0} (x1) (hx0 : Keep r x0) : Keep r (eccUncorrectable x0 x1) := by
  unfold eccUncorrectable
  try dsimp only
  repeat' (first
      | with_reducible assumption | with_reducible apply setRegN_keep | with_reducible apply bumpReg_keep
      | with_reducible apply raiseIrq_keep | with_reducible apply setPoison_keep
      | refine Keep.snd (by assumption) ?_ | refine Keep.snd3 (by assumption) ?_
      | refine Keep.fst (by assumption) ?_ | split)

theorem applyEcc_keep {r : State} {x0} (x1) (x2) (x3) (hx0 : Keep r x0) : Keep r (applyEcc x0 x1 x2 x3) := by
  unfold applyEcc
  try dsimp only
  repeat' (first
      | with_reducible assumption | with_reducible apply eccUncorrectable_keep
      | with_reducible apply eccCorrected_keep | with_reducible apply Keep.foldl
      | with_reducible apply Keep.foldl_snd | with_reducible apply Keep.foldl_fst
      | with_reducible apply Keep.foldl_snd2 | intro _ | split)

theorem readMem_keep {r : State} {x0} (x1) (x2) (x3) (hx0 : Keep r x0) : Keep r (readMem x0 x1 x2 x3).2.2 := by
  unfold readMem
  try dsimp only
  repeat' (first
      | with_reducible assumption | with_reducible apply applyEcc_keep | with_reducible apply countTraffic_keep
      | split)

theorem writeGranule_keep {r : State} {x0} (x1) (x2) (hx0 : Keep r x0) : Keep r (writeGranule x0 x1 x2).2 := by
  unfold writeGranule
  try dsimp only
  repeat' (first
      | with_reducible assumption | with_reducible apply setPoison_keep | with_reducible apply storeBytes_keep
      | with_reducible apply setFresh_keep | with_reducible apply countTraffic_keep
      | refine Keep.snd (by assumption) ?_ | refine Keep.snd3 (by assumption) ?_
      | refine Keep.fst (by assumption) ?_ | split)

theorem writeMemN_keep {r : State} (n) {s} (a) (bs) (h : Keep r s) : Keep r (writeMemN n s a bs).2 := by
  induction n generalizing s a bs with
  | zero => exact h
  | succ n ih =>
    unfold writeMemN
    split
    · exact h
    · exact ih _ _ (writeGranule_keep _ _ h)

theorem writeMem_keep {r : State} {x0} (x1) (x2) (hx0 : Keep r x0) : Keep r (writeMem x0 x1 x2).2 := by
  unfold writeMem
  try dsimp only
  repeat' (first | with_reducible assumption | with_reducible apply writeMemN_keep | split)

theorem wakeFor_keep {r : State} {x0} (x1) (x2) (hx0 : Keep r x0) : Keep r (wakeFor x0 x1 x2) := by
  unfold wakeFor
  try dsimp only
  repeat' (first
      | with_reducible assumption | with_reducible apply wakeDie_keep | with_reducible apply wakeHub_keep | split)

theorem wakeAll_keep {r : State} {x0} (x1) (x2) (hx0 : Keep r x0) : Keep r (wakeAll x0 x1 x2) := by
  unfold wakeAll
  try dsimp only
  repeat' (first
      | with_reducible assumption | with_reducible apply wakeFor_keep | with_reducible apply Keep.foldl
      | with_reducible apply Keep.foldl_snd | with_reducible apply Keep.foldl_fst
      | with_reducible apply Keep.foldl_snd2 | intro _ | split)

/-! ## LinkOps -/

theorem setLink_keep {r : State} {x0} (x1) (x2) (hx0 : Keep r x0) : Keep r (setLink x0 x1 x2) := by
  unfold setLink
  try dsimp only
  repeat' (first | with_reducible assumption | simp only [↓Keep.upd_iff] | intro _ | split)

theorem emitMsg_keep {r : State} {x0} (x1) (x2) (hx0 : Keep r x0) : Keep r (emitMsg x0 x1 x2) := by
  unfold emitMsg
  try dsimp only
  repeat' (first
      | with_reducible assumption | with_reducible apply send_keep | with_reducible apply setLink_keep | split)

theorem sendMsg_keep {r : State} {x0} (x1) (x2) (hx0 : Keep r x0) : Keep r (sendMsg x0 x1 x2) := by
  unfold sendMsg
  try dsimp only
  repeat' (first
      | with_reducible assumption | with_reducible apply emitMsg_keep | with_reducible apply setLink_keep | intro _
      | split)

theorem flushTxq_keep {r : State} (n) {s} (k) (h : Keep r s) : Keep r (flushTxq n s k) := by
  induction n generalizing s with
  | zero => exact h
  | succ n ih =>
    unfold flushTxq
    dsimp only
    split
    · exact h
    · split
      · exact h
      · exact ih (emitMsg_keep _ _ (setLink_keep _ _ h))

theorem flushLink_keep {r : State} {x0} (x1) (hx0 : Keep r x0) : Keep r (flushLink x0 x1) := by
  unfold flushLink
  try dsimp only
  repeat' (first | with_reducible assumption | with_reducible apply flushTxq_keep | split)

theorem takeTag_keep {r : State} {x0} (hx0 : Keep r x0) : Keep r (takeTag x0).2 := by
  unfold takeTag
  try dsimp only
  repeat' (first | with_reducible assumption | simp only [↓Keep.upd_iff] | split)

theorem startTxn_keep {r : State} {x0} (x1) (hx0 : Keep r x0) : Keep r (startTxn x0 x1).2 := by
  unfold startTxn
  try dsimp only
  repeat' (first
      | with_reducible assumption | with_reducible apply sendMsg_keep | simp only [↓Keep.upd_iff]
      | refine Keep.snd (by assumption) ?_ | refine Keep.snd3 (by assumption) ?_
      | refine Keep.fst (by assumption) ?_ | intro _ | split)

theorem answerMsg_keep {r : State} {x0} (x1) (x2) (hx0 : Keep r x0) : Keep r (answerMsg x0 x1 x2) := by
  unfold answerMsg
  try dsimp only
  repeat' (first
      | with_reducible assumption | with_reducible apply sendMsg_keep | refine Keep.snd (by assumption) ?_
      | refine Keep.snd3 (by assumption) ?_ | refine Keep.fst (by assumption) ?_ | split)

/-! ## FlowOps -/

theorem setTok_keep {r : State} {x0} (x1) (x2) (hx0 : Keep r x0) : Keep r (setTok x0 x1 x2) := by
  unfold setTok
  try dsimp only
  repeat' (first | with_reducible assumption | simp only [↓Keep.upd_iff] | intro _ | split)

theorem signalWake_keep {r : State} {x0} (x1) (hx0 : Keep r x0) : Keep r (signalWake x0 x1) := by
  unfold signalWake
  try dsimp only
  repeat' (first | with_reducible assumption | with_reducible apply wakeDie_keep | split)

theorem tokAdd_keep {r : State} {x0} (x1) (x2) (hx0 : Keep r x0) : Keep r (tokAdd x0 x1 x2) := by
  unfold tokAdd
  try dsimp only
  repeat' (first
      | with_reducible assumption | with_reducible apply setTok_keep | with_reducible apply raiseIrq_keep
      | with_reducible apply signalWake_keep | split)

theorem tokSet_keep {r : State} {x0} (x1) (x2) (hx0 : Keep r x0) : Keep r (tokSet x0 x1 x2) := by
  unfold tokSet
  try dsimp only
  repeat' (first
      | with_reducible assumption | with_reducible apply signalWake_keep | with_reducible apply setTok_keep | split)

theorem tokPoison_keep {r : State} {x0} (x1) (hx0 : Keep r x0) : Keep r (tokPoison x0 x1) := by
  unfold tokPoison
  try dsimp only
  repeat' (first
      | with_reducible assumption | with_reducible apply signalWake_keep | with_reducible apply setTok_keep | split)

theorem tokLocal_keep {r : State} {x0} (x1) (x2) (x3) (hx0 : Keep r x0) (hx3 : ∀ y0 y1, Keep r y0 → Keep r (x3 y0 y1)) : Keep r (tokLocal x0 x1 x2 x3).2 := by
  unfold tokLocal
  try dsimp only
  repeat' (first | with_reducible assumption | with_reducible apply hx3 | split)

theorem setDesc_keep {r : State} {x0} (x1) (x2) (hx0 : Keep r x0) : Keep r (setDesc x0 x1 x2) := by
  unfold setDesc
  try dsimp only
  repeat' (first | with_reducible assumption | with_reducible apply setQueue_keep | intro _ | split)

theorem onRun_keep {r : State} {x0} (x1) (x2) (x3) (x4) (hx0 : Keep r x0) (hx4 : ∀ y0 y1, Keep r y0 → Keep r (x4 y0 y1)) : Keep r (onRun x0 x1 x2 x3 x4) := by
  unfold onRun
  try dsimp only
  repeat' (first
      | with_reducible assumption | with_reducible apply hx4 | refine Keep.snd (by assumption) ?_
      | refine Keep.snd3 (by assumption) ?_ | refine Keep.fst (by assumption) ?_ | split)

theorem setEng_keep {r : State} {x0} (x1) (x2) (x3) (hx0 : Keep r x0) : Keep r (setEng x0 x1 x2 x3) := by
  unfold setEng
  try dsimp only
  repeat' (first | with_reducible assumption | simp only [↓Keep.upd_iff] | intro _ | split)

theorem setEngOn_keep {r : State} {x0} (x1) (x2) (x3) (hx0 : Keep r x0) : Keep r (setEngOn x0 x1 x2 x3) := by
  unfold setEngOn
  try dsimp only
  repeat' (first
      | with_reducible assumption | simp only [↓Keep.upd_iff] | simp only [↓Keep.updPwr_iff] | intro _ | split)

theorem closeWindow_keep {r : State} {x0} (x1) (x2) (hx0 : Keep r x0) : Keep r (closeWindow x0 x1 x2) := by
  unfold closeWindow
  try dsimp only
  repeat' (first | with_reducible assumption | simp only [↓Keep.upd_iff] | intro _ | split)

theorem writeRecord_keep {r : State} {x0} (x1) (x2) (x3) (x4) (x5) (x6) (x7) (x8) (x9) (x10) (hx0 : Keep r x0) : Keep r (writeRecord x0 x1 x2 x3 x4 x5 x6 x7 x8 x9 x10) := by
  unfold writeRecord
  try dsimp only
  repeat' (first | with_reducible assumption | with_reducible apply writeMem_keep | split)

theorem queueSettle_keep {r : State} {x0} (x1) (hx0 : Keep r x0) : Keep r (queueSettle x0 x1) := by
  unfold queueSettle
  try dsimp only
  repeat' (first | with_reducible assumption | with_reducible apply setQueue_keep | split)

theorem noteFailure_keep {r : State} {x0} (x1) (x2) (x3) (x4) (x5) (x6) (x7) (hx0 : Keep r x0) : Keep r (noteFailure x0 x1 x2 x3 x4 x5 x6 x7) := by
  unfold noteFailure
  try dsimp only
  repeat' (first
      | with_reducible assumption | with_reducible apply setQueue_keep | with_reducible apply setRegN_keep
      | with_reducible apply raiseIrq_keep | with_reducible apply bumpReg_keep
      | with_reducible apply raiseIrqArgs_keep | split)

theorem sendRegwr_keep {r : State} {x0} (x1) (x2) (x3) (x4) (x5) (x6) (x7) (x8) (x9) (hx0 : Keep r x0) : Keep r (sendRegwr x0 x1 x2 x3 x4 x5 x6 x7 x8 x9).2 := by
  unfold sendRegwr
  try dsimp only
  repeat' (first
      | with_reducible assumption | with_reducible apply takeTag_keep | with_reducible apply startTxn_keep
      | refine Keep.snd (by assumption) ?_ | refine Keep.snd3 (by assumption) ?_
      | refine Keep.fst (by assumption) ?_ | split)

theorem poisonSig_keep {r : State} {x0} (x1) (x2) (hx0 : Keep r x0) : Keep r (poisonSig x0 x1 x2) := by
  unfold poisonSig
  try dsimp only
  repeat' (first
      | with_reducible assumption | with_reducible apply sendRegwr_keep | with_reducible apply tokLocal_keep
      | with_reducible apply tokPoison_keep | split)

theorem poisonBodyToks_keep {r : State} {x0} (x1) (x2) (hx0 : Keep r x0) : Keep r (poisonBodyToks x0 x1 x2) := by
  unfold poisonBodyToks
  try dsimp only
  repeat' (first
      | with_reducible assumption | with_reducible apply tokLocal_keep | with_reducible apply tokPoison_keep
      | with_reducible apply sendRegwr_keep | with_reducible apply Keep.foldl | with_reducible apply Keep.foldl_snd
      | with_reducible apply Keep.foldl_fst | with_reducible apply Keep.foldl_snd2 | intro _ | split)

theorem enginePageDone_keep {r : State} {x0} (x1) (x2) (x3) (hx0 : Keep r x0) : Keep r (enginePageDone x0 x1 x2 x3) := by
  unfold enginePageDone
  try dsimp only
  repeat' (first
      | with_reducible assumption | with_reducible apply wrapReg_keep | with_reducible apply raiseIrqArgs_keep
      | refine Keep.snd (by assumption) ?_ | refine Keep.snd3 (by assumption) ?_
      | refine Keep.fst (by assumption) ?_ | split)

theorem dropDesc_keep {r : State} {x0} (x1) (x2) (hx0 : Keep r x0) : Keep r (dropDesc x0 x1 x2) := by
  unfold dropDesc
  try dsimp only
  repeat' (first
      | with_reducible assumption | with_reducible apply queueSettle_keep | with_reducible apply setQueue_keep
      | intro _ | split)

theorem recordOf_keep {r : State} {x0} (x1) (x2) (x3) (x4) (x5) (hx0 : Keep r x0) : Keep r (recordOf x0 x1 x2 x3 x4 x5) := by
  unfold recordOf
  try dsimp only
  repeat' (first
      | with_reducible assumption | with_reducible apply freeNat_keep | with_reducible apply writeRecord_keep
      | refine Keep.snd (by assumption) ?_ | refine Keep.snd3 (by assumption) ?_
      | refine Keep.fst (by assumption) ?_ | split)

theorem failDesc_keep {r : State} {x0} (x1) (x2) (x3) (x4) (x5) (x6) (hx0 : Keep r x0) : Keep r (failDesc x0 x1 x2 x3 x4 x5 x6) := by
  unfold failDesc
  try dsimp only
  repeat' (first
      | with_reducible assumption | with_reducible apply recordOf_keep | with_reducible apply enginePageDone_keep
      | with_reducible apply noteFailure_keep | with_reducible apply poisonBodyToks_keep
      | with_reducible apply poisonSig_keep | with_reducible apply closeWindow_keep
      | with_reducible apply raiseIrq_keep | with_reducible apply dropDesc_keep | split)

theorem endOk_keep {r : State} {x0} (x1) (x2) (hx0 : Keep r x0) : Keep r (endOk x0 x1 x2) := by
  unfold endOk
  try dsimp only
  repeat' (first
      | with_reducible assumption | with_reducible apply enginePageDone_keep | with_reducible apply raiseIrq_keep
      | with_reducible apply dropDesc_keep | split)

theorem finishOk_keep {r : State} {x0} (x1) (x2) (hx0 : Keep r x0) : Keep r (finishOk x0 x1 x2) := by
  unfold finishOk
  try dsimp only
  repeat' (first
      | with_reducible assumption | with_reducible apply recordOf_keep | with_reducible apply closeWindow_keep
      | with_reducible apply sendRegwr_keep | with_reducible apply failDesc_keep | with_reducible apply setDesc_keep
      | with_reducible apply tokLocal_keep | with_reducible apply tokAdd_keep | with_reducible apply endOk_keep
      | refine Keep.snd (by assumption) ?_ | refine Keep.snd3 (by assumption) ?_
      | refine Keep.fst (by assumption) ?_ | intro _ | split)

theorem finish_keep {r : State} {x0} (x1) (x2) (x3) (x4) (hx0 : Keep r x0) : Keep r (finish x0 x1 x2 x3 x4) := by
  unfold finish
  try dsimp only
  repeat' (first
      | with_reducible assumption | with_reducible apply finishOk_keep | with_reducible apply failDesc_keep | split)

/-! ## QueueOps -/

theorem tailMove_keep {r : State} {x0} (x1) (x2) (hx0 : Keep r x0) : Keep r (tailMove x0 x1 x2).2 := by
  unfold tailMove
  try dsimp only
  repeat' (first
      | with_reducible assumption | with_reducible apply queueSettle_keep | with_reducible apply setQueue_keep
      | with_reducible apply signalWake_keep | split)

theorem queueStop_keep {r : State} {x0} (x1) (hx0 : Keep r x0) : Keep r (queueStop x0 x1).2 := by
  unfold queueStop
  try dsimp only
  repeat' (first | with_reducible assumption | with_reducible apply setQueue_keep | split)

theorem queueResume_keep {r : State} {x0} (x1) (hx0 : Keep r x0) : Keep r (queueResume x0 x1).2 := by
  unfold queueResume
  try dsimp only
  repeat' (first
      | with_reducible assumption | with_reducible apply queueSettle_keep | with_reducible apply setQueue_keep
      | split)

theorem flushSlots_keep {r : State} (n) {s} (q) (h : Keep r s) : Keep r (flushSlots n s q) := by
  induction n generalizing s with
  | zero => exact h
  | succ n ih =>
    unfold flushSlots
    dsimp only
    split
    · exact h
    · exact ih (failDesc_keep _ _ _ _ _ _ (setQueue_keep _ _ (readMem_keep _ _ _ h)))

theorem queueFlush_keep {r : State} {x0} (x1) (hx0 : Keep r x0) : Keep r (queueFlush x0 x1).2 := by
  unfold queueFlush
  try dsimp only
  repeat' (first
      | with_reducible assumption | with_reducible apply failDesc_keep | with_reducible apply flushSlots_keep
      | with_reducible apply Keep.foldl | with_reducible apply Keep.foldl_snd | with_reducible apply Keep.foldl_fst
      | with_reducible apply Keep.foldl_snd2 | intro _ | split)

theorem copyGranule_keep {r : State} (x0) (x1) (x2) {x3} (hx3 : Keep r x3.2.2) : Keep r (copyGranule x0 x1 x2 x3).2.2 := by
  unfold copyGranule
  try dsimp only
  repeat' (first
      | with_reducible assumption | with_reducible apply readMem_keep | with_reducible apply writeMem_keep
      | refine Keep.snd (by assumption) ?_ | refine Keep.snd3 (by assumption) ?_
      | refine Keep.fst (by assumption) ?_ | split)

theorem copyLocal_keep {r : State} {x0} (x1) (x2) (hx0 : Keep r x0) : Keep r (copyLocal x0 x1 x2).2.2 := by
  unfold copyLocal
  try dsimp only
  repeat' (first
      | with_reducible assumption | with_reducible apply copyGranule_keep | with_reducible apply Keep.foldl
      | with_reducible apply Keep.foldl_snd | with_reducible apply Keep.foldl_fst
      | with_reducible apply Keep.foldl_snd2 | intro _ | split)

theorem copyRemoteRow_keep {r : State} (ecc) (q) (d) (src) (dst) (n) (o) {p : Nat × Nat × State} (h : Keep r p.2.2) :
    Keep r (copyRemoteRow ecc q d src dst n o p).2.2 := by
  induction n generalizing o p with
  | zero => exact h
  | succ n ih =>
    obtain ⟨st, k, s⟩ := p
    unfold copyRemoteRow
    split
    · exact h
    · dsimp only
      split
      · split
        · exact readMem_keep _ _ _ (takeTag_keep h)
        · refine ih _ ?_
          split <;> exact startTxn_keep _ (readMem_keep _ _ _ (takeTag_keep h))
      · refine ih _ ?_
        split <;> exact startTxn_keep _ (takeTag_keep h)

theorem copyRemote_keep {r : State} {x0} (x1) (x2) (x3) (hx0 : Keep r x0) : Keep r (copyRemote x0 x1 x2 x3).2.2 := by
  unfold copyRemote
  try dsimp only
  repeat' (first
      | with_reducible assumption | with_reducible apply copyRemoteRow_keep | with_reducible apply Keep.foldl
      | with_reducible apply Keep.foldl_snd | with_reducible apply Keep.foldl_fst
      | with_reducible apply Keep.foldl_snd2 | intro _ | split)

theorem settleRemote_keep {r : State} {x0} (x1) (x2) (hx0 : Keep r x0) : Keep r (settleRemote x0 x1 x2) := by
  unfold settleRemote
  try dsimp only
  repeat' (first
      | with_reducible assumption | with_reducible apply finish_keep | with_reducible apply setDesc_keep | split)

theorem copyRun_keep {r : State} {x0} (x1) (x2) (x3) (hx0 : Keep r x0) : Keep r (copyRun x0 x1 x2 x3) := by
  unfold copyRun
  try dsimp only
  repeat' (first
      | with_reducible assumption | with_reducible apply wakeAll_keep | with_reducible apply copyLocal_keep
      | with_reducible apply finish_keep | with_reducible apply bump64_keep | with_reducible apply copyRemote_keep
      | with_reducible apply settleRemote_keep | simp only [↓Keep.upd_iff] | simp only [↓Keep.updMem_iff]
      | refine Keep.snd (by assumption) ?_ | refine Keep.snd3 (by assumption) ?_
      | refine Keep.fst (by assumption) ?_ | split)

theorem recvRun_keep {r : State} {x0} (x1) (x2) (hx0 : Keep r x0) : Keep r (recvRun x0 x1 x2) := by
  unfold recvRun
  try dsimp only
  repeat' (first
      | with_reducible assumption | with_reducible apply finish_keep | refine Keep.snd (by assumption) ?_
      | refine Keep.snd3 (by assumption) ?_ | refine Keep.fst (by assumption) ?_ | split)

theorem tokEach_keep {r : State} {x0} (x1) (x2) (hx0 : Keep r x0) (hx2 : ∀ y0 y1, Keep r y0 → Keep r (x2 y0 y1).2) : Keep r (tokEach x0 x1 x2).2 := by
  unfold tokEach
  try dsimp only
  repeat' (first
      | with_reducible assumption | with_reducible apply hx2 | refine Keep.snd (by assumption) ?_
      | refine Keep.snd3 (by assumption) ?_ | refine Keep.fst (by assumption) ?_ | with_reducible apply Keep.foldl
      | with_reducible apply Keep.foldl_snd | with_reducible apply Keep.foldl_fst
      | with_reducible apply Keep.foldl_snd2 | intro _ | split)

theorem tokSend_keep {r : State} {x0} (x1) (x2) (x3) (x4) (x5) (hx0 : Keep r x0) : Keep r (tokSend x0 x1 x2 x3 x4 x5) := by
  unfold tokSend
  try dsimp only
  repeat' (first
      | with_reducible assumption | with_reducible apply sendRegwr_keep | with_reducible apply settleRemote_keep
      | refine Keep.snd (by assumption) ?_ | refine Keep.snd3 (by assumption) ?_
      | refine Keep.fst (by assumption) ?_ | with_reducible apply Keep.foldl | with_reducible apply Keep.foldl_snd
      | with_reducible apply Keep.foldl_fst | with_reducible apply Keep.foldl_snd2 | intro _ | split)

theorem tokenAddRun_keep {r : State} {x0} (x1) (x2) (hx0 : Keep r x0) : Keep r (tokenAddRun x0 x1 x2) := by
  unfold tokenAddRun
  try dsimp only
  repeat' (first
      | with_reducible assumption | with_reducible apply tokSend_keep | with_reducible apply tokEach_keep
      | with_reducible apply tokLocal_keep | with_reducible apply tokAdd_keep | with_reducible apply finish_keep
      | refine Keep.snd (by assumption) ?_ | refine Keep.snd3 (by assumption) ?_
      | refine Keep.fst (by assumption) ?_ | intro _ | split)

theorem tokenSetRun_keep {r : State} {x0} (x1) (x2) (hx0 : Keep r x0) : Keep r (tokenSetRun x0 x1 x2) := by
  unfold tokenSetRun
  try dsimp only
  repeat' (first
      | with_reducible assumption | with_reducible apply tokSend_keep | with_reducible apply tokEach_keep
      | with_reducible apply tokLocal_keep | with_reducible apply tokSet_keep | with_reducible apply finish_keep
      | refine Keep.snd (by assumption) ?_ | refine Keep.snd3 (by assumption) ?_
      | refine Keep.fst (by assumption) ?_ | intro _ | split)

theorem tokenDoorbellRun_keep {r : State} {x0} (x1) (x2) (hx0 : Keep r x0) : Keep r (tokenDoorbellRun x0 x1 x2) := by
  unfold tokenDoorbellRun
  try dsimp only
  repeat' (first
      | with_reducible assumption | with_reducible apply tokSend_keep | with_reducible apply tokEach_keep
      | with_reducible apply tailMove_keep | with_reducible apply finish_keep | refine Keep.snd (by assumption) ?_
      | refine Keep.snd3 (by assumption) ?_ | refine Keep.fst (by assumption) ?_ | intro _ | split)

theorem fenceRun_keep {r : State} {x0} (x1) (x2) (hx0 : Keep r x0) : Keep r (fenceRun x0 x1 x2) := by
  unfold fenceRun
  try dsimp only
  repeat' (first | with_reducible assumption | with_reducible apply finish_keep | intro _ | split)

theorem waitLimitHit_keep {r : State} {x0} (x1) (hx0 : Keep r x0) : Keep r (waitLimitHit x0 x1) := by
  unfold waitLimitHit
  try dsimp only
  repeat' (first
      | with_reducible assumption | with_reducible apply failDesc_keep | refine Keep.snd (by assumption) ?_
      | refine Keep.snd3 (by assumption) ?_ | refine Keep.fst (by assumption) ?_ | split)

theorem windowTimeout_keep {r : State} {x0} (x1) (x2) (hx0 : Keep r x0) : Keep r (windowTimeout x0 x1 x2) := by
  unfold windowTimeout
  try dsimp only
  repeat' (first
      | with_reducible assumption | with_reducible apply failDesc_keep | refine Keep.snd (by assumption) ?_
      | refine Keep.snd3 (by assumption) ?_ | refine Keep.fst (by assumption) ?_ | split)

end Sys2Proof.Machine
end

