-- ==== Sys2Proof/Laws/KeepEngine.lean ====
section
/-!
SUPPORT. `Keep` for each operation of the block: the engines and the planning arrays.
-/

namespace Sys2Proof.Machine

set_option linter.all false

/-! ## ReduceOps -/

theorem setCt_keep {r : State} {x0} (x1) (x2) (hx0 : Keep r x0) : Keep r (setCt x0 x1 x2) := by
  unfold setCt
  try dsimp only
  repeat' (first | with_reducible assumption | simp only [↓Keep.upd_iff] | intro _ | split)

theorem ctFree_keep {r : State} {x0} (x1) (hx0 : Keep r x0) : Keep r (ctFree x0 x1) := by
  unfold ctFree
  try dsimp only
  repeat' (first | with_reducible assumption | with_reducible apply setCt_keep | simp only [↓Keep.upd_iff] | split)

theorem ctSettle_keep {r : State} {x0} (x1) (hx0 : Keep r x0) : Keep r (ctSettle x0 x1) := by
  unfold ctSettle
  try dsimp only
  repeat' (first | with_reducible assumption | with_reducible apply ctFree_keep | split)

theorem sweepDone_keep {r : State} {x0} (x1) (hx0 : Keep r x0) : Keep r (sweepDone x0 x1) := by
  unfold sweepDone
  try dsimp only
  repeat' (first
      | with_reducible assumption | with_reducible apply ctSettle_keep | with_reducible apply setCt_keep | split)

theorem ctMeet_keep {r : State} {x0} (x1) (x2) (hx0 : Keep r x0) : Keep r (ctMeet x0 x1 x2).2 := by
  unfold ctMeet
  try dsimp only
  repeat' (first
      | with_reducible assumption | with_reducible apply setCt_keep | with_reducible apply raiseIrq_keep
      | with_reducible apply bumpReg_keep | with_reducible apply ctSettle_keep | refine Keep.snd (by assumption) ?_
      | refine Keep.snd3 (by assumption) ?_ | refine Keep.fst (by assumption) ?_ | intro _ | split)

theorem mapDescs_keep {r : State} {x0} (x1) (hx0 : Keep r x0) : Keep r (mapDescs x0 x1) := by
  unfold mapDescs
  try dsimp only
  repeat' (first | with_reducible assumption | simp only [↓Keep.upd_iff] | intro _ | split)

theorem clearUnfresh_keep {r s : State} (lo hi : Nat) (h : Keep r s) :
    Keep r { s with mem := { s.mem with unfresh := tclear s.mem.unfresh lo hi } } := by
  refine Keep.ofMem h rfl rfl rfl rfl fun x => ?_
  simp only [Memory.wf, Bool.and_eq_true] at x ⊢
  exact ⟨⟨⟨⟨⟨x.1.1.1.1.1, x.1.1.1.1.2⟩, tclear_wf _ _ _ x.1.1.1.2⟩, x.1.1.2⟩, x.1.2⟩, x.2⟩

theorem ctDiscard_keep {r : State} {x0} (x1) (hx0 : Keep r x0) : Keep r (ctDiscard x0 x1) := by
  unfold ctDiscard
  exact offAfterRestart_keep _ (raiseIrq_keep _ _ _ (mapDescs_keep _ (clearUnfresh_keep _ _ (setCt_keep _ _ hx0))))

theorem doneTokEach_keep {r : State} {x0} (x1) (x2) (hx0 : Keep r x0) (hx2 : ∀ y0 y1, Keep r y0 → Keep r (x2 y0 y1)) : Keep r (doneTokEach x0 x1 x2) := by
  unfold doneTokEach
  try dsimp only
  repeat' (first | with_reducible assumption | with_reducible apply hx2 | with_reducible apply tokLocal_keep | split)

theorem ctEnd_keep {r : State} {x0} (x1) (x2) (hx0 : Keep r x0) : Keep r (ctEnd x0 x1 x2) := by
  unfold ctEnd
  try dsimp only
  repeat' (first
      | with_reducible assumption | with_reducible apply setCt_keep | with_reducible apply ctSettle_keep
      | with_reducible apply ctDiscard_keep | with_reducible apply offAfterRestart_keep
      | with_reducible apply doneTokEach_keep | with_reducible apply ctFree_keep | with_reducible apply tokAdd_keep
      | refine Keep.snd (by assumption) ?_ | refine Keep.snd3 (by assumption) ?_
      | refine Keep.fst (by assumption) ?_ | intro _ | split)

theorem reduceEnd_keep {r : State} {x0} (x1) (x2) (x3) (x4) (hx0 : Keep r x0) : Keep r (reduceEnd x0 x1 x2 x3 x4) := by
  unfold reduceEnd
  try dsimp only
  repeat' (first
      | with_reducible assumption | with_reducible apply ctEnd_keep | with_reducible apply doneTokEach_keep
      | with_reducible apply tokPoison_keep | with_reducible apply finish_keep | split)

theorem redGranule_keep {r : State} (x0) {x1} (x2) (hx1 : Keep r x1.2.2.2) : Keep r (redGranule x0 x1 x2).2.2.2 := by
  unfold redGranule
  try dsimp only
  repeat' (first
      | with_reducible assumption | with_reducible apply writeGranule_keep | refine Keep.snd (by assumption) ?_
      | refine Keep.snd3 (by assumption) ?_ | refine Keep.fst (by assumption) ?_ | with_reducible apply Keep.foldl
      | with_reducible apply Keep.foldl_snd | with_reducible apply Keep.foldl_fst
      | with_reducible apply Keep.foldl_snd2 | intro _ | split)

theorem tallyRed_keep {r : State} {x0} (x1) (x2) (hx0 : Keep r x0) : Keep r (tallyRed x0 x1 x2) := by
  unfold tallyRed
  try dsimp only
  repeat' (first | with_reducible assumption | with_reducible apply bumpReg_keep | split)

theorem reduceRun_keep {r : State} {x0} (x1) (x2) (x3) (hx0 : Keep r x0) : Keep r (reduceRun x0 x1 x2 x3) := by
  unfold reduceRun
  repeat' (first
      | with_reducible assumption | (refine Keep.foldl_snd3 ?_ fun _ _ h => redGranule_keep _ _ h)
      | with_reducible apply reduceEnd_keep | with_reducible apply bump64_keep | with_reducible apply tallyRed_keep
      | with_reducible apply countTraffic_keep | with_reducible apply applyEcc_keep | simp only [↓Keep.upd_iff]
      | simp only [↓Keep.updMem_iff] | refine Keep.snd (by assumption) ?_ | refine Keep.snd3 (by assumption) ?_
      | refine Keep.snd4 (by assumption) ?_ | refine Keep.snd5 (by assumption) ?_
      | refine Keep.fst (by assumption) ?_ | with_reducible apply Keep.foldl | with_reducible apply Keep.foldl_snd
      | with_reducible apply Keep.foldl_fst | with_reducible apply Keep.foldl_snd2
      | with_reducible apply Keep.foldl_snd3 | intro _ | split)

theorem accGranule_keep {r : State} {x0} (x1) (x2) (x3) (hx0 : Keep r x0) : Keep r (accGranule x0 x1 x2 x3).2.2.2 := by
  unfold accGranule
  try dsimp only
  repeat' (first
      | with_reducible assumption | with_reducible apply setFresh_keep | simp only [↓Keep.upd_iff]
      | with_reducible apply Keep.foldl | with_reducible apply Keep.foldl_snd | with_reducible apply Keep.foldl_fst
      | with_reducible apply Keep.foldl_snd2 | intro _ | split)

theorem accGranules_keep {r : State} (d) (n) (a) {p : Nat × List Nat × Tally × State} (h : Keep r p.2.2.2) :
    Keep r (accGranules d n a p).2.2.2 := by
  induction n generalizing a p with
  | zero => exact h
  | succ n ih =>
    obtain ⟨st, ws, t, s⟩ := p
    unfold accGranules
    split
    · exact h
    · exact ih _ (accGranule_keep _ _ _ h)

theorem emitGroup_keep {r : State} (d) {p} (g) (h : Keep r p.2) : Keep r (emitGroup d p g).2 := by
  obtain ⟨x, s⟩ := p
  unfold emitGroup
  split
  rename_i p x1 s1 e1
  cases e1
  split
  · exact h
  extract_lets +onlyGivenNames mx per lo n rb rst
  split
  · exact h
  have h1 := accGranules_keep d (if mx then 2 else 1) (emitAcc d + 4 * lo) (p := (stOK, [], x.tally, s)) h
  split
  rename_i st ws t s1 e
  rw [e] at h1
  split
  · exact h1
  split
  · exact h1
  extract_lets +onlyGivenNames vs x1
  split <;> exact h1

theorem emitRun_keep {r : State} {x0} (x1) (x2) (x3) (hx0 : Keep r x0) : Keep r (emitRun x0 x1 x2 x3) := by
  unfold emitRun
  try dsimp only
  repeat' (first
      | with_reducible assumption | with_reducible apply applyEcc_keep | with_reducible apply emitGroup_keep
      | with_reducible apply countTraffic_keep | with_reducible apply writeMem_keep
      | with_reducible apply bump64_keep | with_reducible apply tallyRed_keep | with_reducible apply finish_keep
      | refine Keep.snd (by assumption) ?_ | refine Keep.snd3 (by assumption) ?_
      | refine Keep.fst (by assumption) ?_ | with_reducible apply Keep.foldl | with_reducible apply Keep.foldl_snd
      | with_reducible apply Keep.foldl_fst | with_reducible apply Keep.foldl_snd2 | intro _ | split)

/-! ## OptOps -/

theorem setOpt_keep {r : State} {x0} (x1) (x2) (hx0 : Keep r x0) : Keep r (setOpt x0 x1 x2) := by
  unfold setOpt
  try dsimp only
  repeat' (first | with_reducible assumption | simp only [↓Keep.upd_iff] | intro _ | split)

theorem mirrorFailed_keep {r : State} {x0} (x1) (x2) (hx0 : Keep r x0) : Keep r (mirrorFailed x0 x1 x2) := by
  unfold mirrorFailed
  try dsimp only
  repeat' (first
      | with_reducible assumption | with_reducible apply bumpReg_keep | with_reducible apply setRegN_keep
      | with_reducible apply raiseIrq_keep | split)

theorem mirrorStore_keep {r : State} (x0) {x1} (x2) (hx1 : Keep r x1.2) : Keep r (mirrorStore x0 x1 x2).2 := by
  unfold mirrorStore
  try dsimp only
  repeat' (first
      | with_reducible assumption | with_reducible apply readMem_keep | with_reducible apply mirrorFailed_keep
      | with_reducible apply takeTag_keep | with_reducible apply startTxn_keep | refine Keep.snd (by assumption) ?_
      | refine Keep.snd3 (by assumption) ?_ | refine Keep.fst (by assumption) ?_ | split)

theorem tallyOpt_keep {r : State} {x0} (x1) (x2) (hx0 : Keep r x0) : Keep r (tallyOpt x0 x1 x2) := by
  unfold tallyOpt
  try dsimp only
  repeat' (first
      | with_reducible assumption | with_reducible apply bumpReg_keep | with_reducible apply raiseIrq_keep | split)

theorem commitTile_keep {r : State} {x0} (x1) (x2) (x3) (hx0 : Keep r x0) : Keep r (commitTile x0 x1 x2 x3).2 := by
  unfold commitTile
  try dsimp only
  repeat' (first
      | with_reducible assumption | with_reducible apply countTraffic_keep | with_reducible apply setOpt_keep
      | with_reducible apply writeMem_keep | with_reducible apply setFresh_keep | with_reducible apply tallyOpt_keep
      | with_reducible apply bump64_keep | with_reducible apply mirrorStore_keep
      | refine Keep.snd (by assumption) ?_ | refine Keep.snd3 (by assumption) ?_
      | refine Keep.fst (by assumption) ?_ | with_reducible apply Keep.foldl | with_reducible apply Keep.foldl_snd
      | with_reducible apply Keep.foldl_fst | with_reducible apply Keep.foldl_snd2 | intro _ | split)

theorem writeSums_keep {r : State} {x0} (x1) (x2) (hx0 : Keep r x0) : Keep r (writeSums x0 x1 x2) := by
  unfold writeSums
  try dsimp only
  repeat' (first
      | with_reducible assumption | with_reducible apply writeMem_keep | with_reducible apply setOpt_keep
      | refine Keep.snd (by assumption) ?_ | refine Keep.snd3 (by assumption) ?_
      | refine Keep.fst (by assumption) ?_ | intro _ | split)

theorem bodyEnd_keep {r : State} (x0) {x1} (x2) (x3) (x4) (hx0 : ∀ y0 y1 y2, Keep r y0 → Keep r (x0 y0 y1 y2)) (hx1 : Keep r x1) : Keep r (bodyEnd x0 x1 x2 x3 x4).2 := by
  unfold bodyEnd
  try dsimp only
  repeat' (first
      | with_reducible assumption | with_reducible apply hx0 | with_reducible apply commitTile_keep
      | with_reducible apply setOpt_keep | refine Keep.snd (by assumption) ?_ | refine Keep.snd3 (by assumption) ?_
      | refine Keep.fst (by assumption) ?_ | split)

theorem passLast_keep {r : State} {x0} (x1) (x2) (hx0 : Keep r x0) : Keep r (passLast x0 x1 x2) := by
  unfold passLast
  try dsimp only
  repeat' (first
      | with_reducible assumption | with_reducible apply writeSums_keep | with_reducible apply setOpt_keep
      | with_reducible apply Keep.foldl | with_reducible apply Keep.foldl_snd | with_reducible apply Keep.foldl_fst
      | with_reducible apply Keep.foldl_snd2 | intro _ | split)

theorem endLast_keep {r : State} {x0} (x1) (x2) (hx0 : Keep r x0) : Keep r (endLast x0 x1 x2) := by
  unfold endLast
  try dsimp only
  repeat' (first | with_reducible assumption | with_reducible apply setOpt_keep | split)

theorem stepReg_keep {r : State} {x0} (x1) (x2) (hx0 : Keep r x0) : Keep r (stepReg x0 x1 x2) := by
  unfold stepReg
  try dsimp only
  repeat' (first | with_reducible assumption | with_reducible apply setOpt_keep | split)

theorem stepStream_keep {r : State} {x0} (x1) (x2) (hx0 : Keep r x0) : Keep r (stepStream x0 x1 x2) := by
  unfold stepStream
  try dsimp only
  repeat' (first
      | with_reducible assumption | with_reducible apply setOpt_keep | refine Keep.snd (by assumption) ?_
      | refine Keep.snd3 (by assumption) ?_ | refine Keep.fst (by assumption) ?_ | split)

theorem stepEnd_keep {r : State} {x0} (x1) (x2) (hx0 : Keep r x0) (hx2 : ∀ y0 y1 y2, Keep r y0 → Keep r (x2 y0 y1 y2)) : Keep r (stepEnd x0 x1 x2) := by
  unfold stepEnd
  try dsimp only
  repeat' (first
      | with_reducible assumption | with_reducible apply hx2 | with_reducible apply bodyEnd_keep
      | with_reducible apply setOpt_keep | with_reducible apply setDesc_keep | refine Keep.snd (by assumption) ?_
      | refine Keep.snd3 (by assumption) ?_ | refine Keep.fst (by assumption) ?_ | split)

theorem optWord_keep {r : State} {x0} (x1) (x2) (hx0 : Keep r x0) : Keep r (optWord x0 x1 x2) := by
  unfold optWord
  try dsimp only
  repeat' (first
      | with_reducible assumption | with_reducible apply stepReg_keep | with_reducible apply stepStream_keep
      | with_reducible apply stepEnd_keep | with_reducible apply passLast_keep | with_reducible apply endLast_keep
      | refine Keep.snd (by assumption) ?_ | refine Keep.snd3 (by assumption) ?_
      | refine Keep.fst (by assumption) ?_ | intro _ | split)

theorem optStart_keep {r : State} {x0} (x1) (x2) (hx0 : Keep r x0) : Keep r (optStart x0 x1 x2) := by
  unfold optStart
  try dsimp only
  repeat' (first
      | with_reducible assumption | with_reducible apply readMem_keep | with_reducible apply setOpt_keep
      | refine Keep.snd (by assumption) ?_ | refine Keep.snd3 (by assumption) ?_
      | refine Keep.fst (by assumption) ?_ | with_reducible apply Keep.foldl | with_reducible apply Keep.foldl_snd
      | with_reducible apply Keep.foldl_fst | with_reducible apply Keep.foldl_snd2 | intro _ | split)

theorem optLoop_keep {r : State} (n) {s} (e) (h : Keep r s) : Keep r (optLoop n s e) := by
  induction n generalizing s with
  | zero => exact h
  | succ n ih =>
    unfold optLoop
    dsimp only
    split
    · exact h
    · split
      · exact h
      · split
        · exact setOpt_keep _ _ h
        · exact ih (optWord_keep _ _ h)

theorem optimRun_keep {r : State} {x0} (x1) (x2) (x3) (hx0 : Keep r x0) : Keep r (optimRun x0 x1 x2 x3) := by
  unfold optimRun
  try dsimp only
  repeat' (first
      | with_reducible assumption | with_reducible apply applyEcc_keep | with_reducible apply optLoop_keep
      | with_reducible apply setOpt_keep | with_reducible apply settleRemote_keep
      | refine Keep.snd (by assumption) ?_ | refine Keep.snd3 (by assumption) ?_
      | refine Keep.fst (by assumption) ?_ | with_reducible apply Keep.foldl | with_reducible apply Keep.foldl_snd
      | with_reducible apply Keep.foldl_fst | with_reducible apply Keep.foldl_snd2 | intro _ | split)

/-! ## PlanOps -/

theorem planEnd_keep {r : State} {x0} (x1) (x2) (x3) (x4) (x5) (x6) (x7) (x8) (hx0 : Keep r x0) : Keep r (planEnd x0 x1 x2 x3 x4 x5 x6 x7 x8) := by
  unfold planEnd
  try dsimp only
  repeat' (first
      | with_reducible assumption | with_reducible apply writeMem_keep | with_reducible apply setRegN_keep
      | with_reducible apply bumpReg_keep | with_reducible apply raiseIrq_keep | with_reducible apply finish_keep
      | refine Keep.snd (by assumption) ?_ | refine Keep.snd3 (by assumption) ?_
      | refine Keep.fst (by assumption) ?_ | split)

theorem scramble_keep {r : State} {x0} (x1) (x2) (hx0 : Keep r x0) : Keep r (scramble x0 x1 x2) := by
  unfold scramble
  try dsimp only
  repeat' (first
      | with_reducible assumption | with_reducible apply writeMem_keep | simp only [↓Keep.upd_iff]
      | simp only [↓Keep.updMem_iff] | simp only [↓Keep.updPwr_iff] | refine Keep.snd (by assumption) ?_
      | refine Keep.snd3 (by assumption) ?_ | refine Keep.fst (by assumption) ?_ | with_reducible apply Keep.foldl
      | with_reducible apply Keep.foldl_snd | with_reducible apply Keep.foldl_fst
      | with_reducible apply Keep.foldl_snd2 | intro _ | split)

theorem planProblem_keep {r s : State} {q : Nat} {d : Desc} (h : Keep r s) :
    ∀ t, planProblem s q d = .inl t → Keep r t := by
  intro t e
  unfold planProblem at e
  simp only [] at e
  split at e
  · cases e; exact planEnd_keep _ _ _ _ _ _ _ _ h
  · split at e
    · cases e; exact planEnd_keep _ _ _ _ _ _ _ _ h
    · cases e

theorem sinkhornRun_keep {r : State} {x0} (x1) (x2) (hx0 : Keep r x0) : Keep r (sinkhornRun x0 x1 x2) := by
  unfold sinkhornRun
  have hp := planProblem_keep (q := x1) (d := x2) hx0
  revert hp
  cases planProblem x0 x1 x2 with
  | inl t => exact fun hp => hp t rfl
  | inr p =>
    intro _
    repeat' (first
        | with_reducible assumption | with_reducible apply planEnd_keep | with_reducible apply scramble_keep
        | simp only [↓Keep.upd_iff] | simp only [↓Keep.updMem_iff] | refine Keep.snd (by assumption) ?_
        | refine Keep.snd3 (by assumption) ?_ | refine Keep.snd4 (by assumption) ?_
        | refine Keep.snd5 (by assumption) ?_ | refine Keep.fst (by assumption) ?_ | with_reducible apply Keep.foldl
        | with_reducible apply Keep.foldl_snd | with_reducible apply Keep.foldl_fst
        | with_reducible apply Keep.foldl_snd2 | with_reducible apply Keep.foldl_snd3 | intro _ | split)

theorem tablesEnd_keep {r : State} {x0} (x1) (x2) (x3) (x4) (x5) (x6) (x7) (x8) (x9) (hx0 : Keep r x0) : Keep r (tablesEnd x0 x1 x2 x3 x4 x5 x6 x7 x8 x9) := by
  unfold tablesEnd
  try dsimp only
  repeat' (first
      | with_reducible assumption | with_reducible apply planEnd_keep | with_reducible apply scramble_keep
      | refine Keep.snd (by assumption) ?_ | refine Keep.snd3 (by assumption) ?_
      | refine Keep.fst (by assumption) ?_ | intro _ | split)

theorem scheduleRun_keep {r : State} {x0} (x1) (x2) (hx0 : Keep r x0) : Keep r (scheduleRun x0 x1 x2) := by
  unfold scheduleRun
  have hp := planProblem_keep (q := x1) (d := x2) hx0
  revert hp
  cases planProblem x0 x1 x2 with
  | inl t => exact fun hp => hp t rfl
  | inr p =>
    intro _
    repeat' (first
        | with_reducible assumption | with_reducible apply tablesEnd_keep | simp only [↓Keep.upd_iff]
        | simp only [↓Keep.updMem_iff] | refine Keep.snd (by assumption) ?_ | refine Keep.snd3 (by assumption) ?_
        | refine Keep.snd4 (by assumption) ?_ | refine Keep.snd5 (by assumption) ?_
        | refine Keep.fst (by assumption) ?_ | with_reducible apply Keep.foldl | with_reducible apply Keep.foldl_snd
        | with_reducible apply Keep.foldl_fst | with_reducible apply Keep.foldl_snd2
        | with_reducible apply Keep.foldl_snd3 | intro _ | split)

theorem assignRun_keep {r : State} {x0} (x1) (x2) (hx0 : Keep r x0) : Keep r (assignRun x0 x1 x2) := by
  unfold assignRun
  have hp := planProblem_keep (q := x1) (d := x2) hx0
  revert hp
  cases planProblem x0 x1 x2 with
  | inl t => exact fun hp => hp t rfl
  | inr p =>
    intro _
    repeat' (first
        | with_reducible assumption | with_reducible apply tablesEnd_keep | simp only [↓Keep.upd_iff]
        | simp only [↓Keep.updMem_iff] | refine Keep.snd (by assumption) ?_ | refine Keep.snd3 (by assumption) ?_
        | refine Keep.snd4 (by assumption) ?_ | refine Keep.snd5 (by assumption) ?_
        | refine Keep.fst (by assumption) ?_ | with_reducible apply Keep.foldl | with_reducible apply Keep.foldl_snd
        | with_reducible apply Keep.foldl_fst | with_reducible apply Keep.foldl_snd2
        | with_reducible apply Keep.foldl_snd3 | intro _ | split)

theorem gemmRun_keep {r : State} {x0} (x1) (x2) (hx0 : Keep r x0) : Keep r (gemmRun x0 x1 x2) := by
  unfold gemmRun
  try dsimp only
  repeat' (first
      | with_reducible assumption | with_reducible apply planEnd_keep | with_reducible apply writeMem_keep
      | simp only [↓Keep.upd_iff] | refine Keep.snd (by assumption) ?_ | refine Keep.snd3 (by assumption) ?_
      | refine Keep.fst (by assumption) ?_ | with_reducible apply Keep.foldl | with_reducible apply Keep.foldl_snd
      | with_reducible apply Keep.foldl_fst | with_reducible apply Keep.foldl_snd2 | intro _ | split)

theorem planTouch_keep {r : State} {x0} (x1) (x2) (hx0 : Keep r x0) : Keep r (planTouch x0 x1 x2) := by
  unfold planTouch
  try dsimp only
  repeat' (first
      | with_reducible assumption | with_reducible apply applyEcc_keep | with_reducible apply countTraffic_keep
      | with_reducible apply Keep.foldl | with_reducible apply Keep.foldl_snd | with_reducible apply Keep.foldl_fst
      | with_reducible apply Keep.foldl_snd2 | intro _ | split)

theorem onPlan_keep {r : State} {x0} (x1) (x2) (x3) (x4) (x5) (hx0 : Keep r x0) (hx5 : ∀ y0 y1, Keep r y0 → Keep r (x5 y0 y1)) : Keep r (onPlan x0 x1 x2 x3 x4 x5) := by
  unfold onPlan
  try dsimp only
  repeat' (first
      | with_reducible assumption | with_reducible apply hx5 | with_reducible apply onRun_keep
      | with_reducible apply planTouch_keep | intro _ | split)

theorem validateRun_keep {r : State} {x0} (x1) (x2) (hx0 : Keep r x0) : Keep r (validateRun x0 x1 x2) := by
  unfold validateRun
  try dsimp only
  repeat' (first
      | with_reducible assumption | with_reducible apply readMem_keep | with_reducible apply planEnd_keep
      | simp only [↓Keep.upd_iff] | refine Keep.snd (by assumption) ?_ | refine Keep.snd3 (by assumption) ?_
      | refine Keep.fst (by assumption) ?_ | split)

theorem setPort_keep {r : State} {x0} (x1) (x2) (hx0 : Keep r x0) : Keep r (setPort x0 x1 x2) := by
  unfold setPort
  try dsimp only
  repeat' (first | with_reducible assumption | simp only [↓Keep.upd_iff] | intro _ | split)

theorem addCell_keep {r : State} (x0) {x1} (x2) (x3) (x4) (hx1 : Keep r x1) : Keep r (addCell x0 x1 x2 x3 x4) := by
  unfold addCell
  try dsimp only
  repeat' (first | with_reducible assumption | with_reducible apply writeMem_keep | split)

theorem placeBytes_keep {r : State} (x0) (x1) {x2} (x3) (x4) (x5) (hx2 : Keep r x2.1) : Keep r (placeBytes x0 x1 x2 x3 x4 x5).1 := by
  unfold placeBytes
  try dsimp only
  repeat' (first
      | with_reducible assumption | with_reducible apply addCell_keep | refine Keep.snd (by assumption) ?_
      | refine Keep.snd3 (by assumption) ?_ | refine Keep.fst (by assumption) ?_ | split)

theorem snapshotRun_keep {r : State} {x0} (x1) (x2) (hx0 : Keep r x0) : Keep r (snapshotRun x0 x1 x2) := by
  unfold snapshotRun
  try dsimp only
  repeat' (first
      | with_reducible assumption | with_reducible apply planEnd_keep | with_reducible apply placeBytes_keep
      | simp only [↓Keep.upd_iff] | refine Keep.snd (by assumption) ?_ | refine Keep.snd3 (by assumption) ?_
      | refine Keep.fst (by assumption) ?_ | with_reducible apply Keep.foldl | with_reducible apply Keep.foldl_snd
      | with_reducible apply Keep.foldl_fst | with_reducible apply Keep.foldl_snd2 | intro _ | split)

end Sys2Proof.Machine
end

