-- ==== Sys2Proof/Laws/KeepSteer.lean ====
section
/-!
SUPPORT. `Keep` for each operation of the block: steering, synthesis, Fixative, redundancy and samples.
-/

namespace Sys2Proof.Machine

set_option linter.all false

/-! ## SteerBase -/

theorem setTile_keep {r : State} {x0} (x1) (x2) (hx0 : Keep r x0) : Keep r (setTile x0 x1 x2) := by
  unfold setTile
  try dsimp only
  repeat' (first | with_reducible assumption | simp only [↓Keep.upd_iff] | intro _ | split)

theorem setSlot_keep {r : State} {x0} (x1) (x2) (hx0 : Keep r x0) : Keep r (setSlot x0 x1 x2) := by
  unfold setSlot
  try dsimp only
  repeat' (first | with_reducible assumption | simp only [↓Keep.upd_iff] | intro _ | split)

theorem setAxis_keep {r : State} {x0} (x1) (x2) (hx0 : Keep r x0) : Keep r (setAxis x0 x1 x2) := by
  unfold setAxis
  try dsimp only
  repeat' (first | with_reducible assumption | simp only [↓Keep.upd_iff] | intro _ | split)

theorem setMir_keep {r : State} {x0} (x1) (x2) (hx0 : Keep r x0) : Keep r (setMir x0 x1 x2) := by
  unfold setMir
  try dsimp only
  repeat' (first | with_reducible assumption | simp only [↓Keep.upd_iff] | intro _ | split)

theorem moveAxis_keep {r : State} {x0} (x1) (hx0 : Keep r x0) : Keep r (moveAxis x0 x1) := by
  unfold moveAxis
  try dsimp only
  repeat' (first
      | with_reducible assumption | with_reducible apply setAxis_keep | refine Keep.snd (by assumption) ?_
      | refine Keep.snd3 (by assumption) ?_ | refine Keep.fst (by assumption) ?_ | split)

theorem accordWaitRun_keep {r : State} {x0} (x1) (x2) (hx0 : Keep r x0) : Keep r (accordWaitRun x0 x1 x2) := by
  unfold accordWaitRun
  try dsimp only
  repeat' (first | with_reducible assumption | with_reducible apply finish_keep | split)

theorem accWaitSettle_keep {r : State} {x0} (hx0 : Keep r x0) : Keep r (accWaitSettle x0) := by
  unfold accWaitSettle
  try dsimp only
  repeat' (first
      | with_reducible assumption | with_reducible apply accordWaitRun_keep | refine Keep.snd (by assumption) ?_
      | refine Keep.snd3 (by assumption) ?_ | refine Keep.fst (by assumption) ?_ | with_reducible apply Keep.foldl
      | with_reducible apply Keep.foldl_snd | with_reducible apply Keep.foldl_fst
      | with_reducible apply Keep.foldl_snd2 | intro _ | split)

theorem accWaitAbort_keep {r : State} {x0} (x1) (hx0 : Keep r x0) : Keep r (accWaitAbort x0 x1) := by
  unfold accWaitAbort
  try dsimp only
  repeat' (first
      | with_reducible assumption | with_reducible apply finish_keep | refine Keep.snd (by assumption) ?_
      | refine Keep.snd3 (by assumption) ?_ | refine Keep.fst (by assumption) ?_ | with_reducible apply Keep.foldl
      | with_reducible apply Keep.foldl_snd | with_reducible apply Keep.foldl_fst
      | with_reducible apply Keep.foldl_snd2 | intro _ | split)

theorem sendSteer_keep {r : State} {x0} (x1) (x2) (hx0 : Keep r x0) : Keep r (sendSteer x0 x1 x2) := by
  unfold sendSteer
  try dsimp only
  repeat' (first
      | with_reducible assumption | with_reducible apply send_keep | with_reducible apply sendMsg_keep
      | refine Keep.snd (by assumption) ?_ | refine Keep.snd3 (by assumption) ?_
      | refine Keep.fst (by assumption) ?_ | split)

theorem sendStatus_keep {r : State} {x0} (x1) (hx0 : Keep r x0) : Keep r (sendStatus x0 x1) := by
  unfold sendStatus
  try dsimp only
  repeat' (first
      | with_reducible assumption | with_reducible apply sendSteer_keep | simp only [↓Keep.upd_iff] | split)

/-! ## SteerLaw -/

theorem fitWord_keep {r : State} (x0) {x1} (hx1 : Keep r x1) : Keep r (fitWord x0 x1).2 := by
  unfold fitWord
  try dsimp only
  repeat' (first
      | with_reducible assumption | with_reducible apply freeNat_keep | refine Keep.snd (by assumption) ?_
      | refine Keep.snd3 (by assumption) ?_ | refine Keep.fst (by assumption) ?_ | split)

theorem tuneReport_keep {r : State} {x0} (hx0 : Keep r x0) : Keep r (tuneReport x0) := by
  unfold tuneReport
  extract_lets t h eps x s1 s2 num den per put
  have h2 : Keep r s2 := setReg_keep _ _ (setRegN_keep _ _ hx0)
  have hput : ∀ k v s, Keep r s → Keep r (put k v s) := fun k v s hs => setReg_keep _ _ (fitWord_keep _ hs)
  clear_value put s2
  split
  · exact Keep.foldl h2 fun s k hs => setRegN_keep _ _ (freeNat_keep 32 hs)
  · exact hput _ _ _ (hput _ _ _ (hput _ _ _ (hput _ _ _ h2)))

theorem tuneEnd_keep {r : State} {x0} (x1) (x2) (hx0 : Keep r x0) : Keep r (tuneEnd x0 x1 x2) := by
  unfold tuneEnd
  try dsimp only
  repeat' (first
      | with_reducible assumption | with_reducible apply tuneReport_keep | with_reducible apply setRegN_keep
      | with_reducible apply raiseIrqArgs_keep | simp only [↓Keep.upd_iff] | split)

theorem tuneTrack_keep {r : State} {x0} (x1) (x2) (x3) (hx0 : Keep r x0) : Keep r (tuneTrack x0 x1 x2 x3) := by
  unfold tuneTrack
  try dsimp only
  repeat' (first | with_reducible assumption | with_reducible apply tuneEnd_keep | simp only [↓Keep.upd_iff] | split)

theorem axisStep_keep {r : State} (x0) {x1} (x2) (hx1 : Keep r x1) : Keep r (axisStep x0 x1 x2) := by
  unfold axisStep
  extract_lets ax ks en ts us win wk tuned changed prev pre uWin step outs uOut code s1 s2
  split
  · exact setAxis_keep _ _ hx1
  have h1 : Keep r s1 := Keep.foldl hx1 fun s o hs => setSlot_keep _ _ hs
  have h2 : Keep r s2 := setAxis_keep _ _ h1
  clear_value s2 ts
  split
  · split
    · exact tuneTrack_keep _ _ _ h2
    · split
      · exact setAxis_keep _ _ (Keep.upd h2)
      · exact h2
  · exact h2

theorem slotPut_keep {r : State} {x0} (x1) (x2) (x3) (hx0 : Keep r x0) : Keep r (slotPut x0 x1 x2 x3) := by
  unfold slotPut
  try dsimp only
  repeat' (first
      | with_reducible assumption | with_reducible apply setSlot_keep | with_reducible apply setAxis_keep
      | refine Keep.snd (by assumption) ?_ | refine Keep.snd3 (by assumption) ?_
      | refine Keep.fst (by assumption) ?_ | split)

/-! ## AcdOps -/

theorem modSte_keep {r : State} {x0} (x1) (hx0 : Keep r x0) : Keep r (modSte x0 x1) := by
  unfold modSte
  try dsimp only
  repeat' (first | with_reducible assumption | simp only [↓Keep.upd_iff] | split)

theorem setEntry_keep {r : State} {x0} (x1) (x2) (hx0 : Keep r x0) : Keep r (setEntry x0 x1 x2) := by
  unfold setEntry
  try dsimp only
  repeat' (first | with_reducible assumption | simp only [↓Keep.upd_iff] | intro _ | split)

theorem freeEntry_keep {r : State} {x0} (x1) (hx0 : Keep r x0) : Keep r (freeEntry x0 x1) := by
  unfold freeEntry
  try dsimp only
  repeat' (first
      | with_reducible assumption | with_reducible apply modSte_keep | with_reducible apply setEntry_keep | intro _
      | split)

theorem accToken_keep {r : State} {x0} (x1) (x2) (hx0 : Keep r x0) (hx2 : ∀ y0 y1, Keep r y0 → Keep r (x2 y0 y1)) : Keep r (accToken x0 x1 x2) := by
  unfold accToken
  try dsimp only
  repeat' (first | with_reducible assumption | with_reducible apply hx2 | split)

theorem accRecord_keep {r : State} {x0} (x1) (x2) (x3) (x4) (hx0 : Keep r x0) : Keep r (accRecord x0 x1 x2 x3 x4) := by
  unfold accRecord
  try dsimp only
  repeat' (first
      | with_reducible assumption | with_reducible apply setRegN_keep | with_reducible apply setReg_keep | split)

theorem entryEnds_keep {r : State} {x0} (x1) (x2) (x3) (hx0 : Keep r x0) : Keep r (entryEnds x0 x1 x2 x3) := by
  unfold entryEnds
  try dsimp only
  repeat' (first
      | with_reducible assumption | with_reducible apply freeEntry_keep | with_reducible apply accRecord_keep
      | with_reducible apply bumpReg_keep | with_reducible apply raiseIrqArgs_keep
      | with_reducible apply accWaitAbort_keep | with_reducible apply accToken_keep
      | with_reducible apply tokPoison_keep | split)

theorem refuseEntry_keep {r : State} {x0} (x1) (x2) (x3) (hx0 : Keep r x0) : Keep r (refuseEntry x0 x1 x2 x3) := by
  unfold refuseEntry
  try dsimp only
  repeat' (first
      | with_reducible assumption | with_reducible apply entryEnds_keep | with_reducible apply Keep.foldl
      | with_reducible apply Keep.foldl_snd | with_reducible apply Keep.foldl_fst
      | with_reducible apply Keep.foldl_snd2 | intro _ | split)

theorem abortQueue_keep {r : State} {x0} (hx0 : Keep r x0) : Keep r (abortQueue x0) := by
  unfold abortQueue
  try dsimp only
  repeat' (first
      | with_reducible assumption | with_reducible apply entryEnds_keep | with_reducible apply Keep.foldl
      | with_reducible apply Keep.foldl_snd | with_reducible apply Keep.foldl_fst
      | with_reducible apply Keep.foldl_snd2 | intro _ | split)

theorem accordAbortCmd_keep {r : State} {x0} (x1) (hx0 : Keep r x0) : Keep r (accordAbortCmd x0 x1).2 := by
  unfold accordAbortCmd
  try dsimp only
  repeat' (first | with_reducible assumption | with_reducible apply refuseEntry_keep | split)

theorem accordLoadCmd_keep {r : State} {x0} (hx0 : Keep r x0) : Keep r (accordLoadCmd x0).2 := by
  unfold accordLoadCmd
  extract_lets w g bound
  split
  · exact hx0
  split
  · exact hx0
  split
  · exact hx0
  split
  · exact hx0
  split
  · exact hx0
  · exact setRegN_keep _ _ (modSte_keep _ (setEntry_keep _ _ hx0))

theorem entryLoadStart_keep {r : State} {x0} (hx0 : Keep r x0) : Keep r (entryLoadStart x0) := by
  unfold entryLoadStart
  try dsimp only
  repeat' (first
      | with_reducible assumption | with_reducible apply refuseEntry_keep | with_reducible apply setEntry_keep
      | refine Keep.snd (by assumption) ?_ | refine Keep.snd3 (by assumption) ?_
      | refine Keep.fst (by assumption) ?_ | split)

theorem entryLoadDone_keep {r : State} {x0} (x1) (hx0 : Keep r x0) : Keep r (entryLoadDone x0 x1) := by
  unfold entryLoadDone
  try dsimp only
  repeat' (first
      | with_reducible assumption | with_reducible apply refuseEntry_keep | with_reducible apply readMem_keep
      | with_reducible apply setEntry_keep | refine Keep.snd (by assumption) ?_
      | refine Keep.snd3 (by assumption) ?_ | refine Keep.fst (by assumption) ?_ | split)

theorem announce_keep {r : State} {x0} (hx0 : Keep r x0) : Keep r (announce x0) := by
  unfold announce
  try dsimp only
  repeat' (first
      | with_reducible assumption | with_reducible apply setEntry_keep | with_reducible apply sendSteer_keep
      | refine Keep.snd (by assumption) ?_ | refine Keep.snd3 (by assumption) ?_
      | refine Keep.fst (by assumption) ?_ | split)

theorem entryValidateDone_keep {r : State} {x0} (hx0 : Keep r x0) : Keep r (entryValidateDone x0) := by
  unfold entryValidateDone
  try dsimp only
  repeat' (first
      | with_reducible assumption | with_reducible apply refuseEntry_keep | with_reducible apply announce_keep
      | with_reducible apply setEntry_keep | refine Keep.snd (by assumption) ?_
      | refine Keep.snd3 (by assumption) ?_ | refine Keep.fst (by assumption) ?_ | split)

theorem startMove_keep {r : State} {x0} (x1) (x2) (x3) (x4) (x5) (hx0 : Keep r x0) : Keep r (startMove x0 x1 x2 x3 x4 x5) := by
  unfold startMove
  try dsimp only
  repeat' (first
      | with_reducible assumption | with_reducible apply modSte_keep | with_reducible apply setMir_keep
      | with_reducible apply raiseIrqArgs_keep | with_reducible apply setReg_keep
      | with_reducible apply accWaitSettle_keep | with_reducible apply Keep.foldl
      | with_reducible apply Keep.foldl_snd | with_reducible apply Keep.foldl_fst
      | with_reducible apply Keep.foldl_snd2 | intro _ | split)

theorem setGroup_keep {r : State} {x0} (x1) (x2) (hx0 : Keep r x0) : Keep r (setGroup x0 x1 x2) := by
  unfold setGroup
  try dsimp only
  repeat' (first
      | with_reducible assumption | with_reducible apply modSte_keep | refine Keep.snd (by assumption) ?_
      | refine Keep.snd3 (by assumption) ?_ | refine Keep.fst (by assumption) ?_ | intro _ | split)

theorem groupTick_keep {r : State} {x0} (x1) (hx0 : Keep r x0) : Keep r (groupTick x0 x1) := by
  unfold groupTick
  try dsimp only
  repeat' (first
      | with_reducible assumption | with_reducible apply setMir_keep | with_reducible apply setGroup_keep
      | refine Keep.snd (by assumption) ?_ | refine Keep.snd3 (by assumption) ?_
      | refine Keep.fst (by assumption) ?_ | with_reducible apply Keep.foldl | with_reducible apply Keep.foldl_snd
      | with_reducible apply Keep.foldl_fst | with_reducible apply Keep.foldl_snd2 | intro _ | split)

theorem takeGen_keep {r : State} {x0} (hx0 : Keep r x0) : Keep r (takeGen x0).2 := by
  unfold takeGen
  try dsimp only
  repeat' (first
      | with_reducible assumption | with_reducible apply tuneEnd_keep | with_reducible apply modSte_keep
      | refine Keep.snd (by assumption) ?_ | refine Keep.snd3 (by assumption) ?_
      | refine Keep.fst (by assumption) ?_ | intro _ | split)

theorem endPair_keep {r : State} {x0} (x1) (x2) (hx0 : Keep r x0) : Keep r (endPair x0 x1 x2) := by
  unfold endPair
  try dsimp only
  repeat' (first | with_reducible assumption | with_reducible apply setMir_keep | split)

theorem enterPeak_keep {r : State} {x0} (x1) (x2) (hx0 : Keep r x0) : Keep r (enterPeak x0 x1 x2) := by
  unfold enterPeak
  try dsimp only
  repeat' (first
      | with_reducible assumption | with_reducible apply setMir_keep | with_reducible apply endPair_keep
      | with_reducible apply setGroup_keep | with_reducible apply takeGen_keep | refine Keep.snd (by assumption) ?_
      | refine Keep.snd3 (by assumption) ?_ | refine Keep.fst (by assumption) ?_ | with_reducible apply Keep.foldl
      | with_reducible apply Keep.foldl_snd | with_reducible apply Keep.foldl_fst
      | with_reducible apply Keep.foldl_snd2 | intro _ | split)

theorem settleTick_keep {r : State} {x0} (x1) (hx0 : Keep r x0) : Keep r (settleTick x0 x1) := by
  unfold settleTick
  try dsimp only
  repeat' (first
      | with_reducible assumption | with_reducible apply modSte_keep | with_reducible apply enterPeak_keep
      | with_reducible apply Keep.foldl | with_reducible apply Keep.foldl_snd | with_reducible apply Keep.foldl_fst
      | with_reducible apply Keep.foldl_snd2 | intro _ | split)

theorem settleTimeout_keep {r : State} {x0} (x1) (hx0 : Keep r x0) : Keep r (settleTimeout x0 x1) := by
  unfold settleTimeout
  try dsimp only
  repeat' (first
      | with_reducible assumption | with_reducible apply setMir_keep | with_reducible apply enterPeak_keep
      | refine Keep.snd (by assumption) ?_ | refine Keep.snd3 (by assumption) ?_
      | refine Keep.fst (by assumption) ?_ | with_reducible apply Keep.foldl | with_reducible apply Keep.foldl_snd
      | with_reducible apply Keep.foldl_fst | with_reducible apply Keep.foldl_snd2 | intro _ | split)

theorem raiseTrim_keep {r : State} {x0} (x1) (x2) (hx0 : Keep r x0) : Keep r (raiseTrim x0 x1 x2) := by
  unfold raiseTrim
  try dsimp only
  repeat' (first | with_reducible assumption | with_reducible apply setAxis_keep | split)

theorem pairTick_keep {r : State} {x0} (x1) (hx0 : Keep r x0) : Keep r (pairTick x0 x1).1 := by
  unfold pairTick
  try dsimp only
  repeat' (first
      | with_reducible assumption | with_reducible apply raiseTrim_keep | with_reducible apply Keep.foldl
      | with_reducible apply Keep.foldl_snd | with_reducible apply Keep.foldl_fst
      | with_reducible apply Keep.foldl_snd2 | intro _ | split)

theorem closeGroup_keep {r : State} {x0} (x1) (x2) (hx0 : Keep r x0) : Keep r (closeGroup x0 x1 x2) := by
  unfold closeGroup
  try dsimp only
  repeat' (first | with_reducible assumption | with_reducible apply setGroup_keep | split)

theorem peakTick_keep {r : State} {x0} (x1) (hx0 : Keep r x0) : Keep r (peakTick x0 x1) := by
  unfold peakTick
  try dsimp only
  repeat' (first
      | with_reducible assumption | with_reducible apply pairTick_keep | with_reducible apply endPair_keep
      | with_reducible apply closeGroup_keep | with_reducible apply modSte_keep | refine Keep.snd (by assumption) ?_
      | refine Keep.snd3 (by assumption) ?_ | refine Keep.fst (by assumption) ?_ | with_reducible apply Keep.foldl
      | with_reducible apply Keep.foldl_snd | with_reducible apply Keep.foldl_fst
      | with_reducible apply Keep.foldl_snd2 | intro _ | split)

theorem peakTimeout'_keep {r : State} {x0} (x1) (hx0 : Keep r x0) : Keep r (peakTimeout' x0 x1) := by
  unfold peakTimeout'
  try dsimp only
  repeat' (first
      | with_reducible assumption | with_reducible apply endPair_keep | with_reducible apply closeGroup_keep
      | refine Keep.snd (by assumption) ?_ | refine Keep.snd3 (by assumption) ?_
      | refine Keep.fst (by assumption) ?_ | with_reducible apply Keep.foldl | with_reducible apply Keep.foldl_snd
      | with_reducible apply Keep.foldl_fst | with_reducible apply Keep.foldl_snd2 | intro _ | split)

theorem retryRound_keep {r : State} {x0} (hx0 : Keep r x0) : Keep r (retryRound x0) := by
  unfold retryRound
  try dsimp only
  repeat' (first
      | with_reducible assumption | with_reducible apply setMir_keep | with_reducible apply modSte_keep
      | refine Keep.snd (by assumption) ?_ | refine Keep.snd3 (by assumption) ?_
      | refine Keep.fst (by assumption) ?_ | with_reducible apply Keep.foldl | with_reducible apply Keep.foldl_snd
      | with_reducible apply Keep.foldl_fst | with_reducible apply Keep.foldl_snd2 | intro _ | split)

theorem moveDone_keep {r : State} {x0} (x1) (hx0 : Keep r x0) : Keep r (moveDone x0 x1) := by
  unfold moveDone
  try dsimp only
  repeat' (first
      | with_reducible assumption | with_reducible apply modSte_keep | with_reducible apply setRegN_keep
      | with_reducible apply wrapReg_keep | with_reducible apply freeEntry_keep
      | with_reducible apply accRecord_keep | with_reducible apply raiseIrqArgs_keep
      | with_reducible apply raiseIrq_keep | with_reducible apply accToken_keep
      | with_reducible apply tokPoison_keep | with_reducible apply tokAdd_keep | with_reducible apply announce_keep
      | with_reducible apply accWaitSettle_keep | refine Keep.snd (by assumption) ?_
      | refine Keep.snd3 (by assumption) ?_ | refine Keep.fst (by assumption) ?_ | intro _ | split)

theorem doneTick_keep {r : State} {x0} (hx0 : Keep r x0) : Keep r (doneTick x0) := by
  unfold doneTick
  try dsimp only
  repeat' (first
      | with_reducible assumption | with_reducible apply moveDone_keep | refine Keep.snd (by assumption) ?_
      | refine Keep.snd3 (by assumption) ?_ | refine Keep.fst (by assumption) ?_ | intro _ | split)

theorem endEarly_keep {r : State} {x0} (hx0 : Keep r x0) : Keep r (endEarly x0) := by
  unfold endEarly
  try dsimp only
  repeat' (first
      | with_reducible assumption | with_reducible apply setAxis_keep | with_reducible apply moveDone_keep
      | refine Keep.snd (by assumption) ?_ | refine Keep.snd3 (by assumption) ?_
      | refine Keep.fst (by assumption) ?_ | with_reducible apply Keep.foldl | with_reducible apply Keep.foldl_snd
      | with_reducible apply Keep.foldl_fst | with_reducible apply Keep.foldl_snd2 | intro _ | split)

theorem commitTick_keep {r : State} {x0} (hx0 : Keep r x0) : Keep r (commitTick x0) := by
  unfold commitTick
  try dsimp only
  repeat' (first
      | with_reducible assumption | with_reducible apply startMove_keep | with_reducible apply setEntry_keep
      | refine Keep.snd (by assumption) ?_ | refine Keep.snd3 (by assumption) ?_
      | refine Keep.fst (by assumption) ?_ | split)

theorem followTick_keep {r : State} {x0} (hx0 : Keep r x0) : Keep r (followTick x0).2 := by
  unfold followTick
  try dsimp only
  repeat' (first
      | with_reducible assumption | with_reducible apply endEarly_keep | with_reducible apply modSte_keep
      | with_reducible apply startMove_keep | refine Keep.snd (by assumption) ?_
      | refine Keep.snd3 (by assumption) ?_ | refine Keep.fst (by assumption) ?_ | with_reducible apply Keep.foldl
      | with_reducible apply Keep.foldl_snd | with_reducible apply Keep.foldl_fst
      | with_reducible apply Keep.foldl_snd2 | intro _ | split)

theorem groupsTick_keep {r : State} {x0} (hx0 : Keep r x0) : Keep r (groupsTick x0) := by
  unfold groupsTick
  try dsimp only
  repeat' (first
      | with_reducible assumption | with_reducible apply groupTick_keep | with_reducible apply Keep.foldl
      | with_reducible apply Keep.foldl_snd | with_reducible apply Keep.foldl_fst
      | with_reducible apply Keep.foldl_snd2 | intro _ | split)

/-! ## FixOps -/

theorem flashWrite_keep {r : State} {x0} (x1) (x2) (hx0 : Keep r x0) : Keep r (flashWrite x0 x1 x2) := by
  refine Keep.ofMem hx0 rfl rfl rfl rfl fun x => ?_
  simp only [Memory.wf, flashWrite, Bool.and_eq_true] at x ⊢
  exact ⟨⟨⟨⟨⟨x.1.1.1.1.1, x.1.1.1.1.2⟩, x.1.1.1.2⟩, x.1.1.2⟩, x.1.2⟩, twriteBytes_wf _ _ _ x.2⟩

theorem flashErase_keep {r : State} {x0} (x1) (x2) (hx0 : Keep r x0) : Keep r (flashErase x0 x1 x2) := by
  refine Keep.ofMem hx0 rfl rfl rfl rfl fun x => ?_
  simp only [Memory.wf, flashErase, Bool.and_eq_true] at x ⊢
  exact ⟨⟨⟨⟨⟨x.1.1.1.1.1, x.1.1.1.1.2⟩, x.1.1.1.2⟩, x.1.1.2⟩, x.1.2⟩, tclear_wf _ _ _ x.2⟩

theorem modFix_keep {r : State} {x0} (x1) (hx0 : Keep r x0) : Keep r (modFix x0 x1) := by
  unfold modFix
  try dsimp only
  repeat' (first | with_reducible assumption | simp only [↓Keep.upd_iff] | split)

theorem setLoop_keep {r : State} {x0} (x1) (x2) (hx0 : Keep r x0) : Keep r (setLoop x0 x1 x2) := by
  unfold setLoop
  try dsimp only
  repeat' (first | with_reducible assumption | simp only [↓Keep.upd_iff] | intro _ | split)

theorem setChannel_keep {r : State} {x0} (x1) (x2) (hx0 : Keep r x0) : Keep r (setChannel x0 x1 x2) := by
  unfold setChannel
  try dsimp only
  repeat' (first | with_reducible assumption | simp only [↓Keep.upd_iff] | intro _ | split)

theorem loadAfe_keep {r : State} {x0} (x1) (hx0 : Keep r x0) : Keep r (loadAfe x0 x1) := by
  unfold loadAfe
  try dsimp only
  repeat' (first
      | with_reducible assumption | with_reducible apply setChannel_keep | simp only [↓Keep.upd_iff]
      | with_reducible apply Keep.foldl | with_reducible apply Keep.foldl_snd | with_reducible apply Keep.foldl_fst
      | with_reducible apply Keep.foldl_snd2 | intro _ | split)

theorem loadSelector_keep {r : State} {x0} (x1) (hx0 : Keep r x0) : Keep r (loadSelector x0 x1) := by
  unfold loadSelector
  try dsimp only
  repeat' (first
      | with_reducible assumption | with_reducible apply setLoop_keep | with_reducible apply Keep.foldl
      | with_reducible apply Keep.foldl_snd | with_reducible apply Keep.foldl_fst
      | with_reducible apply Keep.foldl_snd2 | intro _ | split)

theorem loadSlots_keep {r : State} {x0} (x1) (hx0 : Keep r x0) : Keep r (loadSlots x0 x1) := by
  unfold loadSlots
  try dsimp only
  repeat' (first
      | with_reducible assumption | with_reducible apply setSlot_keep | with_reducible apply Keep.foldl
      | with_reducible apply Keep.foldl_snd | with_reducible apply Keep.foldl_fst
      | with_reducible apply Keep.foldl_snd2 | intro _ | split)

theorem loadAxes_keep {r : State} {x0} (x1) (hx0 : Keep r x0) : Keep r (loadAxes x0 x1) := by
  unfold loadAxes
  try dsimp only
  repeat' (first
      | with_reducible assumption | with_reducible apply setAxis_keep | with_reducible apply Keep.foldl
      | with_reducible apply Keep.foldl_snd | with_reducible apply Keep.foldl_fst
      | with_reducible apply Keep.foldl_snd2 | intro _ | split)

theorem loadMirrors_keep {r : State} {x0} (x1) (hx0 : Keep r x0) : Keep r (loadMirrors x0 x1) := by
  unfold loadMirrors
  try dsimp only
  repeat' (first
      | with_reducible assumption | with_reducible apply modSte_keep | simp only [↓Keep.upd_iff]
      | with_reducible apply Keep.foldl | with_reducible apply Keep.foldl_snd | with_reducible apply Keep.foldl_fst
      | with_reducible apply Keep.foldl_snd2 | intro _ | split)

theorem defaultSlots_keep {r : State} {x0} (hx0 : Keep r x0) : Keep r (defaultSlots x0) := by
  unfold defaultSlots
  try dsimp only
  repeat' (first
      | with_reducible assumption | with_reducible apply setSlot_keep | with_reducible apply Keep.foldl
      | with_reducible apply Keep.foldl_snd | with_reducible apply Keep.foldl_fst
      | with_reducible apply Keep.foldl_snd2 | intro _ | split)

theorem fixChoose_keep {r : State} {x0} (hx0 : Keep r x0) : Keep r (fixChoose x0) := by
  unfold fixChoose
  try dsimp only
  repeat' (first
      | with_reducible assumption | with_reducible apply modFix_keep | with_reducible apply raiseIrqArgs_keep
      | with_reducible apply setRegN_keep | intro _ | split)

theorem fixLoadSteering_keep {r : State} {x0} (hx0 : Keep r x0) : Keep r (fixLoadSteering x0) := by
  unfold fixLoadSteering
  try dsimp only
  repeat' (first
      | with_reducible assumption | with_reducible apply loadSlots_keep | with_reducible apply defaultSlots_keep
      | with_reducible apply loadAxes_keep | with_reducible apply setAxis_keep
      | with_reducible apply loadMirrors_keep | with_reducible apply modSte_keep | simp only [↓Keep.upd_iff]
      | refine Keep.snd (by assumption) ?_ | refine Keep.snd3 (by assumption) ?_
      | refine Keep.fst (by assumption) ?_ | with_reducible apply Keep.foldl | with_reducible apply Keep.foldl_snd
      | with_reducible apply Keep.foldl_fst | with_reducible apply Keep.foldl_snd2 | intro _ | split)

theorem fixStart_keep {r : State} {x0} (hx0 : Keep r x0) : Keep r (fixStart x0) := by
  unfold fixStart
  try dsimp only
  repeat' (first
      | with_reducible assumption | with_reducible apply flashErase_keep | with_reducible apply modFix_keep
      | simp only [↓Keep.upd_iff] | intro _ | split)

theorem fixRequest_keep {r : State} {x0} (hx0 : Keep r x0) : Keep r (fixRequest x0) := by
  unfold fixRequest
  try dsimp only
  repeat' (first
      | with_reducible assumption | with_reducible apply modFix_keep | with_reducible apply fixStart_keep | intro _
      | split)

theorem autoSave_keep {r : State} {x0} (hx0 : Keep r x0) : Keep r (autoSave x0) := by
  unfold autoSave
  try dsimp only
  repeat' (first | with_reducible assumption | with_reducible apply fixRequest_keep | split)

theorem fixSaveCmd_keep {r : State} {x0} (hx0 : Keep r x0) : Keep r (fixSaveCmd x0).2 := by
  unfold fixSaveCmd
  try dsimp only
  repeat' (first | with_reducible assumption | with_reducible apply fixRequest_keep | split)

theorem fixNext_keep {r : State} {x0} (hx0 : Keep r x0) : Keep r (fixNext x0) := by
  unfold fixNext
  try dsimp only
  repeat' (first | with_reducible assumption | with_reducible apply fixStart_keep | split)

theorem fixSaveEnd_keep {r : State} {x0} (x1) (hx0 : Keep r x0) : Keep r (fixSaveEnd x0 x1) := by
  unfold fixSaveEnd
  try dsimp only
  repeat' (first
      | with_reducible assumption | with_reducible apply flashWrite_keep | with_reducible apply modFix_keep
      | with_reducible apply fixNext_keep | with_reducible apply raiseIrq_keep | with_reducible apply wrapReg_keep
      | with_reducible apply raiseIrqArgs_keep | simp only [↓Keep.upd_iff] | intro _ | split)

/-! ## RdnOps -/

theorem modRdn_keep {r : State} {x0} (x1) (hx0 : Keep r x0) : Keep r (modRdn x0 x1) := by
  unfold modRdn
  try dsimp only
  repeat' (first | with_reducible assumption | simp only [↓Keep.upd_iff] | split)

theorem rdnErr_keep {r : State} {x0} (x1) (x2) (hx0 : Keep r x0) : Keep r (rdnErr x0 x1 x2) := by
  unfold rdnErr
  try dsimp only
  repeat' (first | with_reducible assumption | with_reducible apply setRegN_keep | split)

theorem statusSettle_keep {r : State} (x0) {x1} (hx1 : Keep r x1) : Keep r (statusSettle x0 x1) := by
  unfold statusSettle
  try dsimp only
  repeat' (first
      | with_reducible assumption | with_reducible apply accWaitSettle_keep | with_reducible apply raiseIrqArgs_keep
      | with_reducible apply sendStatus_keep | split)

theorem withStatus_keep {r : State} {x0} (x1) (hx0 : Keep r x0) (hx1 : ∀ y0, Keep r y0 → Keep r (x1 y0)) : Keep r (withStatus x0 x1) := by
  unfold withStatus
  try dsimp only
  repeat' (first
      | with_reducible assumption | with_reducible apply hx1 | with_reducible apply statusSettle_keep | split)

theorem requestSync_keep {r : State} {x0} (hx0 : Keep r x0) : Keep r (requestSync x0) := by
  unfold requestSync
  try dsimp only
  repeat' (first
      | with_reducible assumption | with_reducible apply modRdn_keep | with_reducible apply sendSteer_keep
      | with_reducible apply setRegN_keep | intro _ | split)

theorem maybeSync_keep {r : State} {x0} (hx0 : Keep r x0) : Keep r (maybeSync x0) := by
  unfold maybeSync
  try dsimp only
  repeat' (first | with_reducible assumption | with_reducible apply requestSync_keep | split)

theorem endSync_keep {r : State} {x0} (hx0 : Keep r x0) : Keep r (endSync x0) := by
  unfold endSync
  try dsimp only
  repeat' (first | with_reducible assumption | with_reducible apply modRdn_keep | intro _ | split)

theorem attemptClaim_keep {r : State} {x0} (hx0 : Keep r x0) : Keep r (attemptClaim x0) := by
  unfold attemptClaim
  try dsimp only
  repeat' (first
      | with_reducible assumption | with_reducible apply modRdn_keep | with_reducible apply endSync_keep | intro _
      | split)

theorem takeClaim_keep {r : State} {x0} (hx0 : Keep r x0) : Keep r (takeClaim x0) := by
  unfold takeClaim
  try dsimp only
  repeat' (first
      | with_reducible assumption | with_reducible apply modRdn_keep | with_reducible apply raiseIrq_keep
      | with_reducible apply bumpReg_keep | with_reducible apply Keep.foldl | with_reducible apply Keep.foldl_snd
      | with_reducible apply Keep.foldl_fst | with_reducible apply Keep.foldl_snd2 | intro _ | split)

theorem releaseClaim_keep {r : State} {x0} (x1) (x2) (hx0 : Keep r x0) : Keep r (releaseClaim x0 x1 x2) := by
  unfold releaseClaim
  try dsimp only
  repeat' (first
      | with_reducible assumption | with_reducible apply modRdn_keep | with_reducible apply abortQueue_keep
      | with_reducible apply raiseIrqArgs_keep | intro _ | split)

theorem claimPlaneDown_keep {r : State} {x0} (hx0 : Keep r x0) : Keep r (claimPlaneDown x0) := by
  unfold claimPlaneDown
  try dsimp only
  repeat' (first | with_reducible assumption | with_reducible apply releaseClaim_keep | split)

theorem tileCheck_keep {r : State} {x0} (hx0 : Keep r x0) : Keep r (tileCheck x0) := by
  unfold tileCheck
  try dsimp only
  repeat' (first
      | with_reducible assumption | with_reducible apply releaseClaim_keep | with_reducible apply Keep.foldl
      | with_reducible apply Keep.foldl_snd | with_reducible apply Keep.foldl_fst
      | with_reducible apply Keep.foldl_snd2 | intro _ | split)

theorem claimRace_keep {r : State} {x0} (hx0 : Keep r x0) : Keep r (claimRace x0) := by
  unfold claimRace
  try dsimp only
  repeat' (first
      | with_reducible assumption | with_reducible apply raiseIrq_keep | with_reducible apply bumpReg_keep
      | with_reducible apply modRdn_keep | intro _ | split)

theorem holdoffEnd_keep {r : State} {x0} (hx0 : Keep r x0) : Keep r (holdoffEnd x0) := by
  unfold holdoffEnd
  try dsimp only
  repeat' (first
      | with_reducible assumption | with_reducible apply takeClaim_keep | with_reducible apply rdnErr_keep
      | with_reducible apply maybeSync_keep | with_reducible apply modRdn_keep | intro _ | split)

theorem backoffCheck_keep {r : State} {x0} (hx0 : Keep r x0) : Keep r (backoffCheck x0) := by
  unfold backoffCheck
  try dsimp only
  repeat' (first
      | with_reducible assumption | with_reducible apply modRdn_keep | with_reducible apply maybeSync_keep
      | with_reducible apply rdnErr_keep | with_reducible apply attemptClaim_keep | intro _ | split)

theorem leaveYielded_keep {r : State} {x0} (hx0 : Keep r x0) : Keep r (leaveYielded x0) := by
  unfold leaveYielded
  try dsimp only
  repeat' (first
      | with_reducible assumption | with_reducible apply maybeSync_keep | with_reducible apply modRdn_keep | intro _
      | split)

theorem declareMismatch_keep {r : State} {x0} (x1) (x2) (hx0 : Keep r x0) : Keep r (declareMismatch x0 x1 x2) := by
  unfold declareMismatch
  try dsimp only
  repeat' (first
      | with_reducible assumption | with_reducible apply bumpReg_keep | with_reducible apply setRegN_keep
      | with_reducible apply raiseIrqArgs_keep | with_reducible apply modRdn_keep
      | refine Keep.snd (by assumption) ?_ | refine Keep.snd3 (by assumption) ?_
      | refine Keep.fst (by assumption) ?_ | intro _ | split)

theorem compareTile_keep {r : State} {x0} (x1) (hx0 : Keep r x0) : Keep r (compareTile x0 x1) := by
  unfold compareTile
  try dsimp only
  repeat' (first
      | with_reducible assumption | with_reducible apply setTile_keep | with_reducible apply declareMismatch_keep
      | refine Keep.snd (by assumption) ?_ | refine Keep.snd3 (by assumption) ?_
      | refine Keep.fst (by assumption) ?_ | split)

theorem markSilent_keep {r : State} {x0} (hx0 : Keep r x0) : Keep r (markSilent x0) := by
  unfold markSilent
  try dsimp only
  repeat' (first
      | with_reducible assumption | with_reducible apply raiseIrqArgs_keep | with_reducible apply bumpReg_keep
      | with_reducible apply modRdn_keep | intro _ | split)

theorem outputRecv_keep {r : State} {x0} (x1) (hx0 : Keep r x0) : Keep r (outputRecv x0 x1) := by
  unfold outputRecv
  try dsimp only
  repeat' (first
      | with_reducible assumption | with_reducible apply modRdn_keep | with_reducible apply compareTile_keep
      | with_reducible apply setTile_keep | intro _ | split)

theorem recordCheck_keep {r : State} {x0} (x1) (x2) (x3) (x4) (hx0 : Keep r x0) : Keep r (recordCheck x0 x1 x2 x3 x4) := by
  unfold recordCheck
  try dsimp only
  repeat' (first
      | with_reducible assumption | with_reducible apply modRdn_keep | with_reducible apply setRegN_keep
      | with_reducible apply raiseIrqArgs_keep | with_reducible apply event_keep | intro _ | split)

theorem enterYielded_keep {r : State} {x0} (x1) (hx0 : Keep r x0) : Keep r (enterYielded x0 x1) := by
  unfold enterYielded
  try dsimp only
  repeat' (first
      | with_reducible assumption | with_reducible apply modRdn_keep | with_reducible apply endSync_keep | intro _
      | split)

theorem decideCheck_keep {r s : State} (h : Keep r s) : Keep r (decideCheck s) := by
  unfold decideCheck
  split
  · rename_i e x y pe z w e1 e2
    extract_lets +onlyGivenNames holder cause pcause own partner hFail sFail outcome s1
    have h1 : Keep r s1 := recordCheck_keep _ _ _ _ h
    clear_value s1
    split
    · split
      · exact modRdn_keep _ (releaseClaim_keep _ _ h1)
      · exact h1
    · split
      · exact enterYielded_keep _ h1
      · split
        · exact requestSync_keep h1
        · exact h1
  · exact h

theorem checkMissingRun_keep {r : State} {x0} (hx0 : Keep r x0) : Keep r (checkMissingRun x0) := by
  unfold checkMissingRun
  try dsimp only
  repeat' (first
      | with_reducible assumption | with_reducible apply recordCheck_keep | with_reducible apply markSilent_keep
      | with_reducible apply enterYielded_keep | with_reducible apply requestSync_keep
      | refine Keep.snd (by assumption) ?_ | refine Keep.snd3 (by assumption) ?_
      | refine Keep.fst (by assumption) ?_ | split)

theorem engineTestEnd_keep {r : State} {x0} (x1) (hx0 : Keep r x0) : Keep r (engineTestEnd x0 x1) := by
  unfold engineTestEnd
  try dsimp only
  repeat' (first
      | with_reducible assumption | with_reducible apply setEng_keep | with_reducible apply modRdn_keep
      | with_reducible apply sendSteer_keep | with_reducible apply decideCheck_keep
      | with_reducible apply Keep.foldl | with_reducible apply Keep.foldl_snd | with_reducible apply Keep.foldl_fst
      | with_reducible apply Keep.foldl_snd2 | intro _ | split)

theorem checkRecv_keep {r : State} {x0} (x1) (hx0 : Keep r x0) : Keep r (checkRecv x0 x1) := by
  unfold checkRecv
  try dsimp only
  repeat' (first
      | with_reducible assumption | with_reducible apply decideCheck_keep | with_reducible apply modRdn_keep
      | intro _ | split)

theorem statusRecv_keep {r : State} {x0} (x1) (hx0 : Keep r x0) : Keep r (statusRecv x0 x1) := by
  unfold statusRecv
  try dsimp only
  repeat' (first
      | with_reducible assumption | with_reducible apply modRdn_keep | with_reducible apply tileCheck_keep | intro _
      | split)

theorem partnerLinksLost_keep {r : State} {x0} (hx0 : Keep r x0) : Keep r (partnerLinksLost x0) := by
  unfold partnerLinksLost
  try dsimp only
  repeat' (first
      | with_reducible assumption | with_reducible apply modRdn_keep | with_reducible apply raiseIrqArgs_keep
      | intro _ | split)

theorem partnerLinkBack_keep {r : State} {x0} (hx0 : Keep r x0) : Keep r (partnerLinkBack x0) := by
  unfold partnerLinkBack
  try dsimp only
  repeat' (first
      | with_reducible assumption | with_reducible apply requestSync_keep | with_reducible apply maybeSync_keep
      | split)

theorem integFix_keep {r : State} {x0} (x1) (x2) (x3) (hx0 : Keep r x0) : Keep r (integFix x0 x1 x2 x3) := by
  unfold integFix
  try dsimp only
  repeat' (first
      | with_reducible assumption | with_reducible apply bumpReg_keep | with_reducible apply setSlot_keep
      | with_reducible apply setAxis_keep | refine Keep.snd (by assumption) ?_ | refine Keep.snd3 (by assumption) ?_
      | refine Keep.fst (by assumption) ?_ | with_reducible apply Keep.foldl | with_reducible apply Keep.foldl_snd
      | with_reducible apply Keep.foldl_fst | with_reducible apply Keep.foldl_snd2 | intro _ | split)

theorem queueWrite_keep {r : State} {x0} (x1) (x2) (x3) (hx0 : Keep r x0) : Keep r (queueWrite x0 x1 x2 x3) := by
  unfold queueWrite
  try dsimp only
  repeat' (first | with_reducible assumption | with_reducible apply modSte_keep | intro _ | split)

theorem followMsg_keep {r : State} {x0} (x1) (x2) (hx0 : Keep r x0) : Keep r (followMsg x0 x1 x2) := by
  unfold followMsg
  try dsimp only
  repeat' (first
      | with_reducible assumption | with_reducible apply integFix_keep | with_reducible apply queueWrite_keep
      | with_reducible apply modSte_keep | refine Keep.snd (by assumption) ?_ | refine Keep.snd3 (by assumption) ?_
      | refine Keep.fst (by assumption) ?_ | intro _ | split)

theorem followRecv_keep {r : State} {x0} (x1) (x2) (hx0 : Keep r x0) : Keep r (followRecv x0 x1 x2) := by
  unfold followRecv
  try dsimp only
  repeat' (first
      | with_reducible assumption | with_reducible apply followMsg_keep | with_reducible apply modRdn_keep
      | refine Keep.snd (by assumption) ?_ | refine Keep.snd3 (by assumption) ?_
      | refine Keep.fst (by assumption) ?_ | intro _ | split)

theorem imageTake_keep {r : State} {x0} (hx0 : Keep r x0) : Keep r (imageTake x0) := by
  unfold imageTake
  try dsimp only
  repeat' (first
      | with_reducible assumption | with_reducible apply modRdn_keep | with_reducible apply sendSteer_keep
      | with_reducible apply Keep.foldl | with_reducible apply Keep.foldl_snd | with_reducible apply Keep.foldl_fst
      | with_reducible apply Keep.foldl_snd2 | intro _ | split)

theorem syncReqRecv_keep {r : State} {x0} (hx0 : Keep r x0) : Keep r (syncReqRecv x0) := by
  unfold syncReqRecv
  try dsimp only
  repeat' (first
      | with_reducible assumption | with_reducible apply sendSteer_keep | with_reducible apply modRdn_keep | intro _
      | split)

theorem syncDataRecv_keep {r : State} {x0} (x1) (hx0 : Keep r x0) : Keep r (syncDataRecv x0 x1) := by
  unfold syncDataRecv
  try dsimp only
  repeat' (first
      | with_reducible assumption | with_reducible apply modRdn_keep | with_reducible apply setRegN_keep | intro _
      | split)

theorem syncRefuseRecv_keep {r : State} {x0} (hx0 : Keep r x0) : Keep r (syncRefuseRecv x0) := by
  unfold syncRefuseRecv
  try dsimp only
  repeat' (first
      | with_reducible assumption | with_reducible apply rdnErr_keep | with_reducible apply endSync_keep | split)

theorem syncTimeoutRun_keep {r : State} {x0} (hx0 : Keep r x0) : Keep r (syncTimeoutRun x0) := by
  unfold syncTimeoutRun
  try dsimp only
  repeat' (first
      | with_reducible assumption | with_reducible apply endSync_keep | with_reducible apply modRdn_keep
      | with_reducible apply rdnErr_keep | intro _ | split)

theorem syncApply_keep {r : State} {x0} (hx0 : Keep r x0) : Keep r (syncApply x0) := by
  unfold syncApply
  try dsimp only
  repeat' (first
      | with_reducible assumption | with_reducible apply loadMirrors_keep | with_reducible apply loadAxes_keep
      | with_reducible apply loadSlots_keep | with_reducible apply setAxis_keep | with_reducible apply integFix_keep
      | with_reducible apply setMir_keep | with_reducible apply modSte_keep | with_reducible apply modRdn_keep
      | with_reducible apply followMsg_keep | with_reducible apply endSync_keep | with_reducible apply modFix_keep
      | with_reducible apply accWaitSettle_keep | with_reducible apply autoSave_keep
      | with_reducible apply raiseIrq_keep | with_reducible apply Keep.foldl | with_reducible apply Keep.foldl_snd
      | with_reducible apply Keep.foldl_fst | with_reducible apply Keep.foldl_snd2 | intro _ | split)

theorem yieldCmd_keep {r : State} {x0} (hx0 : Keep r x0) : Keep r (yieldCmd x0).2 := by
  unfold yieldCmd
  try dsimp only
  repeat' (first | with_reducible assumption | with_reducible apply releaseClaim_keep | split)

theorem syncCmd_keep {r : State} {x0} (hx0 : Keep r x0) : Keep r (syncCmd x0).2 := by
  unfold syncCmd
  try dsimp only
  repeat' (first | with_reducible assumption | with_reducible apply requestSync_keep | split)

theorem clearCmd_keep {r : State} {x0} (hx0 : Keep r x0) : Keep r (clearCmd x0).2 := by
  unfold clearCmd
  try dsimp only
  repeat' (first | with_reducible assumption | with_reducible apply leaveYielded_keep | split)

theorem rdnEnable_keep {r : State} {x0} (x1) (hx0 : Keep r x0) : Keep r (rdnEnable x0 x1).2 := by
  unfold rdnEnable
  try dsimp only
  repeat' (first
      | with_reducible assumption | with_reducible apply maybeSync_keep | with_reducible apply modRdn_keep
      | with_reducible apply endSync_keep | intro _ | split)

/-! ## SampleOps -/

theorem sampleDrop_keep {r : State} {x0} (x1) (hx0 : Keep r x0) : Keep r (sampleDrop x0 x1) := by
  unfold sampleDrop
  try dsimp only
  repeat' (first
      | with_reducible assumption | with_reducible apply raiseIrq_keep | with_reducible apply bumpReg_keep | split)

theorem tileAccept_keep {r : State} {x0} (x1) (x2) (hx0 : Keep r x0) : Keep r (tileAccept x0 x1 x2) := by
  unfold tileAccept
  try dsimp only
  repeat' (first | with_reducible assumption | with_reducible apply setTile_keep | split)

theorem tileRestart_keep {r : State} {x0} (x1) (hx0 : Keep r x0) : Keep r (tileRestart x0 x1) := by
  unfold tileRestart
  try dsimp only
  repeat' (first
      | with_reducible assumption | with_reducible apply setAxis_keep | with_reducible apply setSlot_keep
      | with_reducible apply Keep.foldl | with_reducible apply Keep.foldl_snd | with_reducible apply Keep.foldl_fst
      | with_reducible apply Keep.foldl_snd2 | intro _ | split)

theorem tileTaps_keep {r : State} {x0} (x1) (x2) (hx0 : Keep r x0) : Keep r (tileTaps x0 x1 x2) := by
  unfold tileTaps
  try dsimp only
  repeat' (first
      | with_reducible assumption | with_reducible apply modSte_keep | with_reducible apply Keep.foldl
      | with_reducible apply Keep.foldl_snd | with_reducible apply Keep.foldl_fst
      | with_reducible apply Keep.foldl_snd2 | intro _ | split)

theorem applyWrites_keep {r : State} {x0} (x1) (hx0 : Keep r x0) : Keep r (applyWrites x0 x1) := by
  unfold applyWrites
  try dsimp only
  repeat' (first
      | with_reducible assumption | with_reducible apply modSte_keep | with_reducible apply slotPut_keep
      | with_reducible apply setAxis_keep | with_reducible apply sendSteer_keep | with_reducible apply Keep.foldl
      | with_reducible apply Keep.foldl_snd | with_reducible apply Keep.foldl_fst
      | with_reducible apply Keep.foldl_snd2 | intro _ | split)

theorem keepBefore_keep {r : State} {x0} (x1) (hx0 : Keep r x0) : Keep r (keepBefore x0 x1) := by
  unfold keepBefore
  try dsimp only
  repeat' (first
      | with_reducible assumption | with_reducible apply modSte_keep | with_reducible apply Keep.foldl
      | with_reducible apply Keep.foldl_snd | with_reducible apply Keep.foldl_fst
      | with_reducible apply Keep.foldl_snd2 | intro _ | split)

theorem tileLaws_keep {r : State} {x0} (x1) (x2) (hx0 : Keep r x0) : Keep r (tileLaws x0 x1 x2) := by
  unfold tileLaws
  try dsimp only
  repeat' (first
      | with_reducible assumption | with_reducible apply axisStep_keep | with_reducible apply Keep.foldl
      | with_reducible apply Keep.foldl_snd | with_reducible apply Keep.foldl_fst
      | with_reducible apply Keep.foldl_snd2 | intro _ | split)

theorem tile0Before_keep {r : State} {x0} (hx0 : Keep r x0) : Keep r (tile0Before x0) := by
  unfold tile0Before
  try dsimp only
  repeat' (first
      | with_reducible assumption | with_reducible apply doneTick_keep | with_reducible apply syncApply_keep
      | with_reducible apply followTick_keep | with_reducible apply requestSync_keep
      | with_reducible apply groupsTick_keep | with_reducible apply commitTick_keep
      | refine Keep.snd (by assumption) ?_ | refine Keep.snd3 (by assumption) ?_
      | refine Keep.fst (by assumption) ?_ | split)

theorem sendInteg_keep {r : State} {x0} (x1) (x2) (hx0 : Keep r x0) : Keep r (sendInteg x0 x1 x2) := by
  unfold sendInteg
  try dsimp only
  repeat' (first
      | with_reducible assumption | with_reducible apply sendSteer_keep | simp only [↓Keep.upd_iff]
      | with_reducible apply Keep.foldl | with_reducible apply Keep.foldl_snd | with_reducible apply Keep.foldl_fst
      | with_reducible apply Keep.foldl_snd2 | intro _ | split)

theorem tile0After_keep {r : State} {x0} (hx0 : Keep r x0) : Keep r (tile0After x0) := by
  unfold tile0After
  try dsimp only
  repeat' (first
      | with_reducible assumption | with_reducible apply modSte_keep | with_reducible apply sendInteg_keep
      | with_reducible apply sendStatus_keep | intro _ | split)

theorem sampleAccept_keep {r : State} {x0} (x1) (hx0 : Keep r x0) : Keep r (sampleAccept x0 x1) := by
  unfold sampleAccept
  try dsimp only
  repeat' (first
      | with_reducible assumption | with_reducible apply bumpReg_keep | with_reducible apply tileAccept_keep
      | with_reducible apply tileRestart_keep | with_reducible apply raiseIrqArgs_keep
      | with_reducible apply tileTaps_keep | with_reducible apply tile0Before_keep
      | with_reducible apply keepBefore_keep | with_reducible apply applyWrites_keep
      | with_reducible apply tileLaws_keep | with_reducible apply peakTick_keep
      | with_reducible apply settleTick_keep | with_reducible apply tile0After_keep | split)

theorem sampleRun_keep {r : State} {x0} (x1) (hx0 : Keep r x0) : Keep r (sampleRun x0 x1) := by
  unfold sampleRun
  try dsimp only
  repeat' (first
      | with_reducible assumption | with_reducible apply sampleDrop_keep | with_reducible apply sampleAccept_keep
      | split)

theorem missDeadline_keep {r : State} {x0} (x1) (hx0 : Keep r x0) : Keep r (missDeadline x0 x1) := by
  unfold missDeadline
  try dsimp only
  repeat' (first
      | with_reducible assumption | with_reducible apply setSlot_keep | with_reducible apply setAxis_keep
      | with_reducible apply raiseIrqArgs_keep | with_reducible apply bumpReg_keep
      | refine Keep.snd (by assumption) ?_ | refine Keep.snd3 (by assumption) ?_
      | refine Keep.fst (by assumption) ?_ | with_reducible apply Keep.foldl | with_reducible apply Keep.foldl_snd
      | with_reducible apply Keep.foldl_fst | with_reducible apply Keep.foldl_snd2 | intro _ | split)

theorem drydown_keep {r : State} {x0} (x1) (hx0 : Keep r x0) : Keep r (drydown x0 x1) := by
  unfold drydown
  try dsimp only
  repeat' (first
      | with_reducible assumption | with_reducible apply modRdn_keep | with_reducible apply setRegN_keep | intro _
      | split)

theorem actuatorRun_keep {r : State} {x0} (x1) (x2) (hx0 : Keep r x0) : Keep r (actuatorRun x0 x1 x2) := by
  unfold actuatorRun
  try dsimp only
  repeat' (first
      | with_reducible assumption | with_reducible apply missDeadline_keep | with_reducible apply send_keep
      | with_reducible apply wrapReg_keep | with_reducible apply setRegN_keep | with_reducible apply drydown_keep
      | with_reducible apply setTile_keep | with_reducible apply compareTile_keep
      | with_reducible apply sendSteer_keep | with_reducible apply Keep.foldl | with_reducible apply Keep.foldl_snd
      | with_reducible apply Keep.foldl_fst | with_reducible apply Keep.foldl_snd2 | intro _ | split)

theorem tileLostRun_keep {r : State} {x0} (x1) (hx0 : Keep r x0) : Keep r (tileLostRun x0 x1) := by
  unfold tileLostRun
  try dsimp only
  repeat' (first
      | with_reducible assumption | with_reducible apply setTile_keep | with_reducible apply tileCheck_keep
      | with_reducible apply raiseIrqArgs_keep | split)

theorem planeUpRun_keep {r : State} {x0} (x1) (hx0 : Keep r x0) : Keep r (planeUpRun x0 x1) := by
  unfold planeUpRun
  try dsimp only
  repeat' (first
      | with_reducible assumption | with_reducible apply withStatus_keep | with_reducible apply maybeSync_keep
      | with_reducible apply raiseIrq_keep | with_reducible apply modSte_keep | intro _ | split)

theorem planeDown_keep {r : State} {x0} (hx0 : Keep r x0) : Keep r (planeDown x0) := by
  unfold planeDown
  try dsimp only
  repeat' (first
      | with_reducible assumption | with_reducible apply withStatus_keep | with_reducible apply claimPlaneDown_keep
      | with_reducible apply raiseIrq_keep | with_reducible apply modSte_keep | intro _ | split)

theorem planeLaneLossRun_keep {r : State} {x0} (x1) (hx0 : Keep r x0) : Keep r (planeLaneLossRun x0 x1) := by
  unfold planeLaneLossRun
  try dsimp only
  repeat' (first
      | with_reducible assumption | with_reducible apply raiseIrqArgs_keep | with_reducible apply planeDown_keep
      | with_reducible apply modSte_keep | intro _ | split)

theorem planeRetrain_keep {r : State} {x0} (hx0 : Keep r x0) : Keep r (planeRetrain x0) := by
  unfold planeRetrain
  try dsimp only
  repeat' (first
      | with_reducible assumption | with_reducible apply withStatus_keep | with_reducible apply modSte_keep
      | with_reducible apply claimPlaneDown_keep | with_reducible apply raiseIrq_keep | intro _ | split)

theorem migrate_keep {r : State} {x0} (x1) (hx0 : Keep r x0) : Keep r (migrate x0 x1) := by
  unfold migrate
  try dsimp only
  repeat' (first | with_reducible assumption | with_reducible apply moveAxis_keep | split)

theorem lpeHoldCmd_keep {r : State} {x0} (x1) (hx0 : Keep r x0) : Keep r (lpeHoldCmd x0 x1).2 := by
  unfold lpeHoldCmd
  try dsimp only
  repeat' (first
      | with_reducible assumption | with_reducible apply modSte_keep | with_reducible apply setRegFld_keep | intro _
      | split)

theorem lpeDrained_keep {r : State} {x0} (x1) (hx0 : Keep r x0) : Keep r (lpeDrained x0 x1) := by
  unfold lpeDrained
  try dsimp only
  repeat' (first
      | with_reducible assumption | with_reducible apply raiseIrq_keep | with_reducible apply modSte_keep | intro _
      | split)

theorem lpeReleaseCmd_keep {r : State} {x0} (x1) (hx0 : Keep r x0) : Keep r (lpeReleaseCmd x0 x1).2 := by
  unfold lpeReleaseCmd
  try dsimp only
  repeat' (first | with_reducible assumption | with_reducible apply setRegFld_keep | split)

theorem lpeTestCmd_keep {r : State} {x0} (x1) (x2) (hx0 : Keep r x0) : Keep r (lpeTestCmd x0 x1 x2).2 := by
  unfold lpeTestCmd
  try dsimp only
  repeat' (first | with_reducible assumption | with_reducible apply setEng_keep | split)

theorem loopFault_keep {r : State} {x0} (x1) (hx0 : Keep r x0) : Keep r (loopFault x0 x1) := by
  unfold loopFault
  try dsimp only
  repeat' (first | with_reducible assumption | with_reducible apply setEng_keep | split)

theorem slotWriteCmd_keep {r : State} {x0} (x1) (x2) (hx0 : Keep r x0) : Keep r (slotWriteCmd x0 x1 x2).2.2 := by
  unfold slotWriteCmd
  try dsimp only
  repeat' (first | with_reducible assumption | with_reducible apply queueWrite_keep | split)

theorem trimWriteCmd_keep {r : State} {x0} (x1) (x2) (hx0 : Keep r x0) : Keep r (trimWriteCmd x0 x1 x2).2 := by
  unfold trimWriteCmd
  try dsimp only
  repeat' (first
      | with_reducible assumption | with_reducible apply queueWrite_keep | with_reducible apply sendSteer_keep
      | refine Keep.snd (by assumption) ?_ | refine Keep.snd3 (by assumption) ?_
      | refine Keep.fst (by assumption) ?_ | intro _ | split)

theorem tuneGo_keep {r : State} {x0} (hx0 : Keep r x0) : Keep r (tuneGo x0).2 := by
  unfold tuneGo
  try dsimp only
  repeat' (first
      | with_reducible assumption | with_reducible apply setRegN_keep | with_reducible apply modSte_keep
      | refine Keep.snd (by assumption) ?_ | refine Keep.snd3 (by assumption) ?_
      | refine Keep.fst (by assumption) ?_ | intro _ | split)

theorem jogRun_keep {r : State} {x0} (x1) (x2) (x3) (hx0 : Keep r x0) : Keep r (jogRun x0 x1 x2 x3) := by
  unfold jogRun
  try dsimp only
  repeat' (first
      | with_reducible assumption | with_reducible apply modSte_keep | with_reducible apply raiseIrqArgs_keep
      | with_reducible apply setRegFld_keep | refine Keep.snd (by assumption) ?_
      | refine Keep.snd3 (by assumption) ?_ | refine Keep.fst (by assumption) ?_ | intro _ | split)

theorem jogClearCmd_keep {r : State} {x0} (x1) (hx0 : Keep r x0) : Keep r (jogClearCmd x0 x1).2 := by
  unfold jogClearCmd
  try dsimp only
  repeat' (first
      | with_reducible assumption | with_reducible apply modSte_keep | with_reducible apply Keep.foldl
      | with_reducible apply Keep.foldl_snd | with_reducible apply Keep.foldl_fst
      | with_reducible apply Keep.foldl_snd2 | intro _ | split)

end Sys2Proof.Machine
end

