-- ==== Sys2Proof/Laws/KeepLink.lean ====
section
/-!
SUPPORT. `Keep` for each operation of the block: flow transport, link messages and the fast selectors.
-/

namespace Sys2Proof.Machine

set_option linter.all false

/-! ## KftOps -/

theorem kftSend_keep {r : State} {x0} (x1) (x2) (x3) (hx0 : Keep r x0) : Keep r (kftSend x0 x1 x2 x3) := by
  unfold kftSend
  try dsimp only
  repeat' (first
      | with_reducible assumption | with_reducible apply setPort_keep | with_reducible apply send_keep | intro _
      | split)

theorem sendAnswer_keep {r : State} {x0} (x1) (x2) (x3) (hx0 : Keep r x0) : Keep r (sendAnswer x0 x1 x2 x3) := by
  unfold sendAnswer
  try dsimp only
  repeat' (first
      | with_reducible assumption | with_reducible apply kftSend_keep | with_reducible apply setPort_keep | split)

theorem flushOwed_keep {r : State} {x0} (x1) (hx0 : Keep r x0) : Keep r (flushOwed x0 x1) := by
  unfold flushOwed
  try dsimp only
  repeat' (first
      | with_reducible assumption | with_reducible apply setPort_keep | with_reducible apply kftSend_keep
      | with_reducible apply Keep.foldl | with_reducible apply Keep.foldl_snd | with_reducible apply Keep.foldl_fst
      | with_reducible apply Keep.foldl_snd2 | intro _ | split)

theorem kftDrop_keep {r : State} {x0} (x1) (x2) (hx0 : Keep r x0) : Keep r (kftDrop x0 x1 x2) := by
  unfold kftDrop
  try dsimp only
  repeat' (first
      | with_reducible assumption | with_reducible apply raiseIrq_keep | with_reducible apply bumpReg_keep | split)

theorem kftCheck_keep {r : State} {x0} (x1) (x2) (hx0 : Keep r x0) : Keep r (kftCheck x0 x1 x2).2 := by
  unfold kftCheck
  try dsimp only
  repeat' (first
      | with_reducible assumption | with_reducible apply setPort_keep | with_reducible apply kftDrop_keep | intro _
      | split)

theorem sendNak_keep {r : State} {x0} (x1) (x2) (x3) (x4) (x5) (hx0 : Keep r x0) : Keep r (sendNak x0 x1 x2 x3 x4 x5) := by
  unfold sendNak
  try dsimp only
  repeat' (first | with_reducible assumption | with_reducible apply sendAnswer_keep | split)

theorem recordNoWin_keep {r : State} {x0} (x1) (x2) (hx0 : Keep r x0) : Keep r (recordNoWin x0 x1 x2) := by
  unfold recordNoWin
  try dsimp only
  repeat' (first | with_reducible assumption | with_reducible apply setPort_keep | intro _ | split)

theorem setTrack_keep {r : State} {x0} (x1) (hx0 : Keep r x0) : Keep r (setTrack x0 x1) := by
  unfold setTrack
  try dsimp only
  repeat' (first | with_reducible assumption | simp only [↓Keep.upd_iff] | intro _ | split)

theorem sendAck_keep {r : State} {x0} (x1) (hx0 : Keep r x0) : Keep r (sendAck x0 x1) := by
  unfold sendAck
  try dsimp only
  repeat' (first
      | with_reducible assumption | with_reducible apply sendAnswer_keep | with_reducible apply setTrack_keep
      | simp only [↓Keep.upd_iff] | with_reducible apply Keep.foldl | with_reducible apply Keep.foldl_snd
      | with_reducible apply Keep.foldl_fst | with_reducible apply Keep.foldl_snd2 | intro _ | split)

theorem trackAnswer_keep {r : State} {s} (w) (p) (f) (h : Keep r s) : Keep r (trackAnswer s w p f) := by
  unfold trackAnswer
  extract_lets no
  split
  extract_lets s1 gap miss t' s2 s3
  have h1 : Keep r s1 := by
    show Keep r (if _ then _ else _)
    split
    · exact bumpReg_keep _ _ h
    · exact h
  have h3 : Keep r s3 := Keep.foldl (setTrack_keep _ h1) fun s x hs => sendNak_keep _ _ _ _ _ hs
  clear_value s3
  split
  · exact sendAck_keep _ h3
  · exact h3

theorem setWindow_keep {r : State} {x0} (x1) (hx0 : Keep r x0) : Keep r (setWindow x0 x1) := by
  unfold setWindow
  try dsimp only
  repeat' (first | with_reducible assumption | simp only [↓Keep.upd_iff] | intro _ | split)

theorem dropTracks_keep {r : State} {x0} (hx0 : Keep r x0) : Keep r (dropTracks x0) := by
  unfold dropTracks
  try dsimp only
  repeat' (first | with_reducible assumption | simp only [↓Keep.upd_iff] | intro _ | split)

theorem placeSignal_keep {r : State} {x0} (x1) (x2) (x3) (hx0 : Keep r x0) : Keep r (placeSignal x0 x1 x2 x3) := by
  unfold placeSignal
  try dsimp only
  repeat' (first
      | with_reducible assumption | with_reducible apply tokLocal_keep | with_reducible apply tokAdd_keep
      | refine Keep.snd (by assumption) ?_ | refine Keep.snd3 (by assumption) ?_
      | refine Keep.fst (by assumption) ?_ | intro _ | split)

theorem placeFrame_keep {r : State} {s} (w) (p) (f) (h : Keep r s) : Keep r (placeFrame s w p f) := by
  unfold placeFrame
  have hw : Keep r (writeMem s (w.dst + (f.offset.toNat - w.base)) f.payload).2 := writeMem_keep _ _ h
  dsimp only
  generalize writeMem s (w.dst + (f.offset.toNat - w.base)) f.payload = x at hw ⊢
  split
  · exact hw
  · split
    · exact dropTracks_keep (failDesc_keep _ _ _ _ _ _ hw)
    · exact dropTracks_keep (recvRun_keep _ _ (placeSignal_keep _ _ _ (trackAnswer_keep _ _ _ (setWindow_keep _ hw))))

theorem kftDataRun_keep {r : State} {x0} (x1) (x2) (hx0 : Keep r x0) : Keep r (kftDataRun x0 x1 x2) := by
  unfold kftDataRun
  try dsimp only
  repeat' (first
      | with_reducible assumption | with_reducible apply sendNak_keep | with_reducible apply kftDrop_keep
      | with_reducible apply recordNoWin_keep | with_reducible apply placeFrame_keep
      | refine Keep.snd (by assumption) ?_ | refine Keep.snd3 (by assumption) ?_
      | refine Keep.fst (by assumption) ?_ | split)

theorem creditSources_keep {r : State} {x0} (x1) (hx0 : Keep r x0) : Keep r (creditSources x0 x1) := by
  unfold creditSources
  try dsimp only
  repeat' (first
      | with_reducible assumption | with_reducible apply setPort_keep | with_reducible apply sendAnswer_keep
      | with_reducible apply Keep.foldl | with_reducible apply Keep.foldl_snd | with_reducible apply Keep.foldl_fst
      | with_reducible apply Keep.foldl_snd2 | intro _ | split)

theorem ackDelayRun_keep {r : State} {x0} (x1) (hx0 : Keep r x0) : Keep r (ackDelayRun x0 x1) := by
  unfold ackDelayRun
  try dsimp only
  repeat' (first
      | with_reducible assumption | with_reducible apply sendAck_keep | with_reducible apply Keep.foldl
      | with_reducible apply Keep.foldl_snd | with_reducible apply Keep.foldl_fst
      | with_reducible apply Keep.foldl_snd2 | intro _ | split)

theorem tokWriteFor_keep {r : State} {x0} (x1) (x2) (x3) (hx0 : Keep r x0) (hx3 : ∀ y0 y1, Keep r y0 → Keep r (x3 y0 y1)) : Keep r (tokWriteFor x0 x1 x2 x3).2 := by
  unfold tokWriteFor
  try dsimp only
  repeat' (first
      | with_reducible assumption | with_reducible apply hx3 | with_reducible apply raiseIrq_keep
      | with_reducible apply bumpReg_keep | split)

theorem kftTokenRun_keep {r : State} {x0} (x1) (x2) (hx0 : Keep r x0) : Keep r (kftTokenRun x0 x1 x2) := by
  unfold kftTokenRun
  try dsimp only
  repeat' (first
      | with_reducible assumption | with_reducible apply tokWriteFor_keep | with_reducible apply tokSet_keep
      | with_reducible apply tokAdd_keep | with_reducible apply setPort_keep | with_reducible apply sendAnswer_keep
      | refine Keep.snd (by assumption) ?_ | refine Keep.snd3 (by assumption) ?_
      | refine Keep.fst (by assumption) ?_ | intro _ | split)

theorem setTransfer_keep {r : State} {x0} (x1) (hx0 : Keep r x0) : Keep r (setTransfer x0 x1) := by
  unfold setTransfer
  try dsimp only
  repeat' (first | with_reducible assumption | simp only [↓Keep.upd_iff] | intro _ | split)

theorem dropTransfer_keep {r : State} {x0} (x1) (hx0 : Keep r x0) : Keep r (dropTransfer x0 x1) := by
  unfold dropTransfer
  try dsimp only
  repeat' (first | with_reducible assumption | simp only [↓Keep.upd_iff] | intro _ | split)

theorem atmSettle_keep {r : State} {x0} (x1) (x2) (hx0 : Keep r x0) : Keep r (atmSettle x0 x1 x2) := by
  unfold atmSettle
  try dsimp only
  repeat' (first
      | with_reducible assumption | with_reducible apply finish_keep | with_reducible apply setDesc_keep | split)

theorem destFails_keep {r : State} {x0} (x1) (x2) (x3) (x4) (hx0 : Keep r x0) : Keep r (destFails x0 x1 x2 x3 x4).2 := by
  unfold destFails
  try dsimp only
  repeat' (first | with_reducible assumption | with_reducible apply bumpReg_keep | split)

theorem endTransfer_keep {r : State} {x0} (x1) (x2) (hx0 : Keep r x0) : Keep r (endTransfer x0 x1 x2) := by
  unfold endTransfer
  try dsimp only
  repeat' (first
      | with_reducible assumption | with_reducible apply dropTransfer_keep | with_reducible apply atmSettle_keep
      | with_reducible apply destFails_keep | refine Keep.snd (by assumption) ?_
      | refine Keep.snd3 (by assumption) ?_ | refine Keep.fst (by assumption) ?_ | split)

theorem sendDue_keep {r : State} {x0} (x1) (hx0 : Keep r x0) : Keep r (sendDue x0 x1) := by
  unfold sendDue
  try dsimp only
  repeat' (first
      | with_reducible assumption | with_reducible apply endTransfer_keep | with_reducible apply dropTransfer_keep
      | with_reducible apply raiseIrq_keep | with_reducible apply bumpReg_keep | with_reducible apply bump64_keep
      | with_reducible apply kftSend_keep | with_reducible apply setTransfer_keep | simp only [↓Keep.upd_iff]
      | refine Keep.snd (by assumption) ?_ | refine Keep.snd3 (by assumption) ?_
      | refine Keep.fst (by assumption) ?_ | with_reducible apply Keep.foldl | with_reducible apply Keep.foldl_snd
      | with_reducible apply Keep.foldl_fst | with_reducible apply Keep.foldl_snd2 | intro _ | split)

theorem portResume_keep {r : State} {x0} (x1) (hx0 : Keep r x0) : Keep r (portResume x0 x1) := by
  unfold portResume
  try dsimp only
  repeat' (first
      | with_reducible assumption | with_reducible apply flushOwed_keep | with_reducible apply sendDue_keep
      | with_reducible apply Keep.foldl | with_reducible apply Keep.foldl_snd | with_reducible apply Keep.foldl_fst
      | with_reducible apply Keep.foldl_snd2 | intro _ | split)

theorem kftAckRun_keep {r : State} {x0} (x1) (x2) (hx0 : Keep r x0) : Keep r (kftAckRun x0 x1 x2) := by
  unfold kftAckRun
  try dsimp only
  repeat' (first
      | with_reducible assumption | with_reducible apply endTransfer_keep | with_reducible apply setTransfer_keep
      | simp only [↓Keep.upd_iff] | refine Keep.snd (by assumption) ?_ | refine Keep.snd3 (by assumption) ?_
      | refine Keep.fst (by assumption) ?_ | intro _ | split)

theorem kftNakRun_keep {r : State} {x0} (x1) (x2) (hx0 : Keep r x0) : Keep r (kftNakRun x0 x1 x2) := by
  unfold kftNakRun
  try dsimp only
  repeat' (first
      | with_reducible assumption | with_reducible apply bumpReg_keep | with_reducible apply sendDue_keep
      | with_reducible apply setTransfer_keep | with_reducible apply endTransfer_keep | simp only [↓Keep.upd_iff]
      | refine Keep.snd (by assumption) ?_ | refine Keep.snd3 (by assumption) ?_
      | refine Keep.fst (by assumption) ?_ | intro _ | split)

theorem kftCreditRun_keep {r : State} {x0} (x1) (x2) (hx0 : Keep r x0) : Keep r (kftCreditRun x0 x1 x2) := by
  unfold kftCreditRun
  try dsimp only
  repeat' (first
      | with_reducible assumption | with_reducible apply sendDue_keep | with_reducible apply setTransfer_keep
      | simp only [↓Keep.upd_iff] | with_reducible apply Keep.foldl | with_reducible apply Keep.foldl_snd
      | with_reducible apply Keep.foldl_fst | with_reducible apply Keep.foldl_snd2 | intro _ | split)

theorem rtoRun_keep {r : State} {x0} (x1) (hx0 : Keep r x0) : Keep r (rtoRun x0 x1) := by
  unfold rtoRun
  try dsimp only
  repeat' (first
      | with_reducible assumption | with_reducible apply sendDue_keep | with_reducible apply setTransfer_keep
      | simp only [↓Keep.upd_iff] | with_reducible apply Keep.foldl | with_reducible apply Keep.foldl_snd
      | with_reducible apply Keep.foldl_fst | with_reducible apply Keep.foldl_snd2 | intro _ | split)

theorem startTransfer_keep {r : State} {x0} (x1) (x2) (x3) (hx0 : Keep r x0) : Keep r (startTransfer x0 x1 x2 x3).2 := by
  unfold startTransfer
  try dsimp only
  repeat' (first
      | with_reducible assumption | with_reducible apply destFails_keep | with_reducible apply setPort_keep
      | simp only [↓Keep.upd_iff] | refine Keep.snd (by assumption) ?_ | refine Keep.snd3 (by assumption) ?_
      | refine Keep.fst (by assumption) ?_ | split)

theorem destSignal_keep {r : State} {x0} (x1) (x2) (x3) (hx0 : Keep r x0) : Keep r (destSignal x0 x1 x2 x3).2 := by
  unfold destSignal
  try dsimp only
  repeat' (first
      | with_reducible assumption | with_reducible apply sendRegwr_keep | with_reducible apply destFails_keep
      | refine Keep.snd (by assumption) ?_ | refine Keep.snd3 (by assumption) ?_
      | refine Keep.fst (by assumption) ?_ | split)

theorem destWrite_keep {r : State} {x0} (x1) (x2) (x3) (x4) (x5) (hx0 : Keep r x0) : Keep r (destWrite x0 x1 x2 x3 x4 x5).2 := by
  unfold destWrite
  try dsimp only
  repeat' (first
      | with_reducible assumption | with_reducible apply takeTag_keep | with_reducible apply startTxn_keep
      | with_reducible apply destFails_keep | with_reducible apply bump64_keep | refine Keep.snd (by assumption) ?_
      | refine Keep.snd3 (by assumption) ?_ | refine Keep.fst (by assumption) ?_ | split)

theorem atmSegment_keep {r : State} (x0) (x1) {x2} (x3) (hx2 : Keep r x2.2) : Keep r (atmSegment x0 x1 x2 x3).2 := by
  unfold atmSegment
  try dsimp only
  repeat' (first
      | with_reducible assumption | with_reducible apply readMem_keep | with_reducible apply destFails_keep
      | with_reducible apply destWrite_keep | refine Keep.snd (by assumption) ?_
      | refine Keep.snd3 (by assumption) ?_ | refine Keep.fst (by assumption) ?_ | with_reducible apply Keep.foldl
      | with_reducible apply Keep.foldl_snd | with_reducible apply Keep.foldl_fst
      | with_reducible apply Keep.foldl_snd2 | intro _ | split)

theorem atomizeStart_keep {r : State} {x0} (x1) (x2) (hx0 : Keep r x0) : Keep r (atomizeStart x0 x1 x2).2 := by
  unfold atomizeStart
  try dsimp only
  repeat' (first
      | with_reducible assumption | with_reducible apply startTransfer_keep | with_reducible apply Keep.foldl
      | with_reducible apply Keep.foldl_snd | with_reducible apply Keep.foldl_fst
      | with_reducible apply Keep.foldl_snd2 | intro _ | split)

theorem atomizeEnd_keep {r : State} {x0} (x1) (x2) (hx0 : Keep r x0) : Keep r (atomizeEnd x0 x1 x2) := by
  unfold atomizeEnd
  try dsimp only
  repeat' (first
      | with_reducible assumption | with_reducible apply setDesc_keep | with_reducible apply sendDue_keep
      | with_reducible apply atmSettle_keep | refine Keep.snd (by assumption) ?_
      | refine Keep.snd3 (by assumption) ?_ | refine Keep.fst (by assumption) ?_ | with_reducible apply Keep.foldl
      | with_reducible apply Keep.foldl_snd | with_reducible apply Keep.foldl_fst
      | with_reducible apply Keep.foldl_snd2 | intro _ | split)

theorem atomizeRun_keep {r : State} {x0} (x1) (x2) (x3) (hx0 : Keep r x0) : Keep r (atomizeRun x0 x1 x2 x3) := by
  unfold atomizeRun
  try dsimp only
  repeat' (first
      | with_reducible assumption | with_reducible apply atmSegment_keep | with_reducible apply atomizeStart_keep
      | with_reducible apply atomizeEnd_keep | refine Keep.snd (by assumption) ?_
      | refine Keep.snd3 (by assumption) ?_ | refine Keep.fst (by assumption) ?_ | with_reducible apply Keep.foldl
      | with_reducible apply Keep.foldl_snd | with_reducible apply Keep.foldl_fst
      | with_reducible apply Keep.foldl_snd2 | intro _ | split)

theorem atmAnswered_keep {r : State} {x0} (x1) (x2) (x3) (x4) (hx0 : Keep r x0) : Keep r (atmAnswered x0 x1 x2 x3 x4) := by
  unfold atmAnswered
  try dsimp only
  repeat' (first
      | with_reducible assumption | with_reducible apply destFails_keep | with_reducible apply destSignal_keep
      | with_reducible apply atmSettle_keep | refine Keep.snd (by assumption) ?_
      | refine Keep.snd3 (by assumption) ?_ | refine Keep.fst (by assumption) ?_ | intro _ | split)

theorem sendMarker_keep {r : State} {x0} (x1) (x2) (x3) (x4) (x5) (x6) (hx0 : Keep r x0) : Keep r (sendMarker x0 x1 x2 x3 x4 x5 x6) := by
  unfold sendMarker
  try dsimp only
  repeat' (first | with_reducible assumption | with_reducible apply kftSend_keep | split)

theorem sendBranch_keep {r : State} {x0} (x1) (x2) (x3) (hx0 : Keep r x0) : Keep r (sendBranch x0 x1 x2 x3) := by
  unfold sendBranch
  try dsimp only
  repeat' (first | with_reducible assumption | with_reducible apply sendMarker_keep | split)

theorem setChange_keep {r : State} {x0} (x1) (x2) (hx0 : Keep r x0) : Keep r (setChange x0 x1 x2) := by
  unfold setChange
  try dsimp only
  repeat' (first | with_reducible assumption | with_reducible apply setPort_keep | split)

theorem endChange_keep {r : State} {x0} (x1) (x2) (x3) (hx0 : Keep r x0) : Keep r (endChange x0 x1 x2 x3) := by
  unfold endChange
  try dsimp only
  repeat' (first
      | with_reducible assumption | with_reducible apply setChange_keep | with_reducible apply finish_keep
      | refine Keep.snd (by assumption) ?_ | refine Keep.snd3 (by assumption) ?_
      | refine Keep.fst (by assumption) ?_ | split)

theorem changeStart_keep {r : State} {x0} (x1) (x2) (hx0 : Keep r x0) : Keep r (changeStart x0 x1 x2) := by
  unfold changeStart
  try dsimp only
  repeat' (first
      | with_reducible assumption | with_reducible apply sendMarker_keep | with_reducible apply setPort_keep
      | with_reducible apply portResume_keep | with_reducible apply sendBranch_keep
      | with_reducible apply setChange_keep | with_reducible apply endChange_keep | split)

theorem branchRun_keep {r : State} {x0} (x1) (x2) (hx0 : Keep r x0) : Keep r (branchRun x0 x1 x2) := by
  unfold branchRun
  try dsimp only
  repeat' (first
      | with_reducible assumption | with_reducible apply finish_keep | with_reducible apply changeStart_keep
      | with_reducible apply setChange_keep | simp only [↓Keep.upd_iff] | split)

theorem pathReleaseRun_keep {r : State} {x0} (x1) (hx0 : Keep r x0) : Keep r (pathReleaseRun x0 x1) := by
  unfold pathReleaseRun
  try dsimp only
  repeat' (first
      | with_reducible assumption | with_reducible apply changeStart_keep | refine Keep.snd (by assumption) ?_
      | refine Keep.snd3 (by assumption) ?_ | refine Keep.fst (by assumption) ?_ | split)

theorem pathTimeoutRun_keep {r : State} {x0} (x1) (hx0 : Keep r x0) : Keep r (pathTimeoutRun x0 x1) := by
  unfold pathTimeoutRun
  try dsimp only
  repeat' (first
      | with_reducible assumption | with_reducible apply endChange_keep | with_reducible apply raiseIrq_keep
      | refine Keep.snd (by assumption) ?_ | refine Keep.snd3 (by assumption) ?_
      | refine Keep.fst (by assumption) ?_ | split)

theorem moveRx_keep {r : State} {x0} (x1) (x2) (hx0 : Keep r x0) : Keep r (moveRx x0 x1 x2) := by
  unfold moveRx
  try dsimp only
  repeat' (first | with_reducible assumption | with_reducible apply setPort_keep | split)

theorem brTimeoutRun_keep {r : State} {x0} (x1) (hx0 : Keep r x0) : Keep r (brTimeoutRun x0 x1) := by
  unfold brTimeoutRun
  try dsimp only
  repeat' (first
      | with_reducible assumption | with_reducible apply moveRx_keep | with_reducible apply bumpReg_keep
      | with_reducible apply endChange_keep | with_reducible apply raiseIrq_keep
      | refine Keep.snd (by assumption) ?_ | refine Keep.snd3 (by assumption) ?_
      | refine Keep.fst (by assumption) ?_ | split)

theorem branchRepeatRun_keep {r : State} {x0} (x1) (hx0 : Keep r x0) : Keep r (branchRepeatRun x0 x1) := by
  unfold branchRepeatRun
  try dsimp only
  repeat' (first
      | with_reducible assumption | with_reducible apply sendBranch_keep | refine Keep.snd (by assumption) ?_
      | refine Keep.snd3 (by assumption) ?_ | refine Keep.fst (by assumption) ?_ | split)

theorem burstEndRun_keep {r : State} {x0} (x1) (x2) (hx0 : Keep r x0) : Keep r (burstEndRun x0 x1 x2) := by
  unfold burstEndRun
  try dsimp only
  repeat' (first
      | with_reducible assumption | with_reducible apply moveRx_keep | with_reducible apply setPort_keep
      | with_reducible apply sendMarker_keep | with_reducible apply raiseIrq_keep
      | refine Keep.snd (by assumption) ?_ | refine Keep.snd3 (by assumption) ?_
      | refine Keep.fst (by assumption) ?_ | split)

theorem kftBranchRun_keep {r : State} {x0} (x1) (x2) (hx0 : Keep r x0) : Keep r (kftBranchRun x0 x1 x2) := by
  unfold kftBranchRun
  try dsimp only
  repeat' (first
      | with_reducible assumption | with_reducible apply endChange_keep | with_reducible apply setPort_keep
      | with_reducible apply sendBranch_keep | with_reducible apply portResume_keep
      | refine Keep.snd (by assumption) ?_ | refine Keep.snd3 (by assumption) ?_
      | refine Keep.fst (by assumption) ?_ | split)

theorem portTrain_keep {r : State} {x0} (x1) (hx0 : Keep r x0) : Keep r (portTrain x0 x1) := by
  unfold portTrain
  try dsimp only
  repeat' (first | with_reducible assumption | with_reducible apply setPort_keep | split)

theorem portUpRun_keep {r : State} {x0} (x1) (hx0 : Keep r x0) : Keep r (portUpRun x0 x1) := by
  unfold portUpRun
  try dsimp only
  repeat' (first
      | with_reducible assumption | with_reducible apply raiseIrq_keep | with_reducible apply setPort_keep | split)

theorem portLeave_keep {r : State} {x0} (x1) (x2) (hx0 : Keep r x0) : Keep r (portLeave x0 x1 x2) := by
  unfold portLeave
  try dsimp only
  repeat' (first
      | with_reducible assumption | with_reducible apply setPort_keep | with_reducible apply raiseIrq_keep
      | with_reducible apply endChange_keep | with_reducible apply failDesc_keep
      | with_reducible apply closeWindow_keep | with_reducible apply dropTracks_keep
      | with_reducible apply endTransfer_keep | refine Keep.snd (by assumption) ?_
      | refine Keep.snd3 (by assumption) ?_ | refine Keep.fst (by assumption) ?_ | with_reducible apply Keep.foldl
      | with_reducible apply Keep.foldl_snd | with_reducible apply Keep.foldl_fst
      | with_reducible apply Keep.foldl_snd2 | intro _ | split)

theorem portDownRun_keep {r : State} {x0} (x1) (hx0 : Keep r x0) : Keep r (portDownRun x0 x1) := by
  unfold portDownRun
  try dsimp only
  repeat' (first | with_reducible assumption | with_reducible apply portLeave_keep | split)

theorem fppTestCmd_keep {r : State} {x0} (x1) (x2) (hx0 : Keep r x0) : Keep r (fppTestCmd x0 x1 x2).2 := by
  unfold fppTestCmd
  try dsimp only
  repeat' (first
      | with_reducible assumption | with_reducible apply setPort_keep | with_reducible apply portTrain_keep | split)

/-! ## LinkRx -/

theorem poisonFrom_keep {r : State} {x0} (x1) (hx0 : Keep r x0) : Keep r (poisonFrom x0 x1) := by
  unfold poisonFrom
  try dsimp only
  repeat' (first
      | with_reducible assumption | with_reducible apply tokPoison_keep | with_reducible apply Keep.foldl
      | with_reducible apply Keep.foldl_snd | with_reducible apply Keep.foldl_fst
      | with_reducible apply Keep.foldl_snd2 | intro _ | split)

theorem answered_keep {r : State} {x0} (x1) (x2) (x3) (hx0 : Keep r x0) : Keep r (answered x0 x1 x2 x3) := by
  unfold answered
  try dsimp only
  repeat' (first
      | with_reducible assumption | with_reducible apply atmAnswered_keep | with_reducible apply endOk_keep
      | with_reducible apply failDesc_keep | with_reducible apply writeMem_keep
      | with_reducible apply settleRemote_keep | with_reducible apply mirrorFailed_keep
      | with_reducible apply bump64_keep | refine Keep.snd (by assumption) ?_ | refine Keep.snd3 (by assumption) ?_
      | refine Keep.fst (by assumption) ?_ | split)

theorem endTxn_keep {r : State} {x0} (x1) (x2) (x3) (hx0 : Keep r x0) : Keep r (endTxn x0 x1 x2 x3) := by
  unfold endTxn
  try dsimp only
  repeat' (first
      | with_reducible assumption | with_reducible apply answered_keep | simp only [↓Keep.upd_iff] | intro _
      | split)

theorem reachLost_keep {r : State} {x0} (x1) (hx0 : Keep r x0) : Keep r (reachLost x0 x1) := by
  unfold reachLost
  try dsimp only
  repeat' (first
      | with_reducible assumption | with_reducible apply poisonFrom_keep | with_reducible apply endTxn_keep
      | with_reducible apply Keep.foldl | with_reducible apply Keep.foldl_snd | with_reducible apply Keep.foldl_fst
      | with_reducible apply Keep.foldl_snd2 | intro _ | split)

theorem dispatchTxn_keep {r : State} {x0} (x1) (hx0 : Keep r x0) : Keep r (dispatchTxn x0 x1) := by
  unfold dispatchTxn
  try dsimp only
  repeat' (first
      | with_reducible assumption | with_reducible apply endTxn_keep | with_reducible apply sendMsg_keep
      | simp only [↓Keep.upd_iff] | refine Keep.snd (by assumption) ?_ | refine Keep.snd3 (by assumption) ?_
      | refine Keep.fst (by assumption) ?_ | intro _ | split)

theorem dispatchHeld_keep {r : State} {x0} (x1) (hx0 : Keep r x0) : Keep r (dispatchHeld x0 x1) := by
  unfold dispatchHeld
  try dsimp only
  repeat' (first
      | with_reducible assumption | with_reducible apply dispatchTxn_keep | with_reducible apply Keep.foldl
      | with_reducible apply Keep.foldl_snd | with_reducible apply Keep.foldl_fst
      | with_reducible apply Keep.foldl_snd2 | intro _ | split)

theorem routeCheck_keep {r : State} {x0} (x1) (hx0 : Keep r x0) : Keep r (routeCheck x0 x1) := by
  unfold routeCheck
  try dsimp only
  repeat' (first
      | with_reducible assumption | with_reducible apply raiseIrq_keep | with_reducible apply reachLost_keep
      | simp only [↓Keep.upd_iff] | intro _ | split)

theorem routesChanged_keep {r : State} {x0} (hx0 : Keep r x0) : Keep r (routesChanged x0) := by
  unfold routesChanged
  try dsimp only
  repeat' (first
      | with_reducible assumption | with_reducible apply routeCheck_keep | with_reducible apply Keep.foldl
      | with_reducible apply Keep.foldl_snd | with_reducible apply Keep.foldl_fst
      | with_reducible apply Keep.foldl_snd2 | intro _ | split)

theorem routeDrainRun_keep {r : State} {x0} (x1) (hx0 : Keep r x0) : Keep r (routeDrainRun x0 x1) := by
  unfold routeDrainRun
  try dsimp only
  repeat' (first
      | with_reducible assumption | with_reducible apply dispatchHeld_keep | simp only [↓Keep.upd_iff] | intro _
      | split)

theorem pendingRouteRun_keep {r : State} {x0} (x1) (hx0 : Keep r x0) : Keep r (pendingRouteRun x0 x1) := by
  unfold pendingRouteRun
  try dsimp only
  repeat' (first | with_reducible assumption | with_reducible apply dispatchHeld_keep | intro _ | split)

theorem positionLossRun_keep {r : State} {x0} (hx0 : Keep r x0) : Keep r (positionLossRun x0) := by
  unfold positionLossRun
  try dsimp only
  repeat' (first
      | with_reducible assumption | with_reducible apply reachLost_keep | with_reducible apply event_keep
      | simp only [↓Keep.upd_iff] | with_reducible apply Keep.foldl | with_reducible apply Keep.foldl_snd
      | with_reducible apply Keep.foldl_fst | with_reducible apply Keep.foldl_snd2 | intro _ | split)

theorem forwardMsg_keep {r : State} {x0} (x1) (x2) (x3) (hx0 : Keep r x0) : Keep r (forwardMsg x0 x1 x2 x3) := by
  unfold forwardMsg
  try dsimp only
  repeat' (first
      | with_reducible assumption | with_reducible apply sendMsg_keep | with_reducible apply answerMsg_keep
      | simp only [↓Keep.upd_iff] | refine Keep.snd (by assumption) ?_ | refine Keep.snd3 (by assumption) ?_
      | refine Keep.fst (by assumption) ?_ | intro _ | split)

theorem oweCredits_keep {r : State} {x0} (x1) (x2) (hx0 : Keep r x0) : Keep r (oweCredits x0 x1 x2) := by
  unfold oweCredits
  try dsimp only
  repeat' (first | with_reducible assumption | with_reducible apply setLink_keep | intro _ | split)

theorem steerArrived_keep {r : State} {x0} (x1) (hx0 : Keep r x0) : Keep r (steerArrived x0 x1) := by
  unfold steerArrived
  try dsimp only
  repeat' (first | with_reducible assumption | with_reducible apply setLink_keep | intro _ | split)

theorem creditReturnRun_keep {r : State} {x0} (x1) (hx0 : Keep r x0) : Keep r (creditReturnRun x0 x1) := by
  unfold creditReturnRun
  try dsimp only
  repeat' (first
      | with_reducible assumption | with_reducible apply sendMsg_keep | with_reducible apply setLink_keep | split)

theorem sendSizes_keep {r : State} {x0} (x1) (hx0 : Keep r x0) : Keep r (sendSizes x0 x1) := by
  unfold sendSizes
  try dsimp only
  repeat' (first
      | with_reducible assumption | with_reducible apply sendMsg_keep | with_reducible apply Keep.foldl
      | with_reducible apply Keep.foldl_snd | with_reducible apply Keep.foldl_fst
      | with_reducible apply Keep.foldl_snd2 | intro _ | split)

theorem linkCreditRun_keep {r : State} {x0} (x1) (x2) (hx0 : Keep r x0) : Keep r (linkCreditRun x0 x1 x2) := by
  unfold linkCreditRun
  try dsimp only
  repeat' (first
      | with_reducible assumption | with_reducible apply flushLink_keep | with_reducible apply setLink_keep
      | with_reducible apply Keep.foldl | with_reducible apply Keep.foldl_snd | with_reducible apply Keep.foldl_fst
      | with_reducible apply Keep.foldl_snd2 | intro _ | split)

theorem partCfgCmd_keep {r : State} {x0} (x1) (x2) (hx0 : Keep r x0) : Keep r (partCfgCmd x0 x1 x2).2 := by
  unfold partCfgCmd
  try dsimp only
  repeat' (first
      | with_reducible assumption | with_reducible apply sendSizes_keep | with_reducible apply setLink_keep
      | with_reducible apply Keep.foldl | with_reducible apply Keep.foldl_snd | with_reducible apply Keep.foldl_fst
      | with_reducible apply Keep.foldl_snd2 | intro _ | split)

theorem linkIdleRun_keep {r : State} {x0} (x1) (hx0 : Keep r x0) : Keep r (linkIdleRun x0 x1) := by
  unfold linkIdleRun
  try dsimp only
  repeat' (first | with_reducible assumption | split)

theorem reachSendRun_keep {r : State} {x0} (hx0 : Keep r x0) : Keep r (reachSendRun x0) := by
  unfold reachSendRun
  try dsimp only
  repeat' (first
      | with_reducible assumption | with_reducible apply sendMsg_keep | with_reducible apply Keep.foldl
      | with_reducible apply Keep.foldl_snd | with_reducible apply Keep.foldl_fst
      | with_reducible apply Keep.foldl_snd2 | intro _ | split)

theorem reachRun_keep {r : State} {x0} (x1) (x2) (hx0 : Keep r x0) : Keep r (reachRun x0 x1 x2) := by
  unfold reachRun
  try dsimp only
  repeat' (first
      | with_reducible assumption | with_reducible apply routesChanged_keep | simp only [↓Keep.upd_iff] | intro _
      | split)

theorem startRetrain_keep {r : State} {x0} (x1) (x2) (hx0 : Keep r x0) : Keep r (startRetrain x0 x1 x2) := by
  unfold startRetrain
  try dsimp only
  repeat' (first | with_reducible assumption | with_reducible apply setLink_keep | split)

theorem replayLink_keep {r : State} {x0} (x1) (hx0 : Keep r x0) : Keep r (replayLink x0 x1) := by
  unfold replayLink
  try dsimp only
  repeat' (first
      | with_reducible assumption | with_reducible apply send_keep | with_reducible apply setLink_keep
      | with_reducible apply raiseIrq_keep | with_reducible apply bumpReg_keep
      | with_reducible apply startRetrain_keep | refine Keep.snd (by assumption) ?_
      | refine Keep.snd3 (by assumption) ?_ | refine Keep.fst (by assumption) ?_ | split)

theorem fecBlockRun_keep {r : State} {x0} (x1) (x2) (hx0 : Keep r x0) : Keep r (fecBlockRun x0 x1 x2) := by
  unfold fecBlockRun
  try dsimp only
  repeat' (first
      | with_reducible assumption | with_reducible apply bumpReg_keep | with_reducible apply send_keep
      | with_reducible apply setLink_keep | with_reducible apply replayLink_keep
      | with_reducible apply flushLink_keep | split)

theorem replayTimeoutRun_keep {r : State} {x0} (x1) (hx0 : Keep r x0) : Keep r (replayTimeoutRun x0 x1) := by
  unfold replayTimeoutRun
  try dsimp only
  repeat' (first | with_reducible assumption | with_reducible apply replayLink_keep | split)

theorem resendLost_keep {r : State} {x0} (x1) (hx0 : Keep r x0) : Keep r (resendLost x0 x1) := by
  unfold resendLost
  try dsimp only
  repeat' (first
      | with_reducible assumption | with_reducible apply dispatchTxn_keep | with_reducible apply sendMsg_keep
      | refine Keep.snd (by assumption) ?_ | refine Keep.snd3 (by assumption) ?_
      | refine Keep.fst (by assumption) ?_ | intro _ | split)

theorem loseLink_keep {r : State} {x0} (x1) (x2) (hx0 : Keep r x0) : Keep r (loseLink x0 x1 x2) := by
  unfold loseLink
  try dsimp only
  repeat' (first
      | with_reducible assumption | with_reducible apply setLink_keep | with_reducible apply raiseIrq_keep
      | with_reducible apply bumpReg_keep | with_reducible apply partnerLinksLost_keep
      | with_reducible apply routesChanged_keep | with_reducible apply resendLost_keep
      | with_reducible apply Keep.foldl | with_reducible apply Keep.foldl_snd | with_reducible apply Keep.foldl_fst
      | with_reducible apply Keep.foldl_snd2 | intro _ | split)

theorem laneFailRun_keep {r : State} {x0} (x1) (x2) (hx0 : Keep r x0) : Keep r (laneFailRun x0 x1 x2) := by
  unfold laneFailRun
  try dsimp only
  repeat' (first
      | with_reducible assumption | with_reducible apply loseLink_keep | with_reducible apply setLink_keep | split)

theorem retrainDoneRun_keep {r : State} {x0} (x1) (x2) (hx0 : Keep r x0) : Keep r (retrainDoneRun x0 x1 x2) := by
  unfold retrainDoneRun
  try dsimp only
  repeat' (first
      | with_reducible assumption | with_reducible apply loseLink_keep | with_reducible apply setLink_keep
      | with_reducible apply raiseIrq_keep | with_reducible apply bumpReg_keep | with_reducible apply send_keep
      | with_reducible apply flushLink_keep | refine Keep.snd (by assumption) ?_
      | refine Keep.snd3 (by assumption) ?_ | refine Keep.fst (by assumption) ?_ | split)

theorem retrainTimeoutRun_keep {r : State} {x0} (x1) (hx0 : Keep r x0) : Keep r (retrainTimeoutRun x0 x1) := by
  unfold retrainTimeoutRun
  try dsimp only
  repeat' (first | with_reducible assumption | with_reducible apply loseLink_keep | split)

theorem linkLossRun_keep {r : State} {x0} (x1) (hx0 : Keep r x0) : Keep r (linkLossRun x0 x1) := by
  unfold linkLossRun
  try dsimp only
  repeat' (first
      | with_reducible assumption | with_reducible apply loseLink_keep | refine Keep.snd (by assumption) ?_
      | refine Keep.snd3 (by assumption) ?_ | refine Keep.fst (by assumption) ?_ | split)

theorem lnkWidenCmd_keep {r : State} {x0} (x1) (hx0 : Keep r x0) : Keep r (lnkWidenCmd x0 x1).2 := by
  unfold lnkWidenCmd
  try dsimp only
  repeat' (first | with_reducible assumption | with_reducible apply startRetrain_keep | split)

theorem trainingAttemptRun_keep {r : State} {x0} (x1) (hx0 : Keep r x0) : Keep r (trainingAttemptRun x0 x1) := by
  unfold trainingAttemptRun
  try dsimp only
  repeat' (first
      | with_reducible assumption | with_reducible apply send_keep | with_reducible apply setLink_keep | split)

theorem patternRun_keep {r : State} {x0} (x1) (hx0 : Keep r x0) : Keep r (patternRun x0 x1) := by
  unfold patternRun
  try dsimp only
  repeat' (first
      | with_reducible assumption | with_reducible apply send_keep | with_reducible apply setLink_keep | split)

theorem trainingDoneRun_keep {r : State} {x0} (x1) (x2) (hx0 : Keep r x0) : Keep r (trainingDoneRun x0 x1 x2) := by
  unfold trainingDoneRun
  try dsimp only
  repeat' (first
      | with_reducible assumption | with_reducible apply setLink_keep | with_reducible apply send_keep | split)

theorem miswire_keep {r : State} {x0} (x1) (hx0 : Keep r x0) : Keep r (miswire x0 x1) := by
  unfold miswire
  try dsimp only
  repeat' (first
      | with_reducible assumption | with_reducible apply setLink_keep | with_reducible apply setRegN_keep
      | with_reducible apply raiseIrqArgs_keep | split)

theorem linkUp_keep {r : State} {x0} (x1) (hx0 : Keep r x0) : Keep r (linkUp x0 x1) := by
  unfold linkUp
  try dsimp only
  repeat' (first
      | with_reducible assumption | with_reducible apply setLink_keep | with_reducible apply routesChanged_keep
      | with_reducible apply sendSizes_keep | with_reducible apply raiseIrq_keep
      | with_reducible apply withStatus_keep | with_reducible apply partnerLinkBack_keep | split)

theorem initRun_keep {r : State} {x0} (x1) (x2) (hx0 : Keep r x0) : Keep r (initRun x0 x1 x2) := by
  unfold initRun
  try dsimp only
  repeat' (first
      | with_reducible assumption | with_reducible apply setLink_keep | with_reducible apply send_keep
      | with_reducible apply miswire_keep | with_reducible apply linkUp_keep | refine Keep.snd (by assumption) ?_
      | refine Keep.snd3 (by assumption) ?_ | refine Keep.fst (by assumption) ?_ | split)

theorem serveAccess_keep {r : State} {x0} (x1) (x2) (x3) (x4) (hx0 : Keep r x0) : Keep r (serveAccess x0 x1 x2 x3 x4) := by
  unfold serveAccess
  try dsimp only
  repeat' (first
      | with_reducible assumption | with_reducible apply answerMsg_keep | with_reducible apply wakeAll_keep
      | with_reducible apply writeMem_keep | with_reducible apply readMem_keep | simp only [↓Keep.upd_iff]
      | refine Keep.snd (by assumption) ?_ | refine Keep.snd3 (by assumption) ?_
      | refine Keep.fst (by assumption) ?_ | split)

theorem linkWriteRun_keep {r : State} {x0} (x1) (x2) (hx0 : Keep r x0) : Keep r (linkWriteRun x0 x1 x2) := by
  unfold linkWriteRun
  try dsimp only
  repeat' (first
      | with_reducible assumption | with_reducible apply oweCredits_keep | with_reducible apply serveAccess_keep
      | with_reducible apply forwardMsg_keep | split)

theorem linkReadRun_keep {r : State} {x0} (x1) (x2) (x3) (hx0 : Keep r x0) : Keep r (linkReadRun x0 x1 x2 x3) := by
  unfold linkReadRun
  try dsimp only
  repeat' (first
      | with_reducible assumption | with_reducible apply oweCredits_keep | with_reducible apply serveAccess_keep
      | with_reducible apply forwardMsg_keep | split)

theorem responseRun_keep {r : State} {x0} (x1) (x2) (x3) (hx0 : Keep r x0) : Keep r (responseRun x0 x1 x2 x3) := by
  unfold responseRun
  try dsimp only
  repeat' (first
      | with_reducible assumption | with_reducible apply oweCredits_keep | with_reducible apply forwardMsg_keep
      | with_reducible apply endTxn_keep | refine Keep.snd (by assumption) ?_ | refine Keep.snd3 (by assumption) ?_
      | refine Keep.fst (by assumption) ?_ | intro _ | split)

theorem heldResumeRun_keep {r : State} {x0} (hx0 : Keep r x0) : Keep r (heldResumeRun x0) := by
  unfold heldResumeRun
  try dsimp only
  repeat' (first
      | with_reducible assumption | with_reducible apply copyRun_keep | with_reducible apply serveAccess_keep
      | simp only [↓Keep.upd_iff] | simp only [↓Keep.updMem_iff] | refine Keep.snd (by assumption) ?_
      | refine Keep.snd3 (by assumption) ?_ | refine Keep.fst (by assumption) ?_ | with_reducible apply Keep.foldl
      | with_reducible apply Keep.foldl_snd | with_reducible apply Keep.foldl_fst
      | with_reducible apply Keep.foldl_snd2 | intro _ | split)

theorem lnkTestCmd_keep {r : State} {x0} (x1) (x2) (hx0 : Keep r x0) : Keep r (lnkTestCmd x0 x1 x2).2 := by
  unfold lnkTestCmd
  try dsimp only
  repeat' (first | with_reducible assumption | with_reducible apply setLink_keep | split)

/-! ## SelOps -/

theorem conversionRun_keep {r : State} {x0} (x1) (x2) (x3) (hx0 : Keep r x0) : Keep r (conversionRun x0 x1 x2 x3) := by
  unfold conversionRun
  try dsimp only
  repeat' (first
      | with_reducible assumption | with_reducible apply setChannel_keep | with_reducible apply raiseIrq_keep
      | with_reducible apply bumpReg_keep | split)

theorem ffChange_keep {r : State} {x0} (x1) (x2) (hx0 : Keep r x0) (hx2 : ∀ y0, Keep r y0 → Keep r (x2 y0)) : Keep r (ffChange x0 x1 x2) := by
  unfold ffChange
  try dsimp only
  repeat' (first | with_reducible assumption | with_reducible apply hx2 | with_reducible apply setLoop_keep | split)

theorem loopEnter_keep {r : State} {x0} (x1) (x2) (x3) (hx0 : Keep r x0) : Keep r (loopEnter x0 x1 x2 x3) := by
  unfold loopEnter
  try dsimp only
  repeat' (first | with_reducible assumption | with_reducible apply setLoop_keep | split)

theorem startReacq_keep {r : State} {x0} (x1) (hx0 : Keep r x0) : Keep r (startReacq x0 x1) := by
  unfold startReacq
  try dsimp only
  repeat' (first | with_reducible assumption | with_reducible apply setLoop_keep | split)

theorem reacqFailed_keep {r : State} {x0} (x1) (hx0 : Keep r x0) : Keep r (reacqFailed x0 x1) := by
  unfold reacqFailed
  try dsimp only
  repeat' (first
      | with_reducible assumption | with_reducible apply startReacq_keep | with_reducible apply setLoop_keep
      | with_reducible apply raiseIrqArgs_keep | split)

theorem wrongLock_keep {r : State} {x0} (x1) (x2) (hx0 : Keep r x0) : Keep r (wrongLock x0 x1 x2) := by
  unfold wrongLock
  try dsimp only
  repeat' (first
      | with_reducible assumption | with_reducible apply setLoop_keep | with_reducible apply raiseIrqArgs_keep
      | with_reducible apply reacqFailed_keep | with_reducible apply startReacq_keep | split)

theorem loopReacqCmd_keep {r : State} {x0} (x1) (hx0 : Keep r x0) : Keep r (loopReacqCmd x0 x1).2 := by
  unfold loopReacqCmd
  try dsimp only
  repeat' (first
      | with_reducible assumption | with_reducible apply startReacq_keep | with_reducible apply setLoop_keep
      | refine Keep.snd (by assumption) ?_ | refine Keep.snd3 (by assumption) ?_
      | refine Keep.fst (by assumption) ?_ | split)

theorem darkTimeoutRun_keep {r : State} {x0} (x1) (hx0 : Keep r x0) : Keep r (darkTimeoutRun x0 x1) := by
  unfold darkTimeoutRun
  try dsimp only
  repeat' (first | with_reducible assumption | with_reducible apply reacqFailed_keep | split)

theorem rampTick_keep {r : State} {x0} (x1) (x2) (hx0 : Keep r x0) : Keep r (rampTick x0 x1 x2) := by
  unfold rampTick
  try dsimp only
  repeat' (first
      | with_reducible assumption | with_reducible apply loopEnter_keep | with_reducible apply reacqFailed_keep
      | with_reducible apply setLoop_keep | split)

theorem heaterRun_keep {r : State} {x0} (x1) (x2) (x3) (x4) (hx0 : Keep r x0) : Keep r (heaterRun x0 x1 x2 x3 x4) := by
  unfold heaterRun
  try dsimp only
  repeat' (first
      | with_reducible assumption | with_reducible apply setLoop_keep | with_reducible apply rampTick_keep | split)

theorem lockSettle_keep {r : State} {x0} (x1) (hx0 : Keep r x0) : Keep r (lockSettle x0 x1) := by
  unfold lockSettle
  try dsimp only
  repeat' (first | with_reducible assumption | with_reducible apply loopEnter_keep | split)

theorem wrongChecks_keep {r : State} {x0} (x1) (hx0 : Keep r x0) : Keep r (wrongChecks x0 x1) := by
  unfold wrongChecks
  try dsimp only
  repeat' (first | with_reducible assumption | with_reducible apply wrongLock_keep | split)

theorem periodGood_keep {r : State} {x0} (x1) (x2) (hx0 : Keep r x0) : Keep r (periodGood x0 x1 x2) := by
  unfold periodGood
  try dsimp only
  repeat' (first
      | with_reducible assumption | with_reducible apply wrongChecks_keep | with_reducible apply setLoop_keep
      | with_reducible apply lockSettle_keep | intro _ | split)

theorem periodRun_keep {r : State} {x0} (x1) (x2) (x3) (hx0 : Keep r x0) : Keep r (periodRun x0 x1 x2 x3) := by
  unfold periodRun
  try dsimp only
  repeat' (first
      | with_reducible assumption | with_reducible apply wrongChecks_keep | with_reducible apply setLoop_keep
      | with_reducible apply periodGood_keep | split)

theorem pilotStartRun_keep {r : State} {x0} (x1) (hx0 : Keep r x0) : Keep r (pilotStartRun x0 x1) := by
  unfold pilotStartRun
  try dsimp only
  repeat' (first | with_reducible assumption | with_reducible apply setLoop_keep | split)

theorem pilotDoneRun_keep {r : State} {x0} (x1) (x2) (hx0 : Keep r x0) : Keep r (pilotDoneRun x0 x1 x2) := by
  unfold pilotDoneRun
  try dsimp only
  repeat' (first
      | with_reducible assumption | with_reducible apply setLoop_keep | with_reducible apply wrongLock_keep
      | with_reducible apply lockSettle_keep | with_reducible apply Keep.foldl | with_reducible apply Keep.foldl_snd
      | with_reducible apply Keep.foldl_fst | with_reducible apply Keep.foldl_snd2 | intro _ | split)

theorem scanStart_keep {r : State} {x0} (x1) (x2) (hx0 : Keep r x0) : Keep r (scanStart x0 x1 x2) := by
  unfold scanStart
  try dsimp only
  repeat' (first | with_reducible assumption | with_reducible apply setLoop_keep | split)

theorem portScans_keep {r : State} {x0} (x1) (hx0 : Keep r x0) : Keep r (portScans x0 x1) := by
  unfold portScans
  try dsimp only
  repeat' (first
      | with_reducible assumption | with_reducible apply scanStart_keep | with_reducible apply Keep.foldl
      | with_reducible apply Keep.foldl_snd | with_reducible apply Keep.foldl_fst
      | with_reducible apply Keep.foldl_snd2 | intro _ | split)

theorem scanDoneRun_keep {r s : State} (l) (v) (h : Keep r s) : Keep r (scanDoneRun s l v) := by
  unfold scanDoneRun
  split
  · exact h
  extract_lets +onlyGivenNames p
  split
  rename_i ok x0 e0
  extract_lets +onlyGivenNames x s0 s1
  have h1 : Keep r s1 := by
    unfold s1
    split
    · exact loopEnter_keep _ _ _ h
    · have g := orReg_keep Reg.CAL_FAIL_PORTS (toWord (2 ^ p)) h
      try dsimp only
      split
      · exact loopEnter_keep _ _ _ g
      · exact setLoop_keep _ _ g
  have h2 : Keep r (if tget (fun _ => false) s1.sel.inserted p then autoSave s1 else s1) := by
    split
    · exact autoSave_keep h1
    · exact h1
  clear_value s1
  dsimp only
  split
  · exact Keep.upd h1
  · generalize (if tget (fun _ => false) s1.sel.inserted p then autoSave s1 else s1) = s2 at h2 ⊢
    split
    · exact h2
    · exact portTrain_keep _ h2

theorem clearStored_keep {r : State} {x0} (x1) (hx0 : Keep r x0) : Keep r (clearStored x0 x1) := by
  unfold clearStored
  try dsimp only
  repeat' (first
      | with_reducible assumption | with_reducible apply setLoop_keep | with_reducible apply Keep.foldl
      | with_reducible apply Keep.foldl_snd | with_reducible apply Keep.foldl_fst
      | with_reducible apply Keep.foldl_snd2 | intro _ | split)

theorem cageInsertRun_keep {r : State} {x0} (x1) (x2) (hx0 : Keep r x0) : Keep r (cageInsertRun x0 x1 x2) := by
  unfold cageInsertRun
  try dsimp only
  repeat' (first
      | with_reducible assumption | with_reducible apply raiseIrq_keep | with_reducible apply clearStored_keep
      | with_reducible apply portScans_keep | simp only [↓Keep.upd_iff] | intro _ | split)

theorem cageRemoveRun_keep {r : State} {x0} (x1) (hx0 : Keep r x0) : Keep r (cageRemoveRun x0 x1) := by
  unfold cageRemoveRun
  try dsimp only
  repeat' (first
      | with_reducible assumption | with_reducible apply setLoop_keep | with_reducible apply orReg_keep
      | with_reducible apply raiseIrq_keep | with_reducible apply portLeave_keep | simp only [↓Keep.upd_iff]
      | with_reducible apply Keep.foldl | with_reducible apply Keep.foldl_snd | with_reducible apply Keep.foldl_fst
      | with_reducible apply Keep.foldl_snd2 | intro _ | split)

theorem fselForceCmd_keep {r : State} {x0} (x1) (x2) (hx0 : Keep r x0) : Keep r (fselForceCmd x0 x1 x2).2 := by
  unfold fselForceCmd
  try dsimp only
  repeat' (first
      | with_reducible assumption | with_reducible apply portTrain_keep | with_reducible apply setReg_keep | split)

theorem fppEnableCmd_keep {r : State} {x0} (x1) (x2) (hx0 : Keep r x0) : Keep r (fppEnableCmd x0 x1 x2) := by
  unfold fppEnableCmd
  try dsimp only
  repeat' (first
      | with_reducible assumption | with_reducible apply setRegFld_keep | with_reducible apply portScans_keep
      | with_reducible apply portLeave_keep | split)

theorem loopEnableCmd_keep {r : State} {x0} (x1) (x2) (hx0 : Keep r x0) : Keep r (loopEnableCmd x0 x1 x2) := by
  unfold loopEnableCmd
  try dsimp only
  repeat' (first
      | with_reducible assumption | with_reducible apply setLoop_keep | with_reducible apply loopEnter_keep | split)

theorem fslHoldCmd_keep {r : State} {x0} (x1) (x2) (hx0 : Keep r x0) : Keep r (fslHoldCmd x0 x1 x2) := by
  unfold fslHoldCmd
  try dsimp only
  repeat' (first
      | with_reducible assumption | with_reducible apply setRegFld_keep | with_reducible apply setLoop_keep
      | refine Keep.snd (by assumption) ?_ | refine Keep.snd3 (by assumption) ?_
      | refine Keep.fst (by assumption) ?_ | with_reducible apply Keep.foldl | with_reducible apply Keep.foldl_snd
      | with_reducible apply Keep.foldl_fst | with_reducible apply Keep.foldl_snd2 | intro _ | split)

theorem ffParamCmd_keep {r : State} {x0} (x1) (x2) (x3) (hx0 : Keep r x0) : Keep r (ffParamCmd x0 x1 x2 x3).2.2 := by
  unfold ffParamCmd
  try dsimp only
  repeat' (first
      | with_reducible assumption | with_reducible apply setLoop_keep | with_reducible apply ffChange_keep
      | with_reducible apply setReg_keep | refine Keep.snd (by assumption) ?_ | refine Keep.snd3 (by assumption) ?_
      | refine Keep.fst (by assumption) ?_ | with_reducible apply Keep.foldl | with_reducible apply Keep.foldl_snd
      | with_reducible apply Keep.foldl_fst | with_reducible apply Keep.foldl_snd2 | intro _ | split)

theorem modCal_keep {r : State} {x0} (x1) (hx0 : Keep r x0) : Keep r (modCal x0 x1) := by
  unfold modCal
  try dsimp only
  repeat' (first | with_reducible assumption | simp only [↓Keep.upd_iff] | split)

theorem offsetChannel_keep {r : State} {x0} (x1) (x2) (hx0 : Keep r x0) : Keep r (offsetChannel x0 x1 x2).2 := by
  unfold offsetChannel
  try dsimp only
  repeat' (first
      | with_reducible assumption | with_reducible apply setChannel_keep | with_reducible apply raiseIrqArgs_keep
      | with_reducible apply bumpReg_keep | split)

theorem offsetChannels_keep {r : State} {x0} (x1) (hx0 : Keep r x0) : Keep r (offsetChannels x0 x1).2 := by
  unfold offsetChannels
  try dsimp only
  repeat' (first
      | with_reducible assumption | with_reducible apply offsetChannel_keep | refine Keep.snd (by assumption) ?_
      | refine Keep.snd3 (by assumption) ?_ | refine Keep.fst (by assumption) ?_ | with_reducible apply Keep.foldl
      | with_reducible apply Keep.foldl_snd | with_reducible apply Keep.foldl_fst
      | with_reducible apply Keep.foldl_snd2 | intro _ | split)

theorem calResult_keep {r : State} {x0} (x1) (x2) (x3) (hx0 : Keep r x0) : Keep r (calResult x0 x1 x2 x3) := by
  unfold calResult
  try dsimp only
  repeat' (first
      | with_reducible assumption | with_reducible apply setRegN_keep | with_reducible apply raiseIrqArgs_keep
      | split)

theorem linkTableStore_keep {r : State} {x0} (hx0 : Keep r x0) : Keep r (linkTableStore x0) := by
  unfold linkTableStore
  try dsimp only
  repeat' (first
      | with_reducible assumption | with_reducible apply setRegN_keep | with_reducible apply event_keep
      | with_reducible apply Keep.foldl | with_reducible apply Keep.foldl_snd | with_reducible apply Keep.foldl_fst
      | with_reducible apply Keep.foldl_snd2 | intro _ | split)

theorem linkTableLoad_keep {r : State} {x0} (hx0 : Keep r x0) : Keep r (linkTableLoad x0) := by
  unfold linkTableLoad
  try dsimp only
  repeat' (first
      | with_reducible assumption | with_reducible apply modFix_keep | with_reducible apply linkTableStore_keep
      | refine Keep.snd (by assumption) ?_ | refine Keep.snd3 (by assumption) ?_
      | refine Keep.fst (by assumption) ?_ | intro _ | split)

theorem holdStored_keep {r : State} {x0} (x1) (hx0 : Keep r x0) : Keep r (holdStored x0 x1) := by
  unfold holdStored
  try dsimp only
  repeat' (first | with_reducible assumption | with_reducible apply setLoop_keep | split)

theorem powerupCalRun_keep {r : State} {x0} (x1) (hx0 : Keep r x0) : Keep r (powerupCalRun x0 x1) := by
  unfold powerupCalRun
  try dsimp only
  repeat' (first
      | with_reducible assumption | with_reducible apply freeNat_keep | with_reducible apply fixChoose_keep | with_reducible apply loadAfe_keep
      | with_reducible apply offsetChannels_keep | with_reducible apply loadSelector_keep
      | with_reducible apply linkTableLoad_keep | with_reducible apply fixLoadSteering_keep
      | with_reducible apply holdStored_keep | with_reducible apply calResult_keep
      | with_reducible apply portScans_keep | with_reducible apply maybeSync_keep
      | with_reducible apply statusSettle_keep | simp only [↓Keep.upd_iff] | refine Keep.snd (by assumption) ?_
      | refine Keep.snd3 (by assumption) ?_ | refine Keep.fst (by assumption) ?_ | with_reducible apply Keep.foldl
      | with_reducible apply Keep.foldl_snd | with_reducible apply Keep.foldl_fst
      | with_reducible apply Keep.foldl_snd2 | intro _ | split)

theorem calStart_keep {r : State} {x0} (x1) (x2) (x3) (hx0 : Keep r x0) : Keep r (calStart x0 x1 x2 x3) := by
  unfold calStart
  try dsimp only
  repeat' (first
      | with_reducible assumption | with_reducible apply modCal_keep | with_reducible apply setRegN_keep
      | simp only [↓Keep.upd_iff] | intro _ | split)

theorem calOffsetCmd_keep {r : State} {x0} (hx0 : Keep r x0) : Keep r (calOffsetCmd x0).2 := by
  unfold calOffsetCmd
  try dsimp only
  repeat' (first | with_reducible assumption | with_reducible apply calStart_keep | intro _ | split)

theorem calFringeCmd_keep {r : State} {x0} (hx0 : Keep r x0) : Keep r (calFringeCmd x0).2 := by
  unfold calFringeCmd
  try dsimp only
  repeat' (first
      | with_reducible assumption | with_reducible apply scanStart_keep | with_reducible apply calStart_keep
      | with_reducible apply Keep.foldl | with_reducible apply Keep.foldl_snd | with_reducible apply Keep.foldl_fst
      | with_reducible apply Keep.foldl_snd2 | intro _ | split)

theorem calPlaneCmd_keep {r : State} {x0} (hx0 : Keep r x0) : Keep r (calPlaneCmd x0).2 := by
  unfold calPlaneCmd
  try dsimp only
  repeat' (first | with_reducible assumption | with_reducible apply calStart_keep | split)

theorem calAbortCmd_keep {r : State} {x0} (hx0 : Keep r x0) : Keep r (calAbortCmd x0).2 := by
  unfold calAbortCmd
  try dsimp only
  repeat' (first | with_reducible assumption | with_reducible apply modCal_keep | intro _ | split)

theorem planeAxis_keep {r : State} {x0} (x1) (hx0 : Keep r x0) : Keep r (planeAxis x0 x1) := by
  unfold planeAxis
  try dsimp only
  repeat' (first
      | with_reducible assumption | with_reducible apply modSte_keep | simp only [↓Keep.upd_iff]
      | refine Keep.snd (by assumption) ?_ | refine Keep.snd3 (by assumption) ?_
      | refine Keep.fst (by assumption) ?_ | with_reducible apply Keep.foldl | with_reducible apply Keep.foldl_snd
      | with_reducible apply Keep.foldl_fst | with_reducible apply Keep.foldl_snd2 | intro _ | split)

theorem planeApply_keep {r : State} {x0} (x1) (hx0 : Keep r x0) : Keep r (planeApply x0 x1).2 := by
  unfold planeApply
  try dsimp only
  repeat' (first
      | with_reducible assumption | with_reducible apply planeAxis_keep | with_reducible apply modSte_keep
      | simp only [↓Keep.upd_iff] | with_reducible apply Keep.foldl | with_reducible apply Keep.foldl_snd
      | with_reducible apply Keep.foldl_fst | with_reducible apply Keep.foldl_snd2 | intro _ | split)

theorem calEndRun_keep {r s : State} (a) (p) (ms) (h : Keep r s) : Keep r (calEndRun s a p ms) := by
  unfold calEndRun
  extract_lets +onlyGivenNames c
  split
  · exact h
  extract_lets +onlyGivenNames before named taken
  clear_value before taken c
  split
  rename_i ok s1 e1
  have h1 : Keep r s1 := by
    split at e1
    · exact Keep.snd e1 (offsetChannels_keep _ h)
    · cases e1; exact h
  split
  rename_i bad s2 e2
  have h2 : Keep r s2 := by
    split at e2
    · exact Keep.snd e2 (planeApply_keep _ h1)
    · cases e2; exact h1
  extract_lets +onlyGivenNames s3 s4 st s5 dn s6 s7 s8
  have h3 : Keep r s3 := by
    show Keep r (if _ then _ else _); split
    · exact setRegN_keep _ _ h2
    · exact h2
  have h4 : Keep r s4 := by
    refine Keep.foldl h3 fun s l h => ?_
    dsimp only
    split
    · exact loopEnter_keep _ _ _ h
    · exact setLoop_keep _ _ h
  clear_value s4 st
  have h5 : Keep r s5 := by
    show Keep r (if _ then _ else _); split
    · exact modFix_keep _ h4
    · exact h4
  clear_value s5
  have h7 : Keep r s7 := calResult_keep _ _ _ (modCal_keep _ h5)
  clear_value s7
  have h8 : Keep r s8 := by
    show Keep r (if _ then _ else _); split
    · exact h7
    · exact autoSave_keep h7
  exact maybeSync_keep (statusSettle_keep _ h8)

theorem kftReceive_keep {r : State} {x0} (p : Nat) (f : KftFrame) (run : State → Nat → KftFrame → State)
    (h : ∀ s, Keep r s → Keep r (run s p f)) (hx0 : Keep r x0) : Keep r (kftReceive x0 p f run) := by
  have a := kftCheck_keep p f hx0
  unfold kftReceive
  cases e : kftCheck x0 p f with
  | mk ok s =>
    rw [e] at a
    dsimp only
    split
    · exact h _ a
    · exact a

end Sys2Proof.Machine
end

