-- ==== Sys2Proof/Laws/KeepSystem.lean ====
section
/-!
SUPPORT. `Keep` for each operation of the block: descriptor fetch, Sillage, boot, power and services.
-/

namespace Sys2Proof.Machine

set_option linter.all false

/-! ## FetchOps -/

theorem fetchCopy_keep {r : State} {x0} (x1) (x2) (x3) (x4) (x5) (x6) (hx0 : Keep r x0) : Keep r (fetchCopy x0 x1 x2 x3 x4 x5 x6).2.2 := by
  unfold fetchCopy
  try dsimp only
  repeat' (first
      | with_reducible assumption | with_reducible apply readMem_keep | refine Keep.snd (by assumption) ?_
      | refine Keep.snd3 (by assumption) ?_ | refine Keep.fst (by assumption) ?_ | split)

theorem fetchCopies_keep {r : State} {x0} (x1) (x2) (x3) (hx0 : Keep r x0) : Keep r (fetchCopies x0 x1 x2 x3).2.2 := by
  unfold fetchCopies
  try dsimp only
  repeat' (first
      | with_reducible assumption | with_reducible apply readMem_keep | with_reducible apply fetchCopy_keep
      | refine Keep.snd (by assumption) ?_ | refine Keep.snd3 (by assumption) ?_
      | refine Keep.fst (by assumption) ?_ | split)

theorem slotFailed_keep {r : State} {x0} (x1) (x2) (x3) (hx0 : Keep r x0) : Keep r (slotFailed x0 x1 x2 x3) := by
  unfold slotFailed
  try dsimp only
  repeat' (first
      | with_reducible assumption | with_reducible apply dropDesc_keep | with_reducible apply noteFailure_keep
      | with_reducible apply recordOf_keep | split)

theorem fetchRun_keep {r : State} {x0} (x1) (x2) (hx0 : Keep r x0) : Keep r (fetchRun x0 x1 x2) := by
  unfold fetchRun
  try dsimp only
  repeat' (first
      | with_reducible assumption | with_reducible apply readMem_keep | with_reducible apply setQueue_keep
      | with_reducible apply slotFailed_keep | with_reducible apply fetchCopies_keep
      | with_reducible apply setDesc_keep | with_reducible apply failDesc_keep | refine Keep.snd (by assumption) ?_
      | refine Keep.snd3 (by assumption) ?_ | refine Keep.fst (by assumption) ?_ | split)

theorem openWindow_keep {r : State} {x0} (x1) (x2) (hx0 : Keep r x0) : Keep r (openWindow x0 x1 x2) := by
  unfold openWindow
  try dsimp only
  repeat' (first
      | with_reducible assumption | with_reducible apply failDesc_keep | with_reducible apply creditSources_keep
      | simp only [↓Keep.upd_iff] | intro _ | split)

theorem wakeArray_keep {r : State} {x0} (x1) (hx0 : Keep r x0) : Keep r (wakeArray x0 x1) := by
  unfold wakeArray
  try dsimp only
  repeat' (first | with_reducible assumption | with_reducible apply queuePhase_keep | intro _ | split)

theorem startRelease_keep {r : State} {x0} (x1) (x2) (hx0 : Keep r x0) : Keep r (startRelease x0 x1 x2) := by
  unfold startRelease
  try dsimp only
  repeat' (first
      | with_reducible assumption | with_reducible apply openWindow_keep | with_reducible apply ctMeet_keep
      | with_reducible apply setDesc_keep | with_reducible apply failDesc_keep | with_reducible apply optStart_keep
      | with_reducible apply wakeArray_keep | with_reducible apply accordWaitRun_keep
      | refine Keep.snd (by assumption) ?_ | refine Keep.snd3 (by assumption) ?_
      | refine Keep.fst (by assumption) ?_ | split)

theorem releaseDesc_keep {r : State} {x0} (x1) (x2) (x3) (hx0 : Keep r x0) : Keep r (releaseDesc x0 x1 x2 x3) := by
  unfold releaseDesc
  try dsimp only
  repeat' (first
      | with_reducible assumption | with_reducible apply setDesc_keep | with_reducible apply setEngOn_keep
      | with_reducible apply startRelease_keep | refine Keep.snd (by assumption) ?_
      | refine Keep.snd3 (by assumption) ?_ | refine Keep.fst (by assumption) ?_ | split)

theorem releaseRun_keep {r : State} {x0} (x1) (hx0 : Keep r x0) : Keep r (releaseRun x0 x1) := by
  unfold releaseRun
  try dsimp only
  repeat' (first
      | with_reducible assumption | with_reducible apply failDesc_keep | with_reducible apply releaseDesc_keep
      | refine Keep.snd (by assumption) ?_ | refine Keep.snd3 (by assumption) ?_
      | refine Keep.fst (by assumption) ?_ | split)

/-! ## SillageOps -/

theorem modEvr_keep {r : State} {x0} (x1) (hx0 : Keep r x0) : Keep r (modEvr x0 x1) := by
  unfold modEvr
  try dsimp only
  repeat' (first | with_reducible assumption | simp only [↓Keep.upd_iff] | split)

theorem ringWrite_keep {r : State} {x0} (x1) (hx0 : Keep r x0) : Keep r (ringWrite x0 x1) := by
  unfold ringWrite
  try dsimp only
  repeat' (first
      | with_reducible assumption | with_reducible apply modEvr_keep | with_reducible apply raiseQuiet_keep
      | with_reducible apply bumpReg_keep | refine Keep.snd (by assumption) ?_ | refine Keep.snd3 (by assumption) ?_
      | refine Keep.fst (by assumption) ?_ | intro _ | split)

theorem recordWriteRun_keep {r : State} {x0} (hx0 : Keep r x0) : Keep r (recordWriteRun x0) := by
  unfold recordWriteRun
  try dsimp only
  repeat' (first
      | with_reducible assumption | with_reducible apply ringWrite_keep | with_reducible apply modEvr_keep
      | refine Keep.snd (by assumption) ?_ | refine Keep.snd3 (by assumption) ?_
      | refine Keep.fst (by assumption) ?_ | intro _ | split)

theorem bucketRefillRun_keep {r : State} {x0} (x1) (hx0 : Keep r x0) : Keep r (bucketRefillRun x0 x1) := by
  unfold bucketRefillRun
  try dsimp only
  repeat' (first
      | with_reducible assumption | with_reducible apply setBucket_keep | with_reducible apply fifoPush_keep | with_reducible apply evrSettle_keep
      | split)

theorem bucketsClamp_keep {r : State} {x0} (hx0 : Keep r x0) : Keep r (bucketsClamp x0) := by
  unfold bucketsClamp
  try dsimp only
  repeat' (first
      | with_reducible assumption | with_reducible apply forEach_keep | with_reducible apply setBucket_keep
      | with_reducible apply Keep.foldl | with_reducible apply Keep.foldl_snd | with_reducible apply Keep.foldl_fst
      | with_reducible apply Keep.foldl_snd2 | intro _ | split)

theorem sillageFree_keep {r : State} {x0} (x1) (hx0 : Keep r x0) : Keep r (sillageFree x0 x1) := by
  unfold sillageFree
  try dsimp only
  repeat' (first | with_reducible assumption | with_reducible apply modEvr_keep | intro _ | split)

theorem hostmarkRun_keep {r : State} {x0} (hx0 : Keep r x0) : Keep r (hostmarkRun x0) := by
  unfold hostmarkRun
  try dsimp only
  repeat' (first
      | with_reducible assumption | with_reducible apply evrAdmit_keep | with_reducible apply evrSettle_keep | with_reducible apply Keep.foldl
      | with_reducible apply Keep.foldl_snd | with_reducible apply Keep.foldl_fst
      | with_reducible apply Keep.foldl_snd2 | intro _ | split)

theorem checkpoint_keep {r : State} {x0} (hx0 : Keep r x0) : Keep r (checkpoint x0) := by
  unfold checkpoint
  extract_lets b e sec i o
  clear_value e sec i
  split
  · exact flashWrite_keep _ _ hx0
  · exact flashWrite_keep _ _ (flashErase_keep _ _ hx0)

theorem checkpointRun_keep {r : State} {x0} (hx0 : Keep r x0) : Keep r (checkpointRun x0) := by
  unfold checkpointRun
  extract_lets last
  split
  · exact checkpoint_keep hx0
  · exact hx0

theorem giveBase_keep {r : State} {x0} (hx0 : Keep r x0) : Keep r (giveBase x0) := by
  unfold giveBase
  try dsimp only
  repeat' (first
      | with_reducible assumption | with_reducible apply modEvr_keep | with_reducible apply setRegN_keep
      | with_reducible apply checkpoint_keep | with_reducible apply raiseQuiet_keep | simp only [↓Keep.upd_iff]
      | simp only [↓Keep.updPwr_iff] | refine Keep.snd (by assumption) ?_ | refine Keep.snd3 (by assumption) ?_
      | refine Keep.fst (by assumption) ?_ | intro _ | split)

theorem sectorRec_keep {r : State} {x0} (x1) (hx0 : Keep r x0) : Keep r (sectorRec x0 x1).2 := by
  unfold sectorRec
  try dsimp only
  repeat' (first
      | with_reducible assumption | with_reducible apply freeNat_keep | refine Keep.snd (by assumption) ?_
      | refine Keep.snd3 (by assumption) ?_ | refine Keep.fst (by assumption) ?_ | split)

theorem psOpen_keep {r : State} {x0} (hx0 : Keep r x0) : Keep r (psOpen x0).2 := by
  unfold psOpen
  try dsimp only
  repeat' (first
      | with_reducible assumption | with_reducible apply flashErase_keep | with_reducible apply sectorRec_keep
      | with_reducible apply flashWrite_keep | refine Keep.snd (by assumption) ?_
      | refine Keep.snd3 (by assumption) ?_ | refine Keep.fst (by assumption) ?_ | with_reducible apply Keep.foldl
      | with_reducible apply Keep.foldl_snd | with_reducible apply Keep.foldl_fst
      | with_reducible apply Keep.foldl_snd2 | intro _ | split)

theorem psPut_keep {r : State} {x0} (x1) (hx0 : Keep r x0) : Keep r (psPut x0 x1) := by
  unfold psPut
  split
  · extract_lets i
    split
    · exact flashWrite_keep _ _ hx0
    · exact flashWrite_keep _ _ (psOpen_keep hx0)
  · exact flashWrite_keep _ _ (psOpen_keep hx0)

theorem persistOne_keep {r : State} {x0} (x1) (hx0 : Keep r x0) : Keep r (persistOne x0 x1) := by
  unfold persistOne
  extract_lets s1 mark
  have h1 : Keep r s1 := setReg_keep _ _ (psPut_keep _ hx0)
  clear_value s1
  exact modEvr_keep _ h1

theorem persistRun_keep {r : State} {x0} (hx0 : Keep r x0) : Keep r (persistRun x0) := by
  unfold persistRun
  try dsimp only
  repeat' (first
      | with_reducible assumption | with_reducible apply persistOne_keep | with_reducible apply Keep.foldl
      | with_reducible apply Keep.foldl_snd | with_reducible apply Keep.foldl_fst
      | with_reducible apply Keep.foldl_snd2 | intro _ | split)

theorem scratchSet_keep {r : State} {x0} (x1) (x2) (hx0 : Keep r x0) : Keep r (scratchSet x0 x1 x2) := by
  unfold scratchSet
  split
  · refine Keep.ofMem hx0 rfl rfl rfl rfl fun x => ?_
    simp only [Memory.wf, Bool.and_eq_true] at x ⊢
    exact ⟨⟨⟨⟨⟨x.1.1.1.1.1, x.1.1.1.1.2⟩, x.1.1.1.2⟩, x.1.1.2⟩, tset_wf _ _ _ x.1.2⟩, x.2⟩
  · refine Keep.ofMem hx0 rfl rfl rfl rfl fun x => ?_
    simp only [Memory.wf, Bool.and_eq_true] at x ⊢
    exact ⟨⟨⟨⟨⟨x.1.1.1.1.1, x.1.1.1.1.2⟩, x.1.1.1.2⟩, tset_wf _ _ _ x.1.1.2⟩, x.1.2⟩, x.2⟩

theorem modBlt_keep {r : State} {x0} (x1) (hx0 : Keep r x0) : Keep r (modBlt x0 x1) := by
  unfold modBlt
  try dsimp only
  repeat' (first | with_reducible assumption | simp only [↓Keep.upd_iff] | split)

theorem bltTouch_keep {r : State} {x0} (x1) (x2) (hx0 : Keep r x0) : Keep r (bltTouch x0 x1 x2) := by
  unfold bltTouch
  try dsimp only
  repeat' (first
      | with_reducible assumption | with_reducible apply modBlt_keep | with_reducible apply setRegFld_keep
      | with_reducible apply raiseIrq_keep | with_reducible apply bumpReg_keep | intro _ | split)

theorem scratchRead_keep {r : State} {x0} (x1) (x2) (hx0 : Keep r x0) : Keep r (scratchRead x0 x1 x2).2 := by
  unfold scratchRead
  try dsimp only
  repeat' (first
      | with_reducible assumption | with_reducible apply bltTouch_keep | with_reducible apply Keep.foldl
      | with_reducible apply Keep.foldl_snd | with_reducible apply Keep.foldl_fst
      | with_reducible apply Keep.foldl_snd2 | intro _ | split)

theorem scratchWrite_keep {r : State} {x0} (x1) (x2) (hx0 : Keep r x0) : Keep r (scratchWrite x0 x1 x2) := by
  unfold scratchWrite
  try dsimp only
  repeat' (first
      | with_reducible assumption | with_reducible apply scratchSet_keep | with_reducible apply bltTouch_keep
      | with_reducible apply Keep.foldl | with_reducible apply Keep.foldl_snd | with_reducible apply Keep.foldl_fst
      | with_reducible apply Keep.foldl_snd2 | intro _ | split)

theorem scratchBad_keep {r : State} {x0} (x1) (hx0 : Keep r x0) : Keep r (scratchBad x0 x1) := by
  unfold scratchBad
  try dsimp only
  repeat' (first
      | with_reducible assumption | with_reducible apply raiseIrq_keep | with_reducible apply setRegN_keep
      | with_reducible apply bumpReg_keep | split)

theorem scratchFixed_keep {r : State} {x0} (hx0 : Keep r x0) : Keep r (scratchFixed x0) := by
  unfold scratchFixed
  try dsimp only
  repeat' (first
      | with_reducible assumption | with_reducible apply raiseIrq_keep | with_reducible apply bumpReg_keep | split)

theorem bltStart_keep {r : State} {x0} (hx0 : Keep r x0) : Keep r (bltStart x0) := by
  unfold bltStart
  try dsimp only
  repeat' (first | with_reducible assumption | with_reducible apply modBlt_keep | intro _ | split)

theorem regionStartRun_keep {r : State} {x0} (hx0 : Keep r x0) : Keep r (regionStartRun x0) := by
  unfold regionStartRun
  try dsimp only
  repeat' (first | with_reducible assumption | with_reducible apply bltStart_keep | split)

theorem bltRetryRun_keep {r : State} {x0} (hx0 : Keep r x0) : Keep r (bltRetryRun x0) := by
  unfold bltRetryRun
  try dsimp only
  repeat' (first | with_reducible assumption | with_reducible apply bltStart_keep | split)

theorem foldl_tset_wf {f : Nat → Nat} {g : Nat → Byte} (l : List Nat) (t : Tbl Byte)
    (h : tblWf (fun _ => 0#8) t = true) :
    tblWf (fun _ => 0#8) (l.foldl (fun t i => tset (fun _ => 0#8) t (f i) (g i)) t) = true := by
  induction l generalizing t with
  | nil => exact h
  | cons i l ih => exact ih _ (tset_wf _ _ _ h)

theorem withSpare_keep {r s : State} (t : Tbl Byte) (ht : tblWf (fun _ => 0#8) t = true) (h : Keep r s) :
    Keep r { s with mem := { s.mem with spare := t } } := by
  refine Keep.ofMem h rfl rfl rfl rfl fun x => ?_
  simp only [Memory.wf, Bool.and_eq_true] at x ⊢
  exact ⟨⟨⟨⟨⟨x.1.1.1.1.1, x.1.1.1.1.2⟩, x.1.1.1.2⟩, x.1.1.2⟩, ht⟩, x.2⟩

theorem withScratch_keep {r s : State} (t : Tbl Byte)
    (ht : Memory.wf s.mem = true → tblWf (fun _ => 0#8) t = true) (h : Keep r s) :
    Keep r { s with mem := { s.mem with scratch := t } } := by
  refine Keep.ofMem h rfl rfl rfl rfl fun x => ?_
  have := ht x
  simp only [Memory.wf, Bool.and_eq_true] at x ⊢
  exact ⟨⟨⟨⟨⟨x.1.1.1.1.1, x.1.1.1.1.2⟩, x.1.1.1.2⟩, this⟩, x.1.2⟩, x.2⟩

theorem copyDoneRun_keep {r : State} {x0} (hx0 : Keep r x0) : Keep r (copyDoneRun x0) := by
  unfold copyDoneRun
  split
  · exact modBlt_keep _ (withSpare_keep _ (foldl_tset_wf _ _ rfl) hx0)
  · exact hx0

theorem bltFail_keep {r : State} {x0} (hx0 : Keep r x0) : Keep r (bltFail x0) := by
  unfold bltFail
  try dsimp only
  repeat' (first
      | with_reducible assumption | with_reducible apply raiseIrq_keep | with_reducible apply bumpReg_keep
      | with_reducible apply modBlt_keep | intro _ | split)

theorem testDoneRun_keep {r : State} {x0} (x1) (hx0 : Keep r x0) : Keep r (testDoneRun x0 x1) := by
  unfold testDoneRun
  try dsimp only
  repeat' (first
      | with_reducible assumption | with_reducible apply modBlt_keep | with_reducible apply bltFail_keep
      | with_reducible apply setRegN_keep | refine Keep.snd (by assumption) ?_ | refine Keep.snd3 (by assumption) ?_
      | refine Keep.fst (by assumption) ?_ | intro _ | split)

theorem bltNext_keep {r : State} {x0} (hx0 : Keep r x0) : Keep r (bltNext x0) := by
  unfold bltNext
  try dsimp only
  repeat' (first
      | with_reducible assumption | with_reducible apply raiseIrq_keep | with_reducible apply wrapReg_keep
      | with_reducible apply modBlt_keep | with_reducible apply setRegN_keep | intro _ | split)

theorem restoreDoneRun_keep {r : State} {x0} (hx0 : Keep r x0) : Keep r (restoreDoneRun x0) := by
  unfold restoreDoneRun
  by_cases c1 : (x0.blt.run == .restoring) = true
  · rw [if_pos c1]
    extract_lets b t p m s mark
    have h : Keep r s := by
      refine modBlt_keep _ (withScratch_keep _ (fun x => ?_) hx0)
      simp only [Memory.wf, Bool.and_eq_true] at x
      show tblWf _ (if _ then _ else _) = true
      split
      · exact x.1.1.2
      · exact foldl_tset_wf _ _ x.1.1.2
    have hm : ∀ s k, Keep r s → Keep r (mark s k) := fun s k hs => modBlt_keep _ hs
    clear_value s mark
    split
    · exact bltNext_keep (hm _ _ h)
    · split
      · exact bltNext_keep (raiseIrq_keep _ _ _ (bumpReg_keep _ _ (hm _ _ h)))
      · exact h
  · rw [if_neg c1]; exact hx0

theorem spareTestRun_keep {r : State} {x0} (x1) (hx0 : Keep r x0) : Keep r (spareTestRun x0 x1) := by
  unfold spareTestRun
  try dsimp only
  repeat' (first
      | with_reducible assumption | with_reducible apply bltFail_keep | with_reducible apply orReg_keep
      | with_reducible apply modBlt_keep | intro _ | split)

theorem setCrc_keep {r : State} {x0} (x1) (x2) (hx0 : Keep r x0) : Keep r (setCrc x0 x1 x2) := by
  unfold setCrc
  try dsimp only
  repeat' (first | with_reducible assumption | simp only [↓Keep.upd_iff] | intro _ | split)

theorem crcBegin_keep {r : State} {x0} (x1) (x2) (hx0 : Keep r x0) : Keep r (crcBegin x0 x1 x2) := by
  unfold crcBegin
  try dsimp only
  repeat' (first
      | with_reducible assumption | with_reducible apply setCrc_keep | with_reducible apply wakeDie_keep | split)

theorem crcStartCmd_keep {r : State} {x0} (x1) (x2) (hx0 : Keep r x0) : Keep r (crcStartCmd x0 x1 x2).2.2 := by
  unfold crcStartCmd
  extract_lets a n
  repeat' split
  all_goals first | exact hx0 | exact crcBegin_keep _ _ hx0

theorem crcResult_keep {r : State} {x0} (x1) (x2) (x3) (x4) (hx0 : Keep r x0) : Keep r (crcResult x0 x1 x2 x3 x4) := by
  unfold crcResult
  try dsimp only
  repeat' (first | with_reducible assumption | with_reducible apply setRegN_keep | split)

theorem crcStopCmd_keep {r : State} {x0} (x1) (hx0 : Keep r x0) : Keep r (crcStopCmd x0 x1).2 := by
  unfold crcStopCmd
  try dsimp only
  repeat' (first
      | with_reducible assumption | with_reducible apply crcResult_keep | with_reducible apply setCrc_keep
      | with_reducible apply raiseIrqArgs_keep | split)

theorem crcUpset_keep {r : State} {x0} (x1) (x2) (hx0 : Keep r x0) : Keep r (crcUpset x0 x1 x2) := by
  unfold crcUpset
  try dsimp only
  repeat' (first
      | with_reducible assumption | with_reducible apply freeNat_keep | with_reducible apply setRegN_keep
      | with_reducible apply setCrc_keep | refine Keep.snd (by assumption) ?_ | refine Keep.snd3 (by assumption) ?_
      | refine Keep.fst (by assumption) ?_ | split)

theorem crcData_keep {r : State} {x0} (x1) (x2) (hx0 : Keep r x0) : Keep r (crcData x0 x1 x2).2.2 := by
  unfold crcData
  try dsimp only
  repeat' (first
      | with_reducible assumption | with_reducible apply scratchBad_keep | with_reducible apply scratchFixed_keep
      | with_reducible apply scratchRead_keep | with_reducible apply readMem_keep
      | refine Keep.snd (by assumption) ?_ | refine Keep.snd3 (by assumption) ?_
      | refine Keep.fst (by assumption) ?_ | with_reducible apply Keep.foldl | with_reducible apply Keep.foldl_snd
      | with_reducible apply Keep.foldl_fst | with_reducible apply Keep.foldl_snd2 | intro _ | split)

theorem crcNote_keep {r : State} {x0} (x1) (x2) (x3) (hx0 : Keep r x0) : Keep r (crcNote x0 x1 x2 x3) := by
  unfold crcNote
  try dsimp only
  repeat' (first
      | with_reducible assumption | with_reducible apply raiseIrqArgs_keep | with_reducible apply bumpReg_keep
      | split)

theorem crcEndRun_keep {r s : State} (i) (a) (b) (e) (h : Keep r s) : Keep r (crcEndRun s i a b e) := by
  unfold crcEndRun
  extract_lets +onlyGivenNames x
  by_cases e0 : (x.run == .running && (if i < 4 then isOn s i else isOn s dieSTE)) = true
  · rw [if_pos e0]
    extract_lets +onlyGivenNames s1 s2
    have h1 : Keep r s1 := by
      show Keep r (if _ then _ else _)
      split
      · exact crcUpset_keep _ _ h
      · exact h
    have h2 : Keep r s2 := by
      show Keep r (if _ then _ else _)
      split
      · exact crcUpset_keep _ _ h1
      · exact h1
    clear_value s2
    have h3 := crcData_keep i e h2
    generalize crcData s2 i e = z at h3 ⊢
    obtain ⟨st, bs, s3⟩ := z
    dsimp -zeta only at h3 ⊢
    extract_lets +onlyGivenNames next src s4
    have h4 : Keep r s4 := wrapReg_keep _ _ (setCrc_keep _ _ h3)
    clear_value s4
    by_cases e1 : (st != stOK) = true
    · rw [if_pos e1]; exact crcNote_keep _ _ _ (crcResult_keep _ _ _ _ h4)
    · rw [if_neg e1]
      have h5 := setReg_keep (Reg.at Reg.CRC_LAST_CRC i) (crc32c bs) h4
      by_cases e2 : x.learn = true
      · rw [if_pos e2]
        exact crcNote_keep _ _ _ (crcResult_keep _ _ _ _ (setCrc_keep _ _ (setReg_keep _ _ (setReg_keep _ _ h5))))
      · rw [if_neg e2]
        exact crcNote_keep _ _ _ (crcResult_keep _ _ _ _ h5)
  · rw [if_neg e0]; exact h

theorem crcPeriodRun_keep {r : State} {x0} (x1) (hx0 : Keep r x0) : Keep r (crcPeriodRun x0 x1) := by
  unfold crcPeriodRun
  try dsimp only
  repeat' (first | with_reducible assumption | with_reducible apply crcBegin_keep | split)

/-! ## BootOps -/

theorem modBoot_keep {r : State} {x0} (x1) (hx0 : Keep r x0) : Keep r (modBoot x0 x1) := by
  unfold modBoot
  try dsimp only
  repeat' (first | with_reducible assumption | simp only [↓Keep.upd_iff] | split)

theorem writeHeader_keep {r : State} {x0} (x1) (x2) (hx0 : Keep r x0) : Keep r (writeHeader x0 x1 x2) := by
  unfold writeHeader
  try dsimp only
  repeat' (first
      | with_reducible assumption | with_reducible apply flashWrite_keep | with_reducible apply flashErase_keep
      | refine Keep.snd (by assumption) ?_ | refine Keep.snd3 (by assumption) ?_
      | refine Keep.fst (by assumption) ?_ | split)

theorem slotResult_keep {r : State} {x0} (x1) (x2) (x3) (hx0 : Keep r x0) : Keep r (slotResult x0 x1 x2 x3) := by
  unfold slotResult
  try dsimp only
  repeat' (first | with_reducible assumption | with_reducible apply setRegFld_keep | split)

theorem stage1_keep {r : State} {x0} (x1) (x2) (x3) (x4) (hx0 : Keep r x0) : Keep r (stage1 x0 x1 x2 x3 x4) := by
  unfold stage1
  try dsimp only
  repeat' (first
      | with_reducible assumption | with_reducible apply setRegN_keep | with_reducible apply setRegFld_keep
      | with_reducible apply modBoot_keep | with_reducible apply raiseIrq_keep | with_reducible apply Keep.foldl
      | with_reducible apply Keep.foldl_snd | with_reducible apply Keep.foldl_fst
      | with_reducible apply Keep.foldl_snd2 | intro _ | split)

theorem romBoot_keep {r : State} {x0} (hx0 : Keep r x0) : Keep r (romBoot x0) := by
  unfold romBoot
  try dsimp only
  repeat' (first
      | with_reducible assumption | with_reducible apply giveBase_keep | with_reducible apply flashWrite_keep
      | with_reducible apply slotResult_keep | with_reducible apply stage1_keep | with_reducible apply raiseIrq_keep
      | with_reducible apply modBoot_keep | refine Keep.snd (by assumption) ?_ | refine Keep.snd3 (by assumption) ?_
      | refine Keep.fst (by assumption) ?_ | intro _ | split)

theorem romRun_keep {r : State} {x0} (hx0 : Keep r x0) : Keep r (romRun x0) := by
  unfold romRun
  try dsimp only
  repeat' (first | with_reducible assumption | with_reducible apply romBoot_keep | split)

theorem recoveryRun_keep {r : State} {x0} (x1) (hx0 : Keep r x0) : Keep r (recoveryRun x0 x1) := by
  unfold recoveryRun
  try dsimp only
  repeat' (first
      | with_reducible assumption | with_reducible apply romBoot_keep | with_reducible apply flashWrite_keep
      | with_reducible apply Keep.foldl | with_reducible apply Keep.foldl_snd | with_reducible apply Keep.foldl_fst
      | with_reducible apply Keep.foldl_snd2 | intro _ | split)

theorem rightsCmd_keep {r : State} {x0} (x1) (hx0 : Keep r x0) : Keep r (rightsCmd x0 x1).2 := by
  unfold rightsCmd
  try dsimp only
  repeat' (first | with_reducible assumption | with_reducible apply modBoot_keep | intro _ | split)

theorem keySelCmd_keep {r : State} {x0} (x1) (hx0 : Keep r x0) : Keep r (keySelCmd x0 x1) := by
  unfold keySelCmd
  try dsimp only
  repeat' (first
      | with_reducible assumption | with_reducible apply modBoot_keep | with_reducible apply setRegN_keep | intro _
      | split)

theorem modKey_keep {r : State} {x0} (x1) (hx0 : Keep r x0) : Keep r (modKey x0 x1) := by
  unfold modKey
  try dsimp only
  repeat' (first | with_reducible assumption | with_reducible apply modBoot_keep | intro _ | split)

theorem keyInfoCmd_keep {r : State} {x0} (x1) (hx0 : Keep r x0) : Keep r (keyInfoCmd x0 x1).2 := by
  unfold keyInfoCmd
  try dsimp only
  repeat' (first | with_reducible assumption | with_reducible apply modKey_keep | intro _ | split)

theorem keyLoadCmd_keep {r : State} {x0} (x1) (hx0 : Keep r x0) : Keep r (keyLoadCmd x0 x1).2 := by
  unfold keyLoadCmd
  try dsimp only
  repeat' (first
      | with_reducible assumption | with_reducible apply modKey_keep | with_reducible apply modBoot_keep | intro _
      | split)

theorem closeSession_keep {r : State} {x0} (x1) (hx0 : Keep r x0) : Keep r (closeSession x0 x1) := by
  unfold closeSession
  try dsimp only
  repeat' (first
      | with_reducible assumption | with_reducible apply setRegFld_keep | with_reducible apply setSess_keep
      | simp only [↓Keep.upd_iff] | split)

theorem headerSettle_keep {r : State} {x0} (hx0 : Keep r x0) : Keep r (headerSettle x0) := by
  unfold headerSettle
  try dsimp only
  repeat' (first
      | with_reducible assumption | with_reducible apply writeHeader_keep | refine Keep.snd (by assumption) ?_
      | refine Keep.snd3 (by assumption) ?_ | refine Keep.fst (by assumption) ?_ | split)

theorem sealCmd_keep {r : State} {x0} (hx0 : Keep r x0) : Keep r (sealCmd x0).2 := by
  unfold sealCmd
  by_cases c1 : (!protLoading x0) = true
  · rw [if_pos c1]; exact hx0
  rw [if_neg c1]
  by_cases c2 : (x0.boot.phase != .stage1) = true
  · rw [if_pos c2]; exact hx0
  rw [if_neg c2]
  extract_lets old new s1 site o s2 s3 s4 s5 h5 s6
  have h1 : Keep r s1 := by
    refine Keep.foldl hx0 fun s i hs => ?_
    dsimp only
    split
    · exact closeSession_keep _ hs
    · exact hs
  clear_value s1
  have h2 : Keep r s2 := by
    have g : Keep r { s1 with otp := { s1.otp with owner0Revoked := true } } :=
      ⟨⟨h1.pending, h1.floor, h1.owner1, fun _ => rfl, h1.mem, h1.regs⟩, h1.pwr⟩
    clear_value site
    simp only [s2]
    split
    · split
      · exact g
      · exact h1
    · exact h1
  clear_value s2
  have h6 : Keep r s5 := by 
    exact modBoot_keep _ (setRegFld_keep _ _ _ _ (setReg_keep _ _ h2))
  have h7 : Keep r s6 := ⟨⟨h6.pending, h6.floor, h6.owner1, h6.revoked, h6.mem, h6.regs⟩, h6.pwr⟩
  clear_value s6
  exact headerSettle_keep h7

theorem restartAsk_keep {r : State} {x0} (hx0 : Keep r x0) : Keep r (restartAsk x0) := by
  unfold restartAsk
  try dsimp only
  repeat' (first | with_reducible assumption | with_reducible apply modBoot_keep | intro _ | split)

theorem restartCmdRun_keep {r : State} {x0} (hx0 : Keep r x0) : Keep r (restartCmdRun x0).2 := by
  unfold restartCmdRun
  try dsimp only
  repeat' (first | with_reducible assumption | with_reducible apply restartAsk_keep | split)

theorem watchdogRun_keep {r : State} {x0} (hx0 : Keep r x0) : Keep r (watchdogRun x0) := by
  unfold watchdogRun
  try dsimp only
  repeat' (first
      | with_reducible assumption | with_reducible apply raiseIrq_keep | with_reducible apply restartAsk_keep
      | split)

theorem restartBegin_keep {r : State} {x0} (hx0 : Keep r x0) : Keep r (restartBegin x0) := by
  unfold restartBegin
  try dsimp only
  repeat' (first
      | with_reducible assumption | with_reducible apply modBoot_keep | with_reducible apply raiseIrq_keep
      | with_reducible apply setRegN_keep | intro _ | split)

/-! ## PwrOps -/

theorem modPwr_keep {r s : State} (f) (h : Keep r s) (hf : ∀ p, (f p).units = p.units ∧ (p.inReset = false → (f p).inReset = false) ∧
    (p.ref156 = false → (f p).ref156 = false)) : Keep r (modPwr s f) :=
  ⟨⟨h.pending, h.floor, h.owner1, h.revoked, h.mem, h.regs⟩, ⟨fun u x => by
    have := h.pwr.failed u x
    show tget _ (f s.pwr).units u = _
    rw [(hf _).1]; exact this, fun x => (hf _).2.1 (h.pwr.inReset x), fun x => (hf _).2.2 (h.pwr.ref156 x)⟩⟩

theorem dropDie_keep {r : State} {x0} (x1) (hx0 : Keep r x0) : Keep r (dropDie x0 x1) := by
  unfold dropDie
  try dsimp only
  repeat' (first
      | with_reducible assumption | with_reducible apply setQueue_keep | with_reducible apply dropTracks_keep
      | with_reducible apply modWake_keep | with_reducible apply clearStaging_keep | simp only [↓Keep.upd_iff]
      | simp only [↓Keep.updMem_iff] | with_reducible apply Keep.foldl | with_reducible apply Keep.foldl_snd
      | with_reducible apply Keep.foldl_fst | with_reducible apply Keep.foldl_snd2 | intro _ | split)

theorem failFlow_keep {r : State} {x0} (x1) (hx0 : Keep r x0) : Keep r (failFlow x0 x1) := by
  unfold failFlow
  try dsimp only
  repeat' (first
      | with_reducible assumption | with_reducible apply dropDie_keep | with_reducible apply failUnit_keep
      | with_reducible apply failDesc_keep | with_reducible apply Keep.foldl | with_reducible apply Keep.foldl_snd
      | with_reducible apply Keep.foldl_fst | with_reducible apply Keep.foldl_snd2 | intro _ | split)

theorem failHub_keep {r : State} {x0} (x1) (hx0 : Keep r x0) : Keep r (failHub x0 x1) := by
  unfold failHub
  try dsimp only
  repeat' (first
      | with_reducible assumption | with_reducible apply failFlow_keep | with_reducible apply failUnit_keep | split)

theorem setHostLanes_keep {r : State} {x0} (x1) (hx0 : Keep r x0) : Keep r (setHostLanes x0 x1) := by
  unfold setHostLanes
  try dsimp only
  repeat' (first
      | with_reducible assumption | with_reducible apply setRegN_keep | with_reducible apply raiseIrq_keep | split)

theorem failIod_keep {r : State} {x0} (x1) (hx0 : Keep r x0) : Keep r (failIod x0 x1) := by
  unfold failIod
  try dsimp only
  repeat' (first
      | with_reducible assumption | with_reducible apply failUnit_keep | with_reducible apply portLeave_keep
      | with_reducible apply linkLossRun_keep | with_reducible apply setHostLanes_keep
      | with_reducible apply planeDown_keep | with_reducible apply Keep.foldl | with_reducible apply Keep.foldl_snd
      | with_reducible apply Keep.foldl_fst | with_reducible apply Keep.foldl_snd2 | intro _ | split)

theorem failDie_keep {r : State} {x0} (x1) (hx0 : Keep r x0) : Keep r (failDie x0 x1) := by
  unfold failDie
  try dsimp only
  repeat' (first
      | with_reducible assumption | with_reducible apply failFlow_keep | with_reducible apply failIod_keep
      | with_reducible apply failHub_keep | with_reducible apply failUnit_keep | split)

theorem moduleReset_kept {r s : State} (c) (h : Kept r s) : Kept r (moduleReset s c) := by
  refine ⟨h.pending, h.floor, h.owner1, h.revoked, fun x => ?_, fun x => tset_wf _ _ _ (filter_wf _ _ (h.regs x))⟩
  have := h.mem x
  simp only [Memory.wf, Bool.and_eq_true] at this ⊢
  exact ⟨⟨⟨⟨⟨rfl, rfl⟩, rfl⟩, rfl⟩, rfl⟩, this.2⟩

theorem releaseReset_keep {r s : State} (h : Keep r s) : Keep r (releaseReset s) := by
  have h1 : Keep r (modPwr { s with ns := 0#64 } fun p => { p with
      inReset := false
      upStep := 0
      jtag := if p.jtag == .idcode then .idcode else .bypass
      jtagDrive := none }) := modPwr_keep _ (Keep.upd h) fun _ => ⟨rfl, fun _ => rfl, id⟩
  unfold releaseReset
  dsimp only
  refine evrAdmit_keep _ ?_
  have h2 := setRegN_keep Reg.PWR_STRAPS s.pwr.strapPins.toNat h1
  have h3 := fun n => setRegN_keep Reg.PWR_STRAP_ERR n h2
  split
  · exact h3 _
  · exact event_keep _ _ _ _ _ (h3 _)

theorem tryRelease_keep {r : State} {x0} (hx0 : Keep r x0) : Keep r (tryRelease x0) := by
  unfold tryRelease
  try dsimp only
  repeat' (first | with_reducible assumption | with_reducible apply releaseReset_keep | split)

theorem vddAonRise_kept {r s : State} (h : Kept r s) : Kept r (vddAonRise s) := by
  unfold vddAonRise
  extract_lets p t
  have ht : Kept r t := by
    refine ⟨h.pending, h.floor, h.owner1, h.revoked, fun x => ?_, fun _ => rfl⟩
    have := h.mem x
    simp only [Memory.wf, Bool.and_eq_true] at this
    simp only [Memory.wf, Bool.and_eq_true, t]
    exact ⟨⟨⟨⟨⟨rfl, rfl⟩, rfl⟩, rfl⟩, rfl⟩, this.2⟩
  exact Kept.trans ht (tryRelease_keep (Keep.refl t)).toKept

theorem latchRails_keep {r : State} {x0} (x1) (hx0 : Keep r x0) : Keep r (latchRails x0 x1) := by
  unfold latchRails
  try dsimp only
  repeat' (first | with_reducible assumption | with_reducible apply orReg_keep | split)

theorem railFaultRun_kept {r s : State} (k) (h : Keep r s) : Kept r (railFaultRun s k) := by
  have h1 := raiseIrqArgs_keep 0x02 0 0 0 [k] (latchRails_keep (BitVec.ofNat 19 (2 ^ k)) (modPwr_keep
    (fun p => { p with rails := p.rails &&& ~~~ (BitVec.ofNat 19 (2 ^ k)) }) h fun _ => ⟨rfl, id, id⟩))
  unfold railFaultRun
  dsimp only
  split
  · exact h1.toKept
  · split
    · exact moduleReset_kept _ h1.toKept
    · exact (Keep.foldl h1 fun s u h => failDie_keep _ h).toKept

theorem railRecoveryRun_keep {r s : State} (h : Keep r s) : Keep r (railRecoveryRun s) := by
  unfold railRecoveryRun
  refine tryRelease_keep ?_
  exact modPwr_keep _ h fun _ => ⟨rfl, id, id⟩

theorem resetAssertRun_kept {r s : State} (b) (h : Keep r s) : Kept r (resetAssertRun s b) := by
  have h1 : Keep r (modPwr s fun p => { p with
    resetN := p.resetN || !b
    pwrgd := p.pwrgd && !b }) := modPwr_keep _ h fun _ => ⟨rfl, id, id⟩
  unfold resetAssertRun
  dsimp only
  split
  · exact h1.toKept
  · refine moduleReset_kept _ (Keep.toKept ?_)
    exact modPwr_keep _ h1 fun _ => ⟨rfl, id, id⟩

theorem pwrgdRun_keep {r s : State} (b) (h : Keep r s) : Keep r (pwrgdRun s b) := by
  have h1 : Keep r (modPwr s fun p => { p with
    pwrgd := true
    rails := b ||| (p.rails &&& 1#19) }) := modPwr_keep _ h fun _ => ⟨rfl, id, id⟩
  unfold pwrgdRun
  exact tryRelease_keep (latchRails_keep _ h1)

theorem resetReleaseRun_keep {r s : State} (b) (h : Keep r s) : Keep r (resetReleaseRun s b) := by
  unfold resetReleaseRun
  split
  · refine tryRelease_keep ?_
    exact modPwr_keep _ h fun _ => ⟨rfl, id, id⟩
  · exact h

theorem startUnit_keep {r s : State} (u) (h : Keep r s) : Keep r (startUnit s u) := by
  unfold startUnit
  split
  · exact h
  rename_i e
  have hu : unitSt s u ≠ .failed := by
    intro x; rw [x] at e; exact e (by decide)
  split
  · dsimp only
    split
    · exact modSte_keep _ (setUnit_keep h (Or.inl hu))
    · exact setUnit_keep h (Or.inl hu)
  · split
    · exact setUnit_keep h (Or.inl hu)
    · split
      · exact setUnit_keep h (Or.inl hu)
      · exact startWake_keep h hu

theorem powerupRun_keep {r s : State} (h : Keep r s) : Keep r (powerupRun s) := by
  unfold powerupRun
  split
  · exact h
  · split
    · refine modPwr_keep _ (startUnit_keep _ h) fun _ => ⟨rfl, id, id⟩
    · exact h

theorem wakePhaseRun_keep {r s : State} (h : Keep r s) : Keep r (wakePhaseRun s) := by
  unfold wakePhaseRun
  split
  · exact modPwr_keep _ h fun _ => ⟨rfl, id, id⟩
  · exact h

theorem endPhase_keep {r s : State} (h : Keep r s) : Keep r (endPhase s) := by
  unfold endPhase
  exact modPwr_keep _ h fun _ => ⟨rfl, id, id⟩

theorem ne_failed_of_not_bne {p q : PState} (h : ¬ (p != q) = true) (hq : q ≠ .failed) : p ≠ .failed := by
  cases p <;> cases q <;> simp_all

theorem powerGateRun_keep {r s : State} (h : Keep r s) : Keep r (powerGateRun s) := by
  unfold powerGateRun
  split
  · rename_i u e0
    by_cases e : (unitSt s u != .powering) = true
    · rw [if_pos e]; exact endPhase_keep h
    rw [if_neg e]
    have hu := ne_failed_of_not_bne e (by decide)
    split
    · exact setUnit_keep (endPhase_keep h) (Or.inl hu)
    · exact startUngate_keep (endPhase_keep h) hu
  · exact h

theorem clearScratch_keep {r s : State} (h : Keep r s) : Keep r { s with mem := { s.mem with scratch := [] } } := by
  refine Keep.ofMem h rfl rfl rfl rfl fun x => ?_
  simp only [Memory.wf, Bool.and_eq_true] at x ⊢
  exact ⟨⟨⟨⟨⟨x.1.1.1.1.1, x.1.1.1.1.2⟩, x.1.1.1.2⟩, rfl⟩, x.1.2⟩, x.2⟩

theorem unitSt_clearStaging (s : State) (d u : Nat) : unitSt (clearStaging s d) u = unitSt s u := by
  unfold clearStaging unitSt; rfl

theorem zeroingRun_keep {r s : State} (u) (h : Keep r s) : Keep r (zeroingRun s u) := by
  unfold zeroingRun
  by_cases e : (unitSt s u != .zeroing) = true
  · rw [if_pos e]; exact h
  rw [if_neg e]
  have hu := ne_failed_of_not_bne e (by decide)
  have hc : unitSt (clearStaging s u) u ≠ .failed := by rw [unitSt_clearStaging]; exact hu
  have h1 := clearStaging_keep u h
  generalize clearStaging s u = c at hc h1 ⊢
  split
  · dsimp only
    split
    · exact enterIdle_keep (stacksOn_keep _ h1) fun x => hc (unitSt_stacksOn_failed _ _ _ x)
    · exact startUngate_keep h1 hc
  · refine startUngate_keep (clearScratch_keep h) ?_
    unfold unitSt at hu ⊢
    exact hu

theorem startRom_keep {r s : State} (h : Keep r s) (hu : unitSt s dieSTE ≠ .failed) : Keep r (startRom s) :=
  modBoot_keep _ (setUnit_keep h (Or.inl hu))

theorem clockUngateRun_keep {r s : State} (h : Keep r s) : Keep r (clockUngateRun s) := by
  unfold clockUngateRun
  split
  · rename_i u e0
    by_cases e : (unitSt s u != .waking) = true
    · rw [if_pos e]; exact endPhase_keep h
    rw [if_neg e]
    have hu := ne_failed_of_not_bne e (by decide)
    split
    · exact reachOn_keep (endPhase_keep h) hu
    · split
      · rename_i e1
        have : u = dieSTE := by simpa using e1
        subst this
        exact startRom_keep (endPhase_keep h) hu
      · exact dmcFollow_keep (setUnit_keep (endPhase_keep h) (Or.inl hu))
  · exact setEngOn_keep _ _ _ (endPhase_keep h)
  · exact h

theorem unitSt_stacksRetain_ne (s : State) (d : Nat) (hd : d < 4) : unitSt (stacksRetain s d) d = unitSt s d := by
  have key : ∀ (s : State) k, unitSt (if unitSt s (dieSTK + k) == .on then setUnit s (dieSTK + k) .retain else s) d =
      unitSt s d := by
    intro s k
    split
    · have e : unitSt (setUnit s (dieSTK + k) .retain) d = if dieSTK + k = d then .retain else unitSt s d := tget_tset ..
      rw [e, if_neg (by simp only [dieSTK]; omega)]
    · rfl
  exact (key _ _).trans (key _ _)

theorem unitSt_modWake (s : State) (d u : Nat) (f) : unitSt (modWake s d f) u = unitSt s u := by
  unfold modWake unitSt; rfl

theorem unitSt_setUnit_same (s : State) (u : Nat) (p) : unitSt (setUnit s u p) u = p := by
  unfold setUnit unitSt; exact tget_tset_same ..

theorem offEntryRun_keep {r s : State} (h : Keep r s) : Keep r (offEntryRun s) := by
  unfold offEntryRun
  split
  · rename_i u e0
    by_cases e : (unitSt s u != .powering) = true
    · rw [if_pos e]; exact endPhase_keep h
    rw [if_neg e]
    have h1 := setUnit_keep (u := u) (p := .off) (endPhase_keep h) (Or.inl (by
      have := ne_failed_of_not_bne e (by decide)
      unfold endPhase modPwr unitSt at *; exact this))
    have h0 := unitSt_setUnit_same (endPhase s) u .off
    generalize setUnit (endPhase s) u .off = s1 at h1 h0 ⊢
    dsimp only
    split
    · rename_i hd
      have h2 := modWake_keep u (fun _ => {}) (stacksRetain_keep u (clearStaging_keep u h1))
      have h3 : unitSt (modWake (stacksRetain (clearStaging s1 u) u) u fun _ => {}) u = .off := by
        rw [unitSt_modWake, unitSt_stacksRetain_ne _ _ hd, unitSt_clearStaging, h0]
      generalize (modWake (stacksRetain (clearStaging s1 u) u) u fun _ => {}) = s2 at h2 h3 ⊢
      split
      · refine startWake_keep (modWake_keep _ _ h2) ?_
        rw [unitSt_modWake, h3]; decide
      · exact h2
    · exact dmcFollow_keep h1
  · exact h

theorem idleAfterRun_keep {r s : State} (d) (h : Keep r s) : Keep r (idleAfterRun s d) := by
  unfold idleAfterRun
  split
  · rename_i e
    simp only [Bool.and_eq_true] at e
    exact enterIdle_keep h (ne_failed_of_beq e.1.1 (by decide))
  · exact h

theorem offAfterRun_keep {r s : State} (d) (h : Keep r s) : Keep r (offAfterRun s d) := by
  unfold offAfterRun
  split
  · rename_i e
    simp only [Bool.and_eq_true] at e
    split
    · exact modWake_keep _ _ h
    · exact startOff_keep h (ne_failed_of_beq e.1.1 (by decide))
  · exact h

theorem engineIdleRun_keep {r : State} {x0} (x1) (x2) (hx0 : Keep r x0) : Keep r (engineIdleRun x0 x1 x2) := by
  unfold engineIdleRun
  try dsimp only
  repeat' (first | with_reducible assumption | with_reducible apply setEngOn_keep | split)

theorem hubOffRun_keep {r s : State} (k) (h : Keep r s) : Keep r (hubOffRun s k) := by
  unfold hubOffRun
  split
  · rename_i e
    simp only [Bool.and_eq_true] at e
    exact queuePhase_keep _ _ (setUnit_keep h (Or.inl (ne_failed_of_beq e.1.1.1 (by decide))))
  · exact h

theorem hubWakeRun_keep {r : State} {x0} (x1) (hx0 : Keep r x0) : Keep r (hubWakeRun x0 x1) := by
  unfold hubWakeRun
  try dsimp only
  repeat' (first | with_reducible assumption | with_reducible apply wakeHub_keep | split)

theorem flwWakeCmd_keep {r : State} {x0} (x1) (hx0 : Keep r x0) : Keep r (flwWakeCmd x0 x1).2 := by
  unfold flwWakeCmd
  try dsimp only
  repeat' (first
      | with_reducible assumption | with_reducible apply modWake_keep | with_reducible apply wakeDie_keep
      | refine Keep.snd (by assumption) ?_ | refine Keep.snd3 (by assumption) ?_
      | refine Keep.fst (by assumption) ?_ | intro _ | split)

theorem flwIdleCmd_keep {r s : State} (d) (h : Keep r s) : Keep r (flwIdleCmd s d).2 := by
  unfold flwIdleCmd
  split
  · rename_i e; exact startWake_keep (modWake_keep _ _ h) (show unitSt s d ≠ _ by rw [e]; decide)
  · exact h
  · rename_i e
    split
    · exact h
    · exact enterIdle_keep h (by rw [e]; decide)
  · exact h

theorem flwOffCmd_keep {r s : State} (d) (h : Keep r s) : Keep r (flwOffCmd s d).2 := by
  unfold flwOffCmd
  split
  · rename_i e
    split
    · exact h
    · exact startOff_keep h (by rw [e]; decide)
  · rename_i e
    split
    · exact h
    · refine startOff_keep (enterIdle_keep h (by rw [e]; decide)) ?_
      show tget _ (tset _ _ _ _) _ ≠ _
      rw [tget_tset_same]; decide
  · exact h

theorem flwCmd_keep {r : State} {x0} (x1) (x2) (hx0 : Keep r x0) : Keep r (flwCmd x0 x1 x2).2 := by
  unfold flwCmd
  try dsimp only
  repeat' (first
      | with_reducible assumption | with_reducible apply flwWakeCmd_keep | with_reducible apply flwIdleCmd_keep
      | with_reducible apply flwOffCmd_keep | refine Keep.snd (by assumption) ?_
      | refine Keep.snd3 (by assumption) ?_ | refine Keep.fst (by assumption) ?_ | split)

theorem powerMeasureRun_keep {r s : State} (b) (h : Keep r s) : Keep r (powerMeasureRun s b) := by
  have h1 := setRegN_keep Reg.PWR_PWR_MEAS b.toNat h
  unfold powerMeasureRun
  dsimp only
  split
  · refine raiseIrq_keep _ _ _ ?_
    exact modPwr_keep _ h1 fun _ => ⟨rfl, id, id⟩
  · exact h1

theorem capReleaseRun_keep {r s : State} (h : Keep r s) : Keep r (capReleaseRun s) := by
  unfold capReleaseRun
  split
  · exact modPwr_keep _ h fun _ => ⟨rfl, id, id⟩
  · exact h

theorem throttleRun_keep {r : State} {x0} (x1) (x2) (hx0 : Keep r x0) : Keep r (throttleRun x0 x1 x2) := by
  unfold throttleRun
  try dsimp only
  repeat' (first
      | with_reducible assumption | with_reducible apply setTemp_keep | with_reducible apply orReg_keep
      | with_reducible apply raiseIrqArgs_keep | with_reducible apply andNotReg_keep | split)

theorem dieOffRun_keep {r : State} {x0} (x1) (x2) (hx0 : Keep r x0) : Keep r (dieOffRun x0 x1 x2) := by
  unfold dieOffRun
  try dsimp only
  repeat' (first
      | with_reducible assumption | with_reducible apply setTemp_keep | with_reducible apply failDie_keep
      | with_reducible apply raiseIrqArgs_keep | split)

theorem tripRun_kept {r s : State} (u) (t) (h : Keep r s) : Kept r (tripRun s u t) := by
  have h1 := setTemp_keep u t h
  unfold tripRun
  dsimp only
  split
  · refine moduleReset_kept _ (Keep.toKept ?_)
    exact modPwr_keep _ h1 fun _ => ⟨rfl, id, id⟩
  · exact h1.toKept

theorem ref25Loss_keep {r s : State} (h : Keep r s) : Keep r (ref25Loss s) := by
  unfold ref25Loss
  split
  · exact h
  · refine raiseIrq_keep _ _ _ ?_
    exact modPwr_keep _ h fun _ => ⟨rfl, id, id⟩

theorem ref156Loss_of {r s : State} (e : s.pwr.ref156 = true) (h : Keep r (modPwr s fun p => { p with ref156 := false })) :
    Keep r (ref156Loss s) := by
  unfold ref156Loss
  rw [e, Bool.not_true, if_neg Bool.false_ne_true]
  extract_lets s1 s2 s3 s4 s5
  have h3 : Keep r s3 := Keep.foldl (raiseIrq_keep _ _ _ (raiseIrq_keep _ _ _ (orReg_keep _ _ h)))
    fun s n hs => linkLossRun_keep _ hs
  clear_value s3
  have h4 : Keep r s4 := by
    refine Keep.foldl h3 fun s p hs => ?_
    split
    · exact portLeave_keep _ _ hs
    · exact hs
  clear_value s4
  have h5 : Keep r s5 := setHostLanes_keep _ h4
  clear_value s5
  split
  · exact planeDown_keep h5
  · exact h5

theorem ref156Loss_keep {r s : State} (h : Keep r s) : Keep r (ref156Loss s) := by
  by_cases e : s.pwr.ref156 = true
  · refine ref156Loss_of e ?_
    exact modPwr_keep _ h fun _ => ⟨rfl, id, fun _ => rfl⟩
  · have e' : s.pwr.ref156 = false := by simpa using e
    unfold ref156Loss
    rw [e', Bool.not_false, if_pos rfl]
    exact h

theorem ref156Return_keep {s : State} (e : s.pwr.ref156 = false) :
    Keep (modPwr s fun p => { p with ref156 := true }) (ref156Return s) := by
  have h1 := Keep.refl (modPwr s fun p => { p with ref156 := true })
  unfold ref156Return
  rw [e, if_neg Bool.false_ne_true]
  dsimp only
  refine Keep.foldl ?_ fun s p h => ?_
  · split
    · exact modSte_keep _ h1
    · exact h1
  · split
    · exact portTrain_keep _ h
    · exact h

theorem ref156Return_lost {s : State} (e : s.pwr.ref156 = true) : ref156Return s = s := by
  unfold ref156Return; rw [e, if_pos rfl]

theorem optimeTickRun_keep {r s : State} (h : Keep r s) : Keep r (optimeTickRun s) := by
  unfold optimeTickRun
  split
  · exact modPwr_keep _ h fun _ => ⟨rfl, id, id⟩
  · exact h

theorem hostTrain_keep {r : State} {x0} (x1) (hx0 : Keep r x0) : Keep r (hostTrain x0 x1) := by
  unfold hostTrain
  try dsimp only
  repeat' (first | with_reducible assumption | with_reducible apply setHostLanes_keep | split)

theorem jtagSet_keep {r s : State} (i) (d) (b) (h : Keep r s) : Keep r (jtagSet s i d b) := by
  unfold jtagSet
  refine send_keep _ ?_
  exact modPwr_keep _ h fun _ => ⟨rfl, id, id⟩

theorem jtagBypass_keep {r : State} {x0} (hx0 : Keep r x0) : Keep r (jtagBypass x0) := by
  unfold jtagBypass
  try dsimp only
  repeat' (first | with_reducible assumption | with_reducible apply jtagSet_keep | split)

theorem jtagIdcode_keep {r : State} {x0} (hx0 : Keep r x0) : Keep r (jtagIdcode x0) := by
  unfold jtagIdcode
  try dsimp only
  repeat' (first
      | with_reducible assumption | with_reducible apply jtagSet_keep | with_reducible apply Keep.foldl
      | with_reducible apply Keep.foldl_snd | with_reducible apply Keep.foldl_fst
      | with_reducible apply Keep.foldl_snd2 | intro _ | split)

theorem jtagSample_keep {r s : State} (a) (b) (h : Keep r s) : Keep r (jtagSample s a b) := by
  unfold jtagSample
  split
  · refine jtagSet_keep _ _ _ ?_
    exact modPwr_keep _ h fun _ => ⟨rfl, id, id⟩
  · exact jtagBypass_keep h

theorem jtagExtest_keep {r : State} {x0} (hx0 : Keep r x0) : Keep r (jtagExtest x0) := by
  unfold jtagExtest
  try dsimp only
  repeat' (first
      | with_reducible assumption | with_reducible apply jtagSet_keep | with_reducible apply jtagBypass_keep
      | split)

theorem jtagClamp_keep {r : State} {x0} (hx0 : Keep r x0) : Keep r (jtagClamp x0) := by
  unfold jtagClamp
  try dsimp only
  repeat' (first
      | with_reducible assumption | with_reducible apply jtagSet_keep | with_reducible apply jtagBypass_keep
      | split)

theorem jtagHighz_keep {r : State} {x0} (hx0 : Keep r x0) : Keep r (jtagHighz x0) := by
  unfold jtagHighz
  try dsimp only
  repeat' (first
      | with_reducible assumption | with_reducible apply jtagSet_keep | with_reducible apply jtagBypass_keep
      | split)

/-! ## ServiceOps -/

theorem takeRequest_keep {r : State} {x0} (hx0 : Keep r x0) : Keep r (takeRequest x0).2.2.2 := by
  unfold takeRequest
  try dsimp only
  repeat' (first
      | with_reducible assumption | with_reducible apply scratchRead_keep | with_reducible apply andNotReg_keep
      | refine Keep.snd (by assumption) ?_ | refine Keep.snd3 (by assumption) ?_
      | refine Keep.fst (by assumption) ?_ | split)

theorem reply_keep {r : State} {x0} (x1) (x2) (x3) (x4) (hx0 : Keep r x0) : Keep r (reply x0 x1 x2 x3 x4) := by
  unfold reply
  try dsimp only
  repeat' (first
      | with_reducible assumption | with_reducible apply scratchWrite_keep | with_reducible apply raiseIrq_keep
      | with_reducible apply orReg_keep | split)

theorem serve_keep {r : State} {x0} (x1) (x2) (x3) (x4) (hx0 : Keep r x0) (hx4 : ∀ y0 y1 y2, Keep r y0 → Keep r (x4 y0 y1 y2)) : Keep r (serve x0 x1 x2 x3 x4) := by
  unfold serve
  try dsimp only
  repeat' (first
      | with_reducible assumption | with_reducible apply hx4 | with_reducible apply takeRequest_keep
      | with_reducible apply reply_keep | refine Keep.snd (by assumption) ?_ | refine Keep.snd3 (by assumption) ?_
      | refine Keep.fst (by assumption) ?_ | split)

theorem serveNow_keep {r : State} {x0} (x1) (x2) (x3) (x4) (hx0 : Keep r x0) (hx4 : ∀ y0 y1, Keep r y0 → Keep r (x4 y0 y1).2.2) : Keep r (serveNow x0 x1 x2 x3 x4) := by
  unfold serveNow
  try dsimp only
  repeat' (first
      | with_reducible assumption | with_reducible apply hx4 | with_reducible apply serve_keep
      | with_reducible apply reply_keep | refine Keep.snd (by assumption) ?_ | refine Keep.snd3 (by assumption) ?_
      | refine Keep.fst (by assumption) ?_ | intro _ | split)

theorem identGetRun_keep {r : State} {x0} (hx0 : Keep r x0) : Keep r (identGetRun x0) := by
  unfold identGetRun
  try dsimp only
  repeat' (first | with_reducible assumption | with_reducible apply serveNow_keep | intro _ | split)

theorem attestRun_keep {r : State} {x0} (hx0 : Keep r x0) : Keep r (attestRun x0) := by
  unfold attestRun
  try dsimp only
  repeat' (first
      | with_reducible assumption | with_reducible apply serveNow_keep | simp only [↓Keep.upd_iff] | intro _
      | split)

theorem imageWriteRun_keep {r : State} {x0} (hx0 : Keep r x0) : Keep r (imageWriteRun x0) := by
  unfold imageWriteRun
  try dsimp only
  repeat' (first
      | with_reducible assumption | with_reducible apply serveNow_keep | with_reducible apply flashWrite_keep
      | intro _ | split)

theorem imageActivateRun_keep {r : State} {x0} (hx0 : Keep r x0) : Keep r (imageActivateRun x0) := by
  unfold imageActivateRun
  try dsimp only
  repeat' (first
      | with_reducible assumption | with_reducible apply serve_keep | with_reducible apply reply_keep
      | with_reducible apply slotResult_keep | with_reducible apply writeHeader_keep
      | with_reducible apply restartAsk_keep | refine Keep.snd (by assumption) ?_
      | refine Keep.snd3 (by assumption) ?_ | refine Keep.fst (by assumption) ?_ | intro _ | split)

theorem bootConfirmRun_keep {r : State} {x0} (hx0 : Keep r x0) : Keep r (bootConfirmRun x0) := by
  refine serveNow_keep _ _ _ _ hx0 fun s b h => ?_
  split
  · exact h
  · have g : Keep r (andNotReg (writeHeader s s.boot.slot trialNone) Reg.BOOT_BOOT_STAT 4#32) :=
      andNotReg_keep _ _ (writeHeader_keep _ _ h)
    dsimp only
    split
    · exact ⟨⟨g.pending, Nat.le_trans g.floor (Nat.le_max_left _ _), g.owner1, g.revoked, g.mem, g.regs⟩, g.pwr⟩
    · exact g

theorem siteWriteRun_keep {r : State} {x0} (hx0 : Keep r x0) : Keep r (siteWriteRun x0) := by
  unfold siteWriteRun
  try dsimp only
  repeat' (first
      | with_reducible assumption | with_reducible apply serveNow_keep | with_reducible apply flashWrite_keep
      | with_reducible apply flashErase_keep | intro _ | split)

theorem ownerAddRun_keep {r : State} {x0} (hx0 : Keep r x0) : Keep r (ownerAddRun x0) := by
  refine serveNow_keep _ _ _ _ hx0 fun s b h => ?_
  split
  · exact h
  · rename_i hn
    refine ⟨⟨h.pending, h.floor, fun x hx => ?_, h.revoked, h.mem, h.regs⟩, h.pwr⟩
    have := h.owner1 x hx
    simp [this] at hn

theorem mgmtRestartRun_keep {r : State} {x0} (hx0 : Keep r x0) : Keep r (mgmtRestartRun x0) := by
  unfold mgmtRestartRun
  try dsimp only
  repeat' (first
      | with_reducible assumption | with_reducible apply serve_keep | with_reducible apply restartAsk_keep
      | with_reducible apply reply_keep | intro _ | split)

theorem setDomain_keep {r : State} {x0} (x1) (x2) (hx0 : Keep r x0) : Keep r (setDomain x0 x1 x2) := by
  unfold setDomain
  try dsimp only
  repeat' (first
      | with_reducible assumption | simp only [↓Keep.upd_iff] | simp only [↓Keep.updMem_iff] | intro _ | split)

theorem writePin_keep {r : State} (x0) {x1} (x2) (hx1 : Keep r x1) : Keep r (writePin x0 x1 x2) := by
  unfold writePin
  try dsimp only
  repeat' (first
      | with_reducible assumption | simp only [↓Keep.upd_iff] | simp only [↓Keep.updMem_iff]
      | refine Keep.snd (by assumption) ?_ | refine Keep.snd3 (by assumption) ?_
      | refine Keep.fst (by assumption) ?_ | intro _ | split)

theorem admitStep_keep {r : State} {x0} (x1) (hx0 : Keep r x0) : Keep r (admitStep x0 x1).2 := by
  unfold admitStep
  try dsimp only
  repeat' (first
      | with_reducible assumption | with_reducible apply reply_keep | with_reducible apply setDomain_keep
      | with_reducible apply flwWakeCmd_keep | with_reducible apply writePin_keep
      | refine Keep.snd (by assumption) ?_ | refine Keep.snd3 (by assumption) ?_
      | refine Keep.fst (by assumption) ?_ | with_reducible apply Keep.foldl | with_reducible apply Keep.foldl_snd
      | with_reducible apply Keep.foldl_fst | with_reducible apply Keep.foldl_snd2 | intro _ | split)

theorem admitGo_keep {r : State} {x0} (x1) (hx0 : Keep r x0) : Keep r (admitGo x0 x1).2 := by
  unfold admitGo
  try dsimp only
  repeat' (first
      | with_reducible assumption | with_reducible apply admitStep_keep | refine Keep.snd (by assumption) ?_
      | refine Keep.snd3 (by assumption) ?_ | refine Keep.fst (by assumption) ?_ | split)

theorem jobAdmitRun_keep {r : State} {x0} (hx0 : Keep r x0) : Keep r (jobAdmitRun x0) := by
  unfold jobAdmitRun
  try dsimp only
  repeat' (first
      | with_reducible assumption | with_reducible apply serve_keep | with_reducible apply admitGo_keep
      | simp only [↓Keep.upd_iff] | simp only [↓Keep.updMem_iff] | refine Keep.snd (by assumption) ?_
      | refine Keep.snd3 (by assumption) ?_ | refine Keep.fst (by assumption) ?_ | intro _ | split)

theorem jobAdmitResumeRun_keep {r : State} {x0} (hx0 : Keep r x0) : Keep r (jobAdmitResumeRun x0) := by
  unfold jobAdmitResumeRun
  try dsimp only
  repeat' (first
      | with_reducible assumption | with_reducible apply admitGo_keep | simp only [↓Keep.upd_iff]
      | simp only [↓Keep.updMem_iff] | refine Keep.snd (by assumption) ?_ | refine Keep.snd3 (by assumption) ?_
      | refine Keep.fst (by assumption) ?_ | with_reducible apply Keep.foldl | with_reducible apply Keep.foldl_snd
      | with_reducible apply Keep.foldl_fst | with_reducible apply Keep.foldl_snd2 | intro _ | split)

theorem unbindQueue_keep {r : State} {x0} (x1) (hx0 : Keep r x0) : Keep r (unbindQueue x0 x1) := by
  unfold unbindQueue
  try dsimp only
  repeat' (first | with_reducible assumption | with_reducible apply setQueue_keep | split)

theorem unbindToken_keep {r : State} {x0} (x1) (hx0 : Keep r x0) : Keep r (unbindToken x0 x1) := by
  unfold unbindToken
  try dsimp only
  repeat' (first | with_reducible assumption | with_reducible apply setTok_keep | simp only [↓Keep.upd_iff] | split)

theorem releaseDomain_keep {r : State} {x0} (x1) (x2) (hx0 : Keep r x0) : Keep r (releaseDomain x0 x1 x2) := by
  unfold releaseDomain
  try dsimp only
  repeat' (first
      | with_reducible assumption | with_reducible apply setDomain_keep | with_reducible apply unbindQueue_keep
      | with_reducible apply unbindToken_keep | with_reducible apply ctSettle_keep | with_reducible apply setCt_keep
      | with_reducible apply forEach_keep | with_reducible apply offAfterRestart_keep | simp only [↓Keep.upd_iff]
      | simp only [↓Keep.updMem_iff] | simp only [↓Keep.updPwr_iff] | refine Keep.snd (by assumption) ?_
      | refine Keep.snd3 (by assumption) ?_ | refine Keep.fst (by assumption) ?_ | with_reducible apply Keep.foldl
      | with_reducible apply Keep.foldl_snd | with_reducible apply Keep.foldl_fst
      | with_reducible apply Keep.foldl_snd2 | intro _ | split)

theorem jobReleaseRun_keep {r : State} {x0} (hx0 : Keep r x0) : Keep r (jobReleaseRun x0) := by
  unfold jobReleaseRun
  try dsimp only
  repeat' (first
      | with_reducible assumption | with_reducible apply serveNow_keep | with_reducible apply releaseDomain_keep
      | refine Keep.snd (by assumption) ?_ | refine Keep.snd3 (by assumption) ?_
      | refine Keep.fst (by assumption) ?_ | intro _ | split)

theorem memQueryRun_keep {r : State} {x0} (hx0 : Keep r x0) : Keep r (memQueryRun x0) := by
  unfold memQueryRun
  try dsimp only
  repeat' (first
      | with_reducible assumption | with_reducible apply serveNow_keep | with_reducible apply Keep.foldl
      | with_reducible apply Keep.foldl_snd | with_reducible apply Keep.foldl_fst
      | with_reducible apply Keep.foldl_snd2 | intro _ | split)

theorem rangeZeroingRun_keep {r : State} {x0} (hx0 : Keep r x0) : Keep r (rangeZeroingRun x0) := by
  unfold rangeZeroingRun
  split
  · exact hx0
  · refine Keep.ofMem hx0 rfl rfl rfl rfl fun x => ?_
    simp only [Memory.wf, Bool.and_eq_true] at x ⊢
    exact ⟨⟨⟨⟨⟨tclear_wf _ _ _ x.1.1.1.1.1, tclear_wf _ _ _ x.1.1.1.1.2⟩, tclear_wf _ _ _ x.1.1.1.2⟩, x.1.1.2⟩, x.1.2⟩, x.2⟩

theorem queueBindRun_keep {r : State} {x0} (hx0 : Keep r x0) : Keep r (queueBindRun x0) := by
  unfold queueBindRun
  try dsimp only
  repeat' (first
      | with_reducible assumption | with_reducible apply serveNow_keep | with_reducible apply setQueue_keep
      | intro _ | split)

theorem queueUnbindRun_keep {r : State} {x0} (hx0 : Keep r x0) : Keep r (queueUnbindRun x0) := by
  unfold queueUnbindRun
  try dsimp only
  repeat' (first
      | with_reducible assumption | with_reducible apply serveNow_keep | with_reducible apply setQueue_keep
      | intro _ | split)

theorem tokenBindRun_keep {r : State} {x0} (hx0 : Keep r x0) : Keep r (tokenBindRun x0) := by
  unfold tokenBindRun
  try dsimp only
  repeat' (first
      | with_reducible assumption | with_reducible apply serveNow_keep | with_reducible apply setTok_keep
      | with_reducible apply Keep.foldl | with_reducible apply Keep.foldl_snd | with_reducible apply Keep.foldl_fst
      | with_reducible apply Keep.foldl_snd2 | intro _ | split)

theorem tokenUnbindRun_keep {r : State} {x0} (hx0 : Keep r x0) : Keep r (tokenUnbindRun x0) := by
  unfold tokenUnbindRun
  try dsimp only
  repeat' (first
      | with_reducible assumption | with_reducible apply serveNow_keep | with_reducible apply unbindToken_keep
      | with_reducible apply Keep.foldl | with_reducible apply Keep.foldl_snd | with_reducible apply Keep.foldl_fst
      | with_reducible apply Keep.foldl_snd2 | intro _ | split)

theorem loadWake_keep {r : State} {x0} (x1) (hx0 : Keep r x0) : Keep r (loadWake x0 x1) := by
  unfold loadWake
  try dsimp only
  repeat' (first
      | with_reducible assumption | with_reducible apply wakeAll_keep | refine Keep.snd (by assumption) ?_
      | refine Keep.snd3 (by assumption) ?_ | refine Keep.fst (by assumption) ?_ | split)

theorem flowLoadRun_keep {r : State} {x0} (hx0 : Keep r x0) : Keep r (flowLoadRun x0) := by
  unfold flowLoadRun
  try dsimp only
  repeat' (first
      | with_reducible assumption | with_reducible apply loadWake_keep | with_reducible apply serveNow_keep
      | with_reducible apply writeMem_keep | refine Keep.snd (by assumption) ?_
      | refine Keep.snd3 (by assumption) ?_ | refine Keep.fst (by assumption) ?_ | intro _ | split)

theorem portmapSetRun_keep {r : State} {x0} (hx0 : Keep r x0) : Keep r (portmapSetRun x0) := by
  unfold portmapSetRun
  try dsimp only
  repeat' (first
      | with_reducible assumption | with_reducible apply serveNow_keep | with_reducible apply raiseIrq_keep
      | with_reducible apply modSte_keep | with_reducible apply Keep.foldl | with_reducible apply Keep.foldl_snd
      | with_reducible apply Keep.foldl_fst | with_reducible apply Keep.foldl_snd2 | intro _ | split)

theorem portmapGetRun_keep {r : State} {x0} (hx0 : Keep r x0) : Keep r (portmapGetRun x0) := by
  unfold portmapGetRun
  try dsimp only
  repeat' (first
      | with_reducible assumption | with_reducible apply serveNow_keep | refine Keep.snd (by assumption) ?_
      | refine Keep.snd3 (by assumption) ?_ | refine Keep.fst (by assumption) ?_ | with_reducible apply Keep.foldl
      | with_reducible apply Keep.foldl_snd | with_reducible apply Keep.foldl_fst
      | with_reducible apply Keep.foldl_snd2 | intro _ | split)

theorem linkTableSetRun_keep {r : State} {x0} (hx0 : Keep r x0) : Keep r (linkTableSetRun x0) := by
  unfold linkTableSetRun
  try dsimp only
  repeat' (first
      | with_reducible assumption | with_reducible apply serve_keep | with_reducible apply reply_keep
      | with_reducible apply fixRequest_keep | with_reducible apply modFix_keep | intro _ | split)

theorem linkTableGetRun_keep {r : State} {x0} (hx0 : Keep r x0) : Keep r (linkTableGetRun x0) := by
  unfold linkTableGetRun
  try dsimp only
  repeat' (first
      | with_reducible assumption | with_reducible apply serveNow_keep | refine Keep.snd (by assumption) ?_
      | refine Keep.snd3 (by assumption) ?_ | refine Keep.fst (by assumption) ?_ | intro _ | split)

theorem saveDoneRun_keep {r : State} {x0} (x1) (hx0 : Keep r x0) : Keep r (saveDoneRun x0 x1) := by
  unfold saveDoneRun
  try dsimp only
  repeat' (first
      | with_reducible assumption | with_reducible apply fixSaveEnd_keep | with_reducible apply modFix_keep
      | with_reducible apply reply_keep | refine Keep.snd (by assumption) ?_ | refine Keep.snd3 (by assumption) ?_
      | refine Keep.fst (by assumption) ?_ | intro _ | split)

theorem sillageReadRun_keep {r : State} {x0} (hx0 : Keep r x0) : Keep r (sillageReadRun x0) := by
  unfold sillageReadRun
  try dsimp only
  repeat' (first
      | with_reducible assumption | with_reducible apply takeRequest_keep | with_reducible apply reply_keep
      | with_reducible apply serveNow_keep | refine Keep.snd (by assumption) ?_
      | refine Keep.snd3 (by assumption) ?_ | refine Keep.fst (by assumption) ?_ | intro _ | split)

end Sys2Proof.Machine
end

