-- ==== Sys2Proof/Laws/KeepAccess.lean ====
section
/-!
SUPPORT. `Keep` for each operation of the block: register pages, the host transport and the idle tick.
-/

namespace Sys2Proof.Machine

set_option linter.all false

/-! ## PageStat -/

theorem refuse_keep {r : State} {x0} (x1) (x2) (x3) (x4) (hx0 : Keep r x0) : Keep r (refuse x0 x1 x2 x3 x4) := by
  unfold refuse
  try dsimp only
  repeat' (first
      | with_reducible assumption | with_reducible apply bumpReg_keep | with_reducible apply setRegN_keep | split)

/-! ## DdrOps -/

theorem setChan_keep {r : State} {x0} (x1) (x2) (hx0 : Keep r x0) : Keep r (setChan x0 x1 x2) := by
  unfold setChan
  try dsimp only
  repeat' (first
      | with_reducible assumption | simp only [↓Keep.upd_iff] | simp only [↓Keep.updMem_iff] | intro _ | split)

theorem chooseSet_keep {r : State} {x0} (hx0 : Keep r x0) : Keep r (chooseSet x0) := by
  unfold chooseSet
  try dsimp only
  repeat' (first
      | with_reducible assumption | with_reducible apply forEach_keep | with_reducible apply setRegN_keep
      | with_reducible apply raiseIrqArgs_keep | simp only [↓Keep.upd_iff] | simp only [↓Keep.updMem_iff]
      | refine Keep.snd (by assumption) ?_ | refine Keep.snd3 (by assumption) ?_
      | refine Keep.fst (by assumption) ?_ | with_reducible apply Keep.foldl | with_reducible apply Keep.foldl_snd
      | with_reducible apply Keep.foldl_fst | with_reducible apply Keep.foldl_snd2 | intro _ | split)

theorem nextChannel_keep {r : State} {x0} (hx0 : Keep r x0) : Keep r (nextChannel x0) := by
  unfold nextChannel
  try dsimp only
  repeat' (first
      | with_reducible assumption | with_reducible apply chooseSet_keep | simp only [↓Keep.upd_iff]
      | simp only [↓Keep.updMem_iff] | split)

theorem chanTrainRun_keep {r : State} {x0} (x1) (hx0 : Keep r x0) : Keep r (chanTrainRun x0 x1) := by
  unfold chanTrainRun
  try dsimp only
  repeat' (first
      | with_reducible assumption | with_reducible apply nextChannel_keep | with_reducible apply setChan_keep
      | simp only [↓Keep.upd_iff] | simp only [↓Keep.updMem_iff] | intro _ | split)

theorem chanEndRun_keep {r : State} {x0} (x1) (hx0 : Keep r x0) : Keep r (chanEndRun x0 x1) := by
  unfold chanEndRun
  try dsimp only
  repeat' (first
      | with_reducible assumption | with_reducible apply setChan_keep | with_reducible apply nextChannel_keep
      | with_reducible apply event_keep | split)

theorem chanFailRun_keep {r : State} {x0} (x1) (hx0 : Keep r x0) : Keep r (chanFailRun x0 x1) := by
  unfold chanFailRun
  try dsimp only
  repeat' (first
      | with_reducible assumption | with_reducible apply raiseIrqArgs_keep | with_reducible apply setChan_keep
      | split)

theorem scrubRun_keep {r : State} {x0} (x1) (x2) (x3) (x4) (x5) (hx0 : Keep r x0) : Keep r (scrubRun x0 x1 x2 x3 x4 x5) := by
  unfold scrubRun
  try dsimp only
  repeat' (first
      | with_reducible assumption | with_reducible apply eccCorrected_keep
      | with_reducible apply eccUncorrectable_keep | with_reducible apply setRegN_keep
      | with_reducible apply raiseIrq_keep | refine Keep.snd (by assumption) ?_
      | refine Keep.snd3 (by assumption) ?_ | refine Keep.fst (by assumption) ?_ | split)

/-! ## RegView -/

theorem setLatch_keep {r : State} {x0} (x1) (x2) (hx0 : Keep r x0) : Keep r (setLatch x0 x1 x2) := by
  unfold setLatch
  try dsimp only
  repeat' (first
      | with_reducible assumption | simp only [↓Keep.upd_iff] | simp only [↓Keep.updPwr_iff] | intro _ | split)

theorem readRun_keep {r : State} {x0} (x1) (x2) (x3) (hx0 : Keep r x0) : Keep r (readRun x0 x1 x2 x3).2 := by
  unfold readRun
  try dsimp only
  repeat' (first
      | with_reducible assumption | with_reducible apply setLatch_keep | refine Keep.snd (by assumption) ?_
      | refine Keep.snd3 (by assumption) ?_ | refine Keep.fst (by assumption) ?_ | intro _ | split)

/-! ## SoftReset -/

theorem wOk_keep {r : State} {x0} (hx0 : Keep r x0) : Keep r (wOk x0).2.2 := by
  unfold wOk
  try dsimp only
  repeat' (first | with_reducible assumption | split)

theorem wBad_keep {r : State} {x0} (x1) (hx0 : Keep r x0) : Keep r (wBad x0 x1).2.2 := by
  unfold wBad
  try dsimp only
  repeat' (first | with_reducible assumption | split)

theorem wCmd_keep {r : State} {x0} (hx0 : Keep r x0.2) : Keep r (wCmd x0).2.2 := by
  unfold wCmd
  try dsimp only
  repeat' (first | with_reducible assumption | split)

theorem resetPage_keep {r : State} {x0} (x1) (x2) (hx0 : Keep r x0) : Keep r (resetPage x0 x1 x2) := by
  unfold resetPage
  refine settleQuiet_keep _ _ ?_
  exact ⟨⟨hx0.pending, hx0.floor, hx0.owner1, hx0.revoked, hx0.mem, fun x => filter_wf _ _ (hx0.regs x)⟩, hx0.pwr⟩

theorem setSrst_keep {r : State} {x0} (x1) (x2) (x3) (hx0 : Keep r x0) : Keep r (setSrst x0 x1 x2 x3) := by
  unfold setSrst
  try dsimp only
  repeat' (first | with_reducible assumption | simp only [↓Keep.upd_iff] | intro _ | split)

theorem abortJob_keep {r : State} {x0} (x1) (x2) (hx0 : Keep r x0) : Keep r (abortJob x0 x1 x2) := by
  unfold abortJob
  try dsimp only
  repeat' (first
      | with_reducible assumption | with_reducible apply reduceEnd_keep | with_reducible apply finish_keep
      | with_reducible apply setOpt_keep | with_reducible apply scramble_keep | simp only [↓Keep.upd_iff]
      | refine Keep.snd (by assumption) ?_ | refine Keep.snd3 (by assumption) ?_
      | refine Keep.fst (by assumption) ?_ | with_reducible apply Keep.foldl | with_reducible apply Keep.foldl_snd
      | with_reducible apply Keep.foldl_fst | with_reducible apply Keep.foldl_snd2 | intro _ | split)

theorem resetPort_keep {r : State} {x0} (x1) (hx0 : Keep r x0) : Keep r (resetPort x0 x1) := by
  unfold resetPort
  try dsimp only
  repeat' (first | with_reducible assumption | with_reducible apply setPort_keep | split)

theorem resetLink_keep {r : State} {x0} (x1) (hx0 : Keep r x0) : Keep r (resetLink x0 x1) := by
  unfold resetLink
  try dsimp only
  repeat' (first
      | with_reducible assumption | with_reducible apply loseLink_keep | with_reducible apply setLink_keep | split)

theorem resetPlane_keep {r : State} {x0} (hx0 : Keep r x0) : Keep r (resetPlane x0) := by
  unfold resetPlane
  try dsimp only
  repeat' (first
      | with_reducible assumption | with_reducible apply modSte_keep | with_reducible apply planeRetrain_keep
      | intro _ | split)

theorem srstStart_keep {r : State} {x0} (x1) (x2) (hx0 : Keep r x0) : Keep r (srstStart x0 x1 x2) := by
  unfold srstStart
  try dsimp only
  repeat' (first
      | with_reducible assumption | with_reducible apply setSrst_keep | with_reducible apply resetLink_keep
      | with_reducible apply resetPort_keep | with_reducible apply portLeave_keep
      | with_reducible apply resetPlane_keep | with_reducible apply abortJob_keep
      | with_reducible apply resetPage_keep | refine Keep.snd (by assumption) ?_
      | refine Keep.snd3 (by assumption) ?_ | refine Keep.fst (by assumption) ?_ | split)

theorem engTestCmd_keep {r : State} {x0} (x1) (x2) (hx0 : Keep r x0) : Keep r (engTestCmd x0 x1 x2).2 := by
  unfold engTestCmd
  try dsimp only
  repeat' (first | with_reducible assumption | with_reducible apply setEng_keep | split)

theorem srstDone_keep {r : State} {x0} (x1) (x2) (hx0 : Keep r x0) : Keep r (srstDone x0 x1 x2) := by
  unfold srstDone
  try dsimp only
  repeat' (first
      | with_reducible assumption | with_reducible apply setSrst_keep | with_reducible apply setEng_keep
      | with_reducible apply portTrain_keep | split)

theorem testDone_keep {r : State} {x0} (x1) (x2) (x3) (hx0 : Keep r x0) : Keep r (testDone x0 x1 x2 x3) := by
  unfold testDone
  try dsimp only
  repeat' (first
      | with_reducible assumption | with_reducible apply setEng_keep | with_reducible apply setRegN_keep
      | with_reducible apply raiseIrq_keep | refine Keep.snd (by assumption) ?_
      | refine Keep.snd3 (by assumption) ?_ | refine Keep.fst (by assumption) ?_ | split)

theorem lnkEnable_keep {r : State} {x0} (x1) (x2) (hx0 : Keep r x0) : Keep r (lnkEnable x0 x1 x2) := by
  unfold lnkEnable
  try dsimp only
  repeat' (first
      | with_reducible assumption | with_reducible apply loseLink_keep | with_reducible apply setLink_keep | split)

theorem ctlActs_keep {r : State} {x0} (x1) (x2) (x3) (x4) (hx0 : Keep r x0) : Keep r (ctlActs x0 x1 x2 x3 x4).2 := by
  unfold ctlActs
  try dsimp only
  repeat' (first
      | with_reducible assumption | with_reducible apply rdnEnable_keep | with_reducible apply lnkEnable_keep
      | with_reducible apply fppEnableCmd_keep | with_reducible apply lpeHoldCmd_keep
      | with_reducible apply lpeReleaseCmd_keep | with_reducible apply fslHoldCmd_keep
      | refine Keep.snd (by assumption) ?_ | refine Keep.snd3 (by assumption) ?_
      | refine Keep.fst (by assumption) ?_ | split)

theorem ctlWrite_keep {r : State} {x0} (x1) (x2) (x3) (hx0 : Keep r x0) : Keep r (ctlWrite x0 x1 x2 x3).2.2 := by
  unfold ctlWrite
  try dsimp only
  repeat' (first
      | with_reducible assumption | with_reducible apply ctlActs_keep | with_reducible apply wBad_keep
      | with_reducible apply setRegN_keep | with_reducible apply wOk_keep | with_reducible apply srstStart_keep
      | refine Keep.snd (by assumption) ?_ | refine Keep.snd3 (by assumption) ?_
      | refine Keep.fst (by assumption) ?_ | split)

/-! ## RegWrite -/

theorem storeReg_keep {r : State} {x0} (x1) (x2) (x3) (x4) (hx0 : Keep r x0) : Keep r (storeReg x0 x1 x2 x3 x4) := by
  unfold storeReg
  try dsimp only
  repeat' (first
      | with_reducible assumption | with_reducible apply setReg_keep | refine Keep.snd (by assumption) ?_
      | refine Keep.snd3 (by assumption) ?_ | refine Keep.fst (by assumption) ?_ | split)

theorem writePWR_keep {r : State} {x0} (x1) (x2) (hx0 : Keep r x0) : Keep r (writePWR x0 x1 x2).2.2 := by
  unfold writePWR
  try dsimp only
  repeat' (first
      | with_reducible assumption | with_reducible apply wCmd_keep | with_reducible apply flwCmd_keep
      | with_reducible apply wOk_keep | with_reducible apply storeReg_keep | refine Keep.snd (by assumption) ?_
      | refine Keep.snd3 (by assumption) ?_ | refine Keep.fst (by assumption) ?_ | split)

theorem mbxLock_keep {r : State} {x0} (x1) (x2) (hx0 : Keep r x0) : Keep r (mbxLock x0 x1 x2).2 := by
  unfold mbxLock
  try dsimp only
  repeat' (first | with_reducible assumption | with_reducible apply setRegFld_keep | split)

theorem ringFirmware_keep {r : State} {x0} (x1) (x2) (x3) (hx0 : Keep r x0) : Keep r (ringFirmware x0 x1 x2 x3) := by
  unfold ringFirmware
  try dsimp only
  repeat' (first
      | with_reducible assumption | with_reducible apply setRegN_keep | with_reducible apply orReg_keep | split)

theorem writeHST_keep {r : State} {x0} (x1) (x2) (x3) (x4) (hx0 : Keep r x0) : Keep r (writeHST x0 x1 x2 x3 x4).2.2 := by
  unfold writeHST
  try dsimp only
  repeat' (first
      | with_reducible assumption | with_reducible apply wCmd_keep | with_reducible apply mbxLock_keep
      | with_reducible apply wOk_keep | with_reducible apply ringFirmware_keep | with_reducible apply storeReg_keep
      | refine Keep.snd (by assumption) ?_ | refine Keep.snd3 (by assumption) ?_
      | refine Keep.fst (by assumption) ?_ | split)

theorem writeBOOT_keep {r : State} {x0} (x1) (x2) (hx0 : Keep r x0) : Keep r (writeBOOT x0 x1 x2).2.2 := by
  unfold writeBOOT
  try dsimp only
  repeat' (first
      | with_reducible assumption | with_reducible apply wOk_keep | with_reducible apply wCmd_keep
      | with_reducible apply restartCmdRun_keep | with_reducible apply storeReg_keep
      | refine Keep.snd (by assumption) ?_ | refine Keep.snd3 (by assumption) ?_
      | refine Keep.fst (by assumption) ?_ | split)

theorem writePROT_keep {r : State} {x0} (x1) (x2) (hx0 : Keep r x0) : Keep r (writePROT x0 x1 x2).2.2 := by
  unfold writePROT
  try dsimp only
  repeat' (first
      | with_reducible assumption | with_reducible apply wCmd_keep | with_reducible apply sealCmd_keep
      | with_reducible apply wOk_keep | with_reducible apply rightsCmd_keep | with_reducible apply keySelCmd_keep
      | with_reducible apply keyInfoCmd_keep | with_reducible apply keyLoadCmd_keep
      | with_reducible apply storeReg_keep | refine Keep.snd (by assumption) ?_
      | refine Keep.snd3 (by assumption) ?_ | refine Keep.fst (by assumption) ?_ | split)

theorem setPin_keep {r : State} {x0} (x1) (x2) (hx0 : Keep r x0) : Keep r (setPin x0 x1 x2) := by
  unfold setPin
  try dsimp only
  repeat' (first
      | with_reducible assumption | simp only [↓Keep.upd_iff] | simp only [↓Keep.updMem_iff] | intro _ | split)

theorem pinWrite_keep {r : State} {x0} (x1) (x2) (hx0 : Keep r x0) : Keep r (pinWrite x0 x1 x2).2.2 := by
  unfold pinWrite
  try dsimp only
  repeat' (first
      | with_reducible assumption | with_reducible apply setPin_keep | with_reducible apply wOk_keep
      | with_reducible apply offAfterRestart_keep | with_reducible apply wBad_keep | split)

theorem writeSTG_keep {r : State} {x0} (x1) (x2) (x3) (hx0 : Keep r x0) : Keep r (writeSTG x0 x1 x2 x3).2.2 := by
  unfold writeSTG
  try dsimp only
  repeat' (first
      | with_reducible assumption | with_reducible apply pinWrite_keep | with_reducible apply wOk_keep
      | with_reducible apply storeReg_keep | refine Keep.snd (by assumption) ?_
      | refine Keep.snd3 (by assumption) ?_ | refine Keep.fst (by assumption) ?_ | split)

theorem writeQueue_keep {r : State} {x0} (x1) (x2) (x3) (hx0 : Keep r x0) : Keep r (writeQueue x0 x1 x2 x3).2.2 := by
  unfold writeQueue
  try dsimp only
  repeat' (first
      | with_reducible assumption | with_reducible apply wOk_keep | with_reducible apply setQueue_keep
      | with_reducible apply wCmd_keep | with_reducible apply tailMove_keep | with_reducible apply queueStop_keep
      | with_reducible apply queueResume_keep | with_reducible apply queueFlush_keep
      | refine Keep.snd (by assumption) ?_ | refine Keep.snd3 (by assumption) ?_
      | refine Keep.fst (by assumption) ?_ | split)

theorem sliceWrite_keep {r : State} {x0} (x1) (x2) (x3) (hx0 : Keep r x0) (hx3 : ∀ y0 y1 y2, Keep r y0 → Keep r (x3 y0 y1 y2)) : Keep r (sliceWrite x0 x1 x2 x3).2.2 := by
  unfold sliceWrite
  try dsimp only
  repeat' (first
      | with_reducible assumption | with_reducible apply hx3 | with_reducible apply wOk_keep
      | with_reducible apply wBad_keep | split)

theorem writeSCH_keep {r : State} {x0} (x1) (x2) (x3) (hx0 : Keep r x0) : Keep r (writeSCH x0 x1 x2 x3).2.2 := by
  unfold writeSCH
  try dsimp only
  repeat' (first
      | with_reducible assumption | with_reducible apply writeQueue_keep | with_reducible apply sliceWrite_keep
      | with_reducible apply tokAdd_keep | with_reducible apply tokSet_keep | with_reducible apply wCmd_keep
      | with_reducible apply tailMove_keep | with_reducible apply wOk_keep | with_reducible apply storeReg_keep
      | refine Keep.snd (by assumption) ?_ | refine Keep.snd3 (by assumption) ?_
      | refine Keep.fst (by assumption) ?_ | split)

theorem ctDiscardCmd_keep {r : State} {x0} (x1) (hx0 : Keep r x0) : Keep r (ctDiscardCmd x0 x1).2 := by
  unfold ctDiscardCmd
  try dsimp only
  repeat' (first
      | with_reducible assumption | with_reducible apply ctDiscard_keep | with_reducible apply offAfterRestart_keep
      | with_reducible apply ctFree_keep | refine Keep.snd (by assumption) ?_ | refine Keep.snd3 (by assumption) ?_
      | refine Keep.fst (by assumption) ?_ | split)

theorem writeRED_keep {r : State} {x0} (x1) (x2) (x3) (hx0 : Keep r x0) : Keep r (writeRED x0 x1 x2 x3).2.2 := by
  unfold writeRED
  try dsimp only
  repeat' (first
      | with_reducible assumption | with_reducible apply wCmd_keep | with_reducible apply engTestCmd_keep
      | with_reducible apply wOk_keep | with_reducible apply ctDiscardCmd_keep | with_reducible apply storeReg_keep
      | refine Keep.snd (by assumption) ?_ | refine Keep.snd3 (by assumption) ?_
      | refine Keep.fst (by assumption) ?_ | split)

theorem writeOPT_keep {r : State} {x0} (x1) (x2) (x3) (hx0 : Keep r x0) : Keep r (writeOPT x0 x1 x2 x3).2.2 := by
  unfold writeOPT
  try dsimp only
  repeat' (first
      | with_reducible assumption | with_reducible apply wCmd_keep | with_reducible apply engTestCmd_keep
      | with_reducible apply wOk_keep | with_reducible apply storeReg_keep | refine Keep.snd (by assumption) ?_
      | refine Keep.snd3 (by assumption) ?_ | refine Keep.fst (by assumption) ?_ | split)

theorem writePLN_keep {r : State} {x0} (x1) (x2) (x3) (hx0 : Keep r x0) : Keep r (writePLN x0 x1 x2 x3).2.2 := by
  unfold writePLN
  try dsimp only
  repeat' (first
      | with_reducible assumption | with_reducible apply wCmd_keep | with_reducible apply engTestCmd_keep
      | with_reducible apply wOk_keep | with_reducible apply storeReg_keep | refine Keep.snd (by assumption) ?_
      | refine Keep.snd3 (by assumption) ?_ | refine Keep.fst (by assumption) ?_ | split)

theorem writeLNK_keep {r : State} {x0} (x1) (x2) (x3) (hx0 : Keep r x0) : Keep r (writeLNK x0 x1 x2 x3).2.2 := by
  unfold writeLNK
  try dsimp only
  repeat' (first
      | with_reducible assumption | with_reducible apply wCmd_keep | with_reducible apply lnkWidenCmd_keep
      | with_reducible apply wOk_keep | with_reducible apply partCfgCmd_keep | with_reducible apply lnkTestCmd_keep
      | with_reducible apply storeReg_keep | refine Keep.snd (by assumption) ?_
      | refine Keep.snd3 (by assumption) ?_ | refine Keep.fst (by assumption) ?_ | split)

theorem writeFPP_keep {r : State} {x0} (x1) (x2) (x3) (hx0 : Keep r x0) : Keep r (writeFPP x0 x1 x2 x3).2.2 := by
  unfold writeFPP
  try dsimp only
  repeat' (first
      | with_reducible assumption | with_reducible apply wOk_keep | with_reducible apply setPort_keep
      | with_reducible apply wCmd_keep | with_reducible apply fppTestCmd_keep | with_reducible apply storeReg_keep
      | refine Keep.snd (by assumption) ?_ | refine Keep.snd3 (by assumption) ?_
      | refine Keep.fst (by assumption) ?_ | intro _ | split)

theorem writeXBR_keep {r : State} {x0} (x1) (x2) (x3) (hx0 : Keep r x0) : Keep r (writeXBR x0 x1 x2 x3).2.2 := by
  unfold writeXBR
  try dsimp only
  repeat' (first
      | with_reducible assumption | with_reducible apply wOk_keep | with_reducible apply routesChanged_keep
      | with_reducible apply storeReg_keep | simp only [↓Keep.upd_iff] | refine Keep.snd (by assumption) ?_
      | refine Keep.snd3 (by assumption) ?_ | refine Keep.fst (by assumption) ?_ | intro _ | split)

theorem writeLPE_keep {r : State} {x0} (x1) (x2) (x3) (hx0 : Keep r x0) : Keep r (writeLPE x0 x1 x2 x3).2.2 := by
  unfold writeLPE
  try dsimp only
  repeat' (first
      | with_reducible assumption | with_reducible apply slotWriteCmd_keep | with_reducible apply wCmd_keep
      | with_reducible apply lpeTestCmd_keep | with_reducible apply wOk_keep | with_reducible apply tuneGo_keep
      | with_reducible apply tuneEnd_keep | with_reducible apply jogClearCmd_keep
      | with_reducible apply storeReg_keep | refine Keep.snd (by assumption) ?_
      | refine Keep.snd3 (by assumption) ?_ | refine Keep.fst (by assumption) ?_ | split)

theorem writeACD_keep {r : State} {x0} (x1) (x2) (hx0 : Keep r x0) : Keep r (writeACD x0 x1 x2).2.2 := by
  unfold writeACD
  try dsimp only
  repeat' (first
      | with_reducible assumption | with_reducible apply wOk_keep | with_reducible apply storeReg_keep
      | with_reducible apply wBad_keep | with_reducible apply wCmd_keep | with_reducible apply accordLoadCmd_keep
      | with_reducible apply accordAbortCmd_keep | with_reducible apply trimWriteCmd_keep
      | refine Keep.snd (by assumption) ?_ | refine Keep.snd3 (by assumption) ?_
      | refine Keep.fst (by assumption) ?_ | split)

theorem dithCmd_keep {r : State} {x0} (x1) (x2) (hx0 : Keep r x0) : Keep r (dithCmd x0 x1 x2).2 := by
  unfold dithCmd
  try dsimp only
  repeat' (first
      | with_reducible assumption | with_reducible apply setLoop_keep | with_reducible apply Keep.foldl
      | with_reducible apply Keep.foldl_snd | with_reducible apply Keep.foldl_fst
      | with_reducible apply Keep.foldl_snd2 | intro _ | split)

theorem writeFSL_keep {r : State} {x0} (x1) (x2) (x3) (hx0 : Keep r x0) : Keep r (writeFSL x0 x1 x2 x3).2.2 := by
  unfold writeFSL
  try dsimp only
  repeat' (first
      | with_reducible assumption | with_reducible apply ffParamCmd_keep | with_reducible apply wCmd_keep
      | with_reducible apply fselForceCmd_keep | with_reducible apply loopReacqCmd_keep
      | with_reducible apply wBad_keep | with_reducible apply wOk_keep | with_reducible apply loopEnableCmd_keep
      | with_reducible apply dithCmd_keep | with_reducible apply setLoop_keep | with_reducible apply storeReg_keep
      | refine Keep.snd (by assumption) ?_ | refine Keep.snd3 (by assumption) ?_
      | refine Keep.fst (by assumption) ?_ | split)

theorem writeAFE_keep {r : State} {x0} (x1) (x2) (x3) (hx0 : Keep r x0) : Keep r (writeAFE x0 x1 x2 x3).2.2 := by
  unfold writeAFE
  try dsimp only
  repeat' (first
      | with_reducible assumption | with_reducible apply wBad_keep | with_reducible apply wOk_keep
      | with_reducible apply setChannel_keep | with_reducible apply storeReg_keep
      | refine Keep.snd (by assumption) ?_ | refine Keep.snd3 (by assumption) ?_
      | refine Keep.fst (by assumption) ?_ | split)

theorem writeCAL_keep {r : State} {x0} (x1) (x2) (hx0 : Keep r x0) : Keep r (writeCAL x0 x1 x2).2.2 := by
  unfold writeCAL
  try dsimp only
  repeat' (first
      | with_reducible assumption | with_reducible apply wBad_keep | with_reducible apply wCmd_keep
      | with_reducible apply calOffsetCmd_keep | with_reducible apply calFringeCmd_keep
      | with_reducible apply calPlaneCmd_keep | with_reducible apply calAbortCmd_keep
      | with_reducible apply wOk_keep | with_reducible apply storeReg_keep | refine Keep.snd (by assumption) ?_
      | refine Keep.snd3 (by assumption) ?_ | refine Keep.fst (by assumption) ?_ | split)

theorem writeFIX_keep {r : State} {x0} (x1) (x2) (hx0 : Keep r x0) : Keep r (writeFIX x0 x1 x2).2.2 := by
  unfold writeFIX
  try dsimp only
  repeat' (first
      | with_reducible assumption | with_reducible apply wCmd_keep | with_reducible apply fixSaveCmd_keep
      | with_reducible apply wOk_keep | with_reducible apply storeReg_keep | refine Keep.snd (by assumption) ?_
      | refine Keep.snd3 (by assumption) ?_ | refine Keep.fst (by assumption) ?_ | split)

theorem writeRDN_keep {r : State} {x0} (x1) (x2) (hx0 : Keep r x0) : Keep r (writeRDN x0 x1 x2).2.2 := by
  unfold writeRDN
  try dsimp only
  repeat' (first
      | with_reducible assumption | with_reducible apply wCmd_keep | with_reducible apply yieldCmd_keep
      | with_reducible apply syncCmd_keep | with_reducible apply clearCmd_keep | with_reducible apply wOk_keep
      | with_reducible apply storeReg_keep | refine Keep.snd (by assumption) ?_
      | refine Keep.snd3 (by assumption) ?_ | refine Keep.fst (by assumption) ?_ | split)

theorem writeEVR_keep {r : State} {x0} (x1) (x2) (hx0 : Keep r x0) : Keep r (writeEVR x0 x1 x2).2.2 := by
  unfold writeEVR
  try dsimp only
  repeat' (first
      | with_reducible assumption | with_reducible apply wOk_keep | with_reducible apply bucketsClamp_keep
      | with_reducible apply storeReg_keep | with_reducible apply sillageFree_keep
      | with_reducible apply modEvr_keep | with_reducible apply hostmarkRun_keep
      | refine Keep.snd (by assumption) ?_ | refine Keep.snd3 (by assumption) ?_
      | refine Keep.fst (by assumption) ?_ | intro _ | split)

theorem writeCRC_keep {r : State} {x0} (x1) (x2) (x3) (hx0 : Keep r x0) : Keep r (writeCRC x0 x1 x2 x3).2.2 := by
  unfold writeCRC
  try dsimp only
  repeat' (first
      | with_reducible assumption | with_reducible apply wBad_keep | with_reducible apply wOk_keep
      | with_reducible apply storeReg_keep | with_reducible apply setCrc_keep
      | with_reducible apply crcStartCmd_keep | with_reducible apply wCmd_keep
      | with_reducible apply crcStopCmd_keep | refine Keep.snd (by assumption) ?_
      | refine Keep.snd3 (by assumption) ?_ | refine Keep.fst (by assumption) ?_ | split)

theorem writePage_keep {r : State} {x0} (x1) (x2) (x3) (x4) (x5) (x6) (hx0 : Keep r x0) : Keep r (writePage x0 x1 x2 x3 x4 x5 x6).2.2 := by
  unfold writePage
  try dsimp only
  repeat' (first
      | with_reducible assumption | with_reducible apply writePWR_keep | with_reducible apply writeBOOT_keep
      | with_reducible apply writePROT_keep | with_reducible apply writeHST_keep
      | with_reducible apply writeEVR_keep | with_reducible apply writeCRC_keep | with_reducible apply writeRDN_keep
      | with_reducible apply writeSCH_keep | with_reducible apply writeRED_keep | with_reducible apply writeOPT_keep
      | with_reducible apply writeSTG_keep | with_reducible apply writeLNK_keep | with_reducible apply writeFPP_keep
      | with_reducible apply writeXBR_keep | with_reducible apply writeLPE_keep | with_reducible apply writeACD_keep
      | with_reducible apply writeFSL_keep | with_reducible apply writeAFE_keep | with_reducible apply writeCAL_keep
      | with_reducible apply writeFIX_keep | with_reducible apply writePLN_keep | with_reducible apply wOk_keep
      | with_reducible apply storeReg_keep | refine Keep.snd (by assumption) ?_
      | refine Keep.snd3 (by assumption) ?_ | refine Keep.fst (by assumption) ?_ | split)

theorem headWrite_keep {r : State} {x0} (x1) (x2) (x3) (x4) (hx0 : Keep r x0) : Keep r (headWrite x0 x1 x2 x3 x4).2.2 := by
  unfold headWrite
  try dsimp only
  repeat' (first
      | with_reducible assumption | with_reducible apply ctlWrite_keep | with_reducible apply wOk_keep
      | with_reducible apply irqSettle_keep | with_reducible apply andNotReg_keep | with_reducible apply setReg_keep
      | with_reducible apply orReg_keep | refine Keep.snd (by assumption) ?_ | refine Keep.snd3 (by assumption) ?_
      | refine Keep.fst (by assumption) ?_ | split)

theorem settleWrite_keep {r : State} (x0) (x1) {x2} (hx2 : Keep r x2.2.2) : Keep r (settleWrite x0 x1 x2).2.2 := by
  unfold settleWrite
  try dsimp only
  repeat' (first | with_reducible assumption | with_reducible apply statusSettle_keep | split)

theorem regWrite_keep {r : State} {x0} (x1) (x2) (x3) (x4) (x5) (x6) (hx0 : Keep r x0) : Keep r (regWrite x0 x1 x2 x3 x4 x5 x6).2.2 := by
  unfold regWrite
  try dsimp only
  repeat' (first
      | with_reducible assumption | with_reducible apply settleWrite_keep | with_reducible apply headWrite_keep
      | with_reducible apply wOk_keep | with_reducible apply wBad_keep | with_reducible apply writePage_keep
      | split)

/-! ## Access -/

theorem refuseIn_keep {r : State} {x0} (x1) (x2) (x3) (x4) (hx0 : Keep r x0) : Keep r (refuseIn x0 x1 x2 x3 x4).2.2 := by
  unfold refuseIn
  try dsimp only
  repeat' (first | with_reducible assumption | with_reducible apply refuse_keep | split)

theorem accessWrite_keep {r : State} {x0} (x1) (x2) (x3) (x4) (hx0 : Keep r x0) : Keep r (accessWrite x0 x1 x2 x3 x4).2.2 := by
  unfold accessWrite
  try dsimp only
  repeat' (first
      | with_reducible assumption | with_reducible apply refuseIn_keep | with_reducible apply regWrite_keep
      | with_reducible apply setRegFld_keep | with_reducible apply refuse_keep | refine Keep.snd (by assumption) ?_
      | refine Keep.snd3 (by assumption) ?_ | refine Keep.fst (by assumption) ?_ | split)

theorem refuseRead_keep {r : State} {x0} (x1) (x2) (x3) (x4) (hx0 : Keep r x0) : Keep r (refuseRead x0 x1 x2 x3 x4).2.2.2 := by
  unfold refuseRead
  try dsimp only
  repeat' (first
      | with_reducible assumption | with_reducible apply refuseIn_keep | refine Keep.snd (by assumption) ?_
      | refine Keep.snd3 (by assumption) ?_ | refine Keep.fst (by assumption) ?_ | split)

theorem accessRead_keep {r : State} {x0} (x1) (x2) (hx0 : Keep r x0) : Keep r (accessRead x0 x1 x2).2.2.2 := by
  unfold accessRead
  try dsimp only
  repeat' (first
      | with_reducible assumption | with_reducible apply refuseRead_keep | with_reducible apply readRun_keep
      | refine Keep.snd (by assumption) ?_ | refine Keep.snd3 (by assumption) ?_
      | refine Keep.fst (by assumption) ?_ | split)

theorem writeBy_keep {r : State} {x0} (x1) (x2) (x3) (x4) (hx0 : Keep r x0) : Keep r (writeBy x0 x1 x2 x3 x4) := by
  unfold writeBy
  try dsimp only
  repeat' (first | with_reducible assumption | with_reducible apply accessWrite_keep | split)

theorem writeAt_keep {r : State} {x0} (x1) (x2) (x3) (x4) (x5) (hx0 : Keep r x0) : Keep r (writeAt x0 x1 x2 x3 x4 x5) := by
  unfold writeAt
  try dsimp only
  repeat' (first | with_reducible assumption | with_reducible apply writeBy_keep | split)

theorem readBy_keep {r : State} {x0} (x1) (x2) (hx0 : Keep r x0) : Keep r (readBy x0 x1 x2) := by
  unfold readBy
  try dsimp only
  repeat' (first | with_reducible assumption | with_reducible apply accessRead_keep | split)

theorem regwrRefuse_keep {r : State} {x0} (x1) (x2) (x3) (x4) (hx0 : Keep r x0) : Keep r (regwrRefuse x0 x1 x2 x3 x4).2 := by
  unfold regwrRefuse
  try dsimp only
  repeat' (first | with_reducible assumption | with_reducible apply refuse_keep | split)

theorem regwrApply_keep {r s : State} (m) (h : Keep r s) : Keep r (regwrApply s m).2 := by
  have hd : ∀ (p : Nat × State) ty d, Keep r p.2 →
      Keep r (if p.1 == stOK then p else regwrRefuse p.2 ty d p.1 (if p.1 == stRANGE then 2 else 0)).2 := by
    intro p ty d hp
    split
    · exact hp
    · exact regwrRefuse_keep _ _ _ _ hp
  unfold regwrApply
  extract_lets +onlyGivenNames a
  split
  · exact regwrRefuse_keep _ _ _ _ h
  extract_lets +onlyGivenNames dom t inc
  split
  · exact regwrRefuse_keep _ _ _ _ h
  split
  · exact regwrRefuse_keep _ _ _ _ h
  split
  · exact regwrRefuse_keep _ _ _ _ h
  split
  · exact regwrRefuse_keep _ _ _ _ h
  extract_lets +onlyGivenNames dn
  split
  · extract_lets +onlyGivenNames q x
    split
    · exact hd _ _ _ (raiseIrq_keep _ _ _ (bumpReg_keep _ _ h))
    · exact hd _ _ _ (tailMove_keep _ _ h)
  · split
    · exact hd _ _ _ (tokWriteFor_keep _ _ _ h fun s x h => tokSet_keep _ _ h)
    · refine hd _ _ _ (tokWriteFor_keep _ _ _ h fun s x h => ?_)
      split
      · exact tokPoison_keep _ h
      · exact setTok_keep _ _ (tokAdd_keep _ _ h)

theorem regwrRun_keep {r : State} {x0} (x1) (x2) (hx0 : Keep r x0) : Keep r (regwrRun x0 x1 x2) := by
  unfold regwrRun
  try dsimp only
  repeat' (first
      | with_reducible assumption | with_reducible apply oweCredits_keep | with_reducible apply forwardMsg_keep
      | with_reducible apply answerMsg_keep | with_reducible apply regwrApply_keep | simp only [↓Keep.upd_iff]
      | refine Keep.snd (by assumption) ?_ | refine Keep.snd3 (by assumption) ?_
      | refine Keep.fst (by assumption) ?_ | intro _ | split)

/-! ## Krt -/

theorem krtDrop_keep {r : State} {x0} (x1) (x2) (hx0 : Keep r x0) : Keep r (krtDrop x0 x1 x2) := by
  unfold krtDrop
  try dsimp only
  repeat' (first
      | with_reducible assumption | with_reducible apply raiseIrq_keep | with_reducible apply bumpReg_keep | split)

theorem plainReply_keep {r : State} {x0} (x1) (x2) (x3) (x4) (hx0 : Keep r x0) : Keep r (plainReply x0 x1 x2 x3 x4) := by
  unfold plainReply
  try dsimp only
  repeat' (first
      | with_reducible assumption | with_reducible apply send_keep | simp only [↓Keep.upd_iff]
      | simp only [↓Keep.updMem_iff] | simp only [↓Keep.updPwr_iff] | refine Keep.snd (by assumption) ?_
      | refine Keep.snd3 (by assumption) ?_ | refine Keep.fst (by assumption) ?_ | with_reducible apply Keep.foldl
      | with_reducible apply Keep.foldl_snd | with_reducible apply Keep.foldl_fst
      | with_reducible apply Keep.foldl_snd2 | intro _ | split)

theorem krtReceive_keep {r : State} {x0} (x1) (x2) (x3) (hx0 : Keep r x0) (hx3 : ∀ y0, Keep r y0 → Keep r (x3 y0)) : Keep r (krtReceive x0 x1 x2 x3) := by
  unfold krtReceive
  try dsimp only
  repeat' (first
      | with_reducible assumption | with_reducible apply hx3 | with_reducible apply krtDrop_keep
      | with_reducible apply plainReply_keep | refine Keep.snd (by assumption) ?_
      | refine Keep.snd3 (by assumption) ?_ | refine Keep.fst (by assumption) ?_ | split)

theorem krtSession_keep {r : State} {x0} (x1) (x2) (x3) (hx0 : Keep r x0) (hx3 : ∀ y0 y1, Keep r y0 → Keep r (x3 y0 y1)) : Keep r (krtSession x0 x1 x2 x3) := by
  unfold krtSession
  try dsimp only
  repeat' (first
      | with_reducible assumption | with_reducible apply hx3 | with_reducible apply setSess_keep
      | with_reducible apply krtDrop_keep | refine Keep.snd (by assumption) ?_ | refine Keep.snd3 (by assumption) ?_
      | refine Keep.fst (by assumption) ?_ | with_reducible apply Keep.foldl | with_reducible apply Keep.foldl_snd
      | with_reducible apply Keep.foldl_fst | with_reducible apply Keep.foldl_snd2 | intro _ | split)

theorem sessReply_keep {r : State} {x0} (x1) (x2) (x3) (x4) (x5) (x6) (hx0 : Keep r x0) : Keep r (sessReply x0 x1 x2 x3 x4 x5 x6) := by
  unfold sessReply
  try dsimp only
  repeat' (first
      | with_reducible assumption | with_reducible apply send_keep | simp only [↓Keep.upd_iff]
      | simp only [↓Keep.updMem_iff] | simp only [↓Keep.updPwr_iff] | refine Keep.snd (by assumption) ?_
      | refine Keep.snd3 (by assumption) ?_ | refine Keep.fst (by assumption) ?_ | with_reducible apply Keep.foldl
      | with_reducible apply Keep.foldl_snd | with_reducible apply Keep.foldl_fst
      | with_reducible apply Keep.foldl_snd2 | intro _ | split)

theorem finalReply_keep {r : State} {x0} (x1) (x2) (x3) (x4) (x5) (x6) (x7) (hx0 : Keep r x0) : Keep r (finalReply x0 x1 x2 x3 x4 x5 x6 x7) := by
  unfold finalReply
  try dsimp only
  repeat' (first
      | with_reducible assumption | with_reducible apply send_keep | with_reducible apply setSess_keep
      | simp only [↓Keep.upd_iff] | simp only [↓Keep.updMem_iff] | simp only [↓Keep.updPwr_iff]
      | refine Keep.snd (by assumption) ?_ | refine Keep.snd3 (by assumption) ?_
      | refine Keep.fst (by assumption) ?_ | with_reducible apply Keep.foldl | with_reducible apply Keep.foldl_snd
      | with_reducible apply Keep.foldl_fst | with_reducible apply Keep.foldl_snd2 | intro _ | split)

theorem hstRefused_keep {r : State} {x0} (x1) (x2) (x3) (x4) (hx0 : Keep r x0) : Keep r (hstRefused x0 x1 x2 x3 x4).2.2 := by
  unfold hstRefused
  try dsimp only
  repeat' (first
      | with_reducible assumption | with_reducible apply refuseIn_keep | refine Keep.snd (by assumption) ?_
      | refine Keep.snd3 (by assumption) ?_ | refine Keep.fst (by assumption) ?_ | split)

theorem krtReadWord_keep {r : State} {x0} (x1) (x2) (x3) (x4) (hx0 : Keep r x0) : Keep r (krtReadWord x0 x1 x2 x3 x4).2.2.2 := by
  unfold krtReadWord
  try dsimp only
  repeat' (first
      | with_reducible assumption | with_reducible apply refuseIn_keep | with_reducible apply accessRead_keep
      | with_reducible apply scratchBad_keep | with_reducible apply scratchRead_keep
      | refine Keep.snd (by assumption) ?_ | refine Keep.snd3 (by assumption) ?_
      | refine Keep.fst (by assumption) ?_ | split)

theorem portBWrite_keep {r : State} {x0} (x1) (x2) (hx0 : Keep r x0) : Keep r (portBWrite x0 x1 x2) := by
  unfold portBWrite
  try dsimp only
  repeat' (first
      | with_reducible assumption | with_reducible apply scratchRead_keep | with_reducible apply scratchWrite_keep
      | with_reducible apply Keep.foldl | with_reducible apply Keep.foldl_snd | with_reducible apply Keep.foldl_fst
      | with_reducible apply Keep.foldl_snd2 | intro _ | split)

theorem mbxConflict_keep {r : State} {x0} (x1) (x2) (x3) (x4) (hx0 : Keep r x0) : Keep r (mbxConflict x0 x1 x2 x3 x4) := by
  unfold mbxConflict
  try dsimp only
  repeat' (first
      | with_reducible assumption | with_reducible apply scratchWrite_keep | with_reducible apply portBWrite_keep
      | with_reducible apply setRegN_keep | with_reducible apply raiseIrq_keep | with_reducible apply bumpReg_keep
      | simp only [↓Keep.upd_iff] | simp only [↓Keep.updMem_iff] | refine Keep.snd (by assumption) ?_
      | refine Keep.snd3 (by assumption) ?_ | refine Keep.fst (by assumption) ?_ | split)

theorem krtWriteWord_keep {r : State} {x0} (x1) (x2) (x3) (x4) (x5) (hx0 : Keep r x0) : Keep r (krtWriteWord x0 x1 x2 x3 x4 x5).2.2 := by
  unfold krtWriteWord
  try dsimp only
  repeat' (first
      | with_reducible assumption | with_reducible apply refuseIn_keep | with_reducible apply accessWrite_keep
      | with_reducible apply portBWrite_keep | with_reducible apply mbxConflict_keep
      | with_reducible apply scratchWrite_keep | refine Keep.snd (by assumption) ?_
      | refine Keep.snd3 (by assumption) ?_ | refine Keep.fst (by assumption) ?_ | split)

theorem krtRead_keep {r : State} (x0) (x1) {x2} (x3) (hx2 : Keep r x2) : Keep r (krtRead x0 x1 x2 x3).2.2 := by
  unfold krtRead
  try dsimp only
  repeat' (first
      | with_reducible assumption | with_reducible apply krtReadWord_keep | refine Keep.snd (by assumption) ?_
      | refine Keep.snd3 (by assumption) ?_ | refine Keep.fst (by assumption) ?_ | split)

theorem krtWrite_keep {r : State} (x0) (x1) {x2} (x3) (hx2 : Keep r x2) : Keep r (krtWrite x0 x1 x2 x3).2.2 := by
  unfold krtWrite
  try dsimp only
  repeat' (first
      | with_reducible assumption | with_reducible apply krtWriteWord_keep | refine Keep.snd (by assumption) ?_
      | refine Keep.snd3 (by assumption) ?_ | refine Keep.fst (by assumption) ?_ | split)

theorem krtRmw_keep {r : State} (x0) {x1} (x2) (hx1 : Keep r x1) : Keep r (krtRmw x0 x1 x2).2.2 := by
  unfold krtRmw
  try dsimp only
  repeat' (first
      | with_reducible assumption | with_reducible apply krtReadWord_keep | with_reducible apply krtWriteWord_keep
      | refine Keep.snd (by assumption) ?_ | refine Keep.snd3 (by assumption) ?_
      | refine Keep.fst (by assumption) ?_ | split)

theorem bulkCrosses_keep {r : State} {x0} (x1) (x2) (hx0 : Keep r x0) : Keep r (bulkCrosses x0 x1 x2).2.2 := by
  unfold bulkCrosses
  try dsimp only
  repeat' (first
      | with_reducible assumption | with_reducible apply refuseIn_keep | refine Keep.snd (by assumption) ?_
      | refine Keep.snd3 (by assumption) ?_ | refine Keep.fst (by assumption) ?_ | split)

theorem bulkReadWords_keep {r : State} (x) (sp) (a) (n) (k) (acc) {s} (h : Keep r s) :
    Keep r (bulkReadWords x sp a n k acc s).2.2.2.2 := by
  induction n generalizing k acc s with
  | zero => exact h
  | succ n ih =>
    have g := krtReadWord_keep x sp (a + 4 * k) false h
    unfold bulkReadWords
    dsimp only
    split
    · exact ih _ _ g
    · exact g

theorem krtBulkRead_keep {r : State} (x0) {x1} (x2) (hx1 : Keep r x1) : Keep r (krtBulkRead x0 x1 x2).2.2 := by
  unfold krtBulkRead
  try dsimp only
  repeat' (first
      | with_reducible assumption | with_reducible apply bulkCrosses_keep | with_reducible apply bulkReadWords_keep
      | refine Keep.snd (by assumption) ?_ | refine Keep.snd3 (by assumption) ?_
      | refine Keep.fst (by assumption) ?_ | split)

theorem bulkWriteWords_keep {r : State} (x) (sp) (a) (p) (n) (k) {s} (h : Keep r s) :
    Keep r (bulkWriteWords x sp a p n k s).2.2.2 := by
  induction n generalizing k s with
  | zero => exact h
  | succ n ih =>
    have g := krtWriteWord_keep x sp (a + 4 * k) (slice p (4 * k) 4) none h
    unfold bulkWriteWords
    dsimp only
    split
    · exact ih _ g
    · exact g

theorem krtBulkWrite_keep {r : State} (x0) {x1} (x2) (hx1 : Keep r x1) : Keep r (krtBulkWrite x0 x1 x2).2.2 := by
  unfold krtBulkWrite
  try dsimp only
  repeat' (first
      | with_reducible assumption | with_reducible apply bulkCrosses_keep | with_reducible apply bulkWriteWords_keep
      | refine Keep.snd (by assumption) ?_ | refine Keep.snd3 (by assumption) ?_
      | refine Keep.fst (by assumption) ?_ | split)

theorem krtShaped_keep {r : State} (x0) (x1) (x2) {x3} (x4) (hx2 : ∀ y0 y1, Keep r y0 → Keep r (x2 y0 y1).2.2) (hx3 : Keep r x3) : Keep r (krtShaped x0 x1 x2 x3 x4).2.2 := by
  unfold krtShaped
  try dsimp only
  repeat' (first
      | with_reducible assumption | with_reducible apply hx2 | with_reducible apply hstRefused_keep | split)

theorem krtRequest_keep {r s : State} (i) (op) (f) (g : Option (State → Session → Nat × List Byte × State))
    (h : Keep r s) (hg : ∀ g', g = some g' → ∀ s x, Keep r s → Keep r (g' s x).2.2) :
    Keep r (krtRequest s i op f g) := by
  unfold krtRequest
  cases g with
  | none =>
    repeat' (first
        | with_reducible assumption | with_reducible apply sessReply_keep | with_reducible apply refuseIn_keep
        | with_reducible apply setSess_keep | with_reducible apply send_keep | with_reducible apply krtDrop_keep
        | with_reducible apply finalReply_keep | simp only [↓Keep.upd_iff] | simp only [↓Keep.updMem_iff]
        | refine Keep.snd (by assumption) ?_ | refine Keep.snd3 (by assumption) ?_
        | refine Keep.snd4 (by assumption) ?_ | refine Keep.snd5 (by assumption) ?_
        | refine Keep.fst (by assumption) ?_ | with_reducible apply Keep.foldl | with_reducible apply Keep.foldl_snd
        | with_reducible apply Keep.foldl_fst | with_reducible apply Keep.foldl_snd2
        | with_reducible apply Keep.foldl_snd3 | intro _ | split)
  | some g =>
    have hg := hg g rfl
    repeat' (first
        | with_reducible assumption | with_reducible apply sessReply_keep | with_reducible apply refuseIn_keep
        | with_reducible apply setSess_keep | with_reducible apply send_keep | with_reducible apply krtDrop_keep
        | with_reducible apply finalReply_keep | with_reducible apply hg | simp only [↓Keep.upd_iff]
        | simp only [↓Keep.updMem_iff] | refine Keep.snd (by assumption) ?_ | refine Keep.snd3 (by assumption) ?_
        | refine Keep.snd4 (by assumption) ?_ | refine Keep.snd5 (by assumption) ?_
        | refine Keep.fst (by assumption) ?_ | with_reducible apply Keep.foldl | with_reducible apply Keep.foldl_snd
        | with_reducible apply Keep.foldl_fst | with_reducible apply Keep.foldl_snd2
        | with_reducible apply Keep.foldl_snd3 | intro _ | split)

theorem krtOp_keep {r : State} {x0} (x1) (x2) (x3) (hx0 : Keep r x0) (hx3 : ∀ y0 y1, Keep r y0 → Keep r (x3 y0 y1).2.2) : Keep r (krtOp x0 x1 x2 x3) := by
  unfold krtOp
  refine krtReceive_keep _ _ _ hx0 fun s h => krtSession_keep _ _ _ h fun s i h => krtRequest_keep _ _ _ _ h fun g' e => ?_
  cases e
  intro s x h
  exact krtShaped_keep _ _ _ _ hx3 h

theorem openGrant_keep {r : State} {x0} (x1) (x2) (x3) (hx0 : Keep r x0) : Keep r (openGrant x0 x1 x2 x3) := by
  unfold openGrant
  try dsimp only
  repeat' (first
      | with_reducible assumption | with_reducible apply setSess_keep | with_reducible apply plainReply_keep
      | simp only [↓Keep.upd_iff] | split)

theorem openRun_keep {r : State} {x0} (x1) (hx0 : Keep r x0) : Keep r (openRun x0 x1) := by
  unfold openRun
  try dsimp only
  repeat' (first
      | with_reducible assumption | with_reducible apply refuseIn_keep | with_reducible apply plainReply_keep
      | with_reducible apply openGrant_keep | refine Keep.snd (by assumption) ?_
      | refine Keep.snd3 (by assumption) ?_ | refine Keep.fst (by assumption) ?_ | split)

theorem sessionOp_keep {r : State} (x0) (x1) {x2} (x3) (hx2 : Keep r x2) : Keep r (sessionOp x0 x1 x2 x3).2.2 := by
  unfold sessionOp
  try dsimp only
  repeat' (first
      | with_reducible assumption | with_reducible apply closeSession_keep | with_reducible apply hstRefused_keep
      | split)

theorem sessionRun_keep {r : State} {x0} (x1) (hx0 : Keep r x0) : Keep r (sessionRun x0 x1) := by
  unfold sessionRun
  refine krtReceive_keep _ _ _ hx0 fun s h => ?_
  split
  · apply openRun_keep <;> assumption
  · refine krtSession_keep _ _ _ h fun s i h => krtRequest_keep _ _ _ _ h fun g' e => ?_
    cases e
    intro s x h
    exact krtShaped_keep _ _ _ _ (fun s x h => sessionOp_keep _ _ _ h) h

theorem pendingRun_keep {r : State} {x0} (x1) (x2) (hx0 : Keep r x0) : Keep r (pendingRun x0 x1 x2) := by
  unfold pendingRun
  refine krtReceive_keep _ _ _ hx0 fun s h => ?_
  split
  · exact plainReply_keep _ _ _ _ h
  · refine krtSession_keep _ _ _ h fun s i h => ?_
    split
    · exact krtRequest_keep _ _ _ _ h fun g' e => by cases e
    · refine krtRequest_keep _ _ _ _ h fun g' e => ?_
      cases e
      intro s x h
      exact hstRefused_keep _ _ _ _ h

theorem notifyAckRun_keep {r : State} {x0} (x1) (hx0 : Keep r x0) : Keep r (notifyAckRun x0 x1) := by
  unfold notifyAckRun
  refine krtReceive_keep _ _ _ hx0 fun s h => krtSession_keep _ _ _ h fun s i h => ?_
  dsimp only
  split
  · refine krtRequest_keep _ _ _ _ h fun g' e => ?_
    cases e
    intro s x h
    exact krtShaped_keep _ _ _ _ (fun s x h => h) h
  · split <;> (first
      | exact h | exact setSess_keep _ _ h | exact sessReply_keep _ _ _ _ _ _ (refuseIn_keep _ _ _ _ h))

theorem notifyRetryRun_keep {r : State} {x0} (x1) (x2) (hx0 : Keep r x0) : Keep r (notifyRetryRun x0 x1 x2) := by
  unfold notifyRetryRun
  try dsimp only
  repeat' (first
      | with_reducible assumption | with_reducible apply sendNotify_keep | with_reducible apply setSess_keep
      | with_reducible apply raiseIrq_keep | refine Keep.snd (by assumption) ?_
      | refine Keep.snd3 (by assumption) ?_ | refine Keep.fst (by assumption) ?_ | intro _ | split)

theorem idleRun_keep {r : State} {x0} (x1) (hx0 : Keep r x0) : Keep r (idleRun x0 x1) := by
  unfold idleRun
  try dsimp only
  repeat' (first | with_reducible assumption | with_reducible apply closeSession_keep | split)

theorem answerStartRun_keep {r : State} {x0} (hx0 : Keep r x0) : Keep r (answerStartRun x0) := by
  unfold answerStartRun
  try dsimp only
  repeat' (first | with_reducible assumption | simp only [↓Keep.upd_iff] | simp only [↓Keep.updPwr_iff] | split)

theorem f2hRun_keep {r : State} {x0} (x1) (hx0 : Keep r x0) : Keep r (f2hRun x0 x1) := by
  unfold f2hRun
  try dsimp only
  repeat' (first
      | with_reducible assumption | with_reducible apply raiseIrq_keep | with_reducible apply orReg_keep | split)

/-! ## ClaimOps -/

theorem claimTry_keep {r : State} {x0} (hx0 : Keep r x0) : Keep r (claimTry x0) := by
  unfold claimTry
  try dsimp only
  repeat' (first | with_reducible assumption | with_reducible apply attemptClaim_keep | split)

theorem claimAsserted_keep {r : State} {x0} (hx0 : Keep r x0) : Keep r (claimAsserted x0) := by
  unfold claimAsserted
  try dsimp only
  repeat' (first
      | with_reducible assumption | with_reducible apply maybeSync_keep | with_reducible apply claimRace_keep
      | with_reducible apply modRdn_keep | intro _ | split)

theorem claimDeasserted_keep {r : State} {x0} (hx0 : Keep r x0) : Keep r (claimDeasserted x0) := by
  unfold claimDeasserted
  try dsimp only
  repeat' (first
      | with_reducible assumption | with_reducible apply modRdn_keep | with_reducible apply attemptClaim_keep
      | intro _ | split)

theorem claimWaited_keep {r : State} {x0} (hx0 : Keep r x0) : Keep r (claimWaited x0) := by
  unfold claimWaited
  try dsimp only
  repeat' (first | with_reducible assumption | with_reducible apply attemptClaim_keep | split)

theorem claimFaulted_keep {r : State} {x0} (hx0 : Keep r x0) : Keep r (claimFaulted x0) := by
  unfold claimFaulted
  try dsimp only
  repeat' (first
      | with_reducible assumption | with_reducible apply modRdn_keep | with_reducible apply endSync_keep
      | with_reducible apply releaseClaim_keep | with_reducible apply raiseIrqArgs_keep
      | with_reducible apply rdnErr_keep | intro _ | split)

theorem silentRun_keep {r : State} {x0} (x1) (hx0 : Keep r x0) : Keep r (silentRun x0 x1) := by
  unfold silentRun
  try dsimp only
  repeat' (first
      | with_reducible assumption | with_reducible apply markSilent_keep | with_reducible apply setTile_keep
      | split)

theorem autoClear_keep {r : State} {x0} (hx0 : Keep r x0) : Keep r (autoClear x0) := by
  unfold autoClear
  try dsimp only
  repeat' (first | with_reducible assumption | with_reducible apply leaveYielded_keep | split)

theorem steerIn_keep {r : State} {x0} (x1) (x2) (hx0 : Keep r x0) (hx2 : ∀ y0, Keep r y0 → Keep r (x2 y0)) : Keep r (steerIn x0 x1 x2) := by
  unfold steerIn
  try dsimp only
  repeat' (first
      | with_reducible assumption | with_reducible apply hx2 | with_reducible apply withStatus_keep
      | with_reducible apply steerArrived_keep | split)

/-! ## StepOps -/

theorem idleStep_keep {r : State} {x0} (hx0 : Keep r x0) : Keep r (idleStep x0) := by
  unfold idleStep
  try dsimp only
  repeat' (first | with_reducible assumption | simp only [↓Keep.upd_iff] | simp only [↓Keep.updPwr_iff] | split)

/-! ## Step -/

-- withFetchWord changes the queue

end Sys2Proof.Machine
end

