-- ==== Sys2Proof/Laws/Power.lean ====
section
/-!
SUPPORT. What a module reset, a release of the reset and a failing die leave.
-/

namespace Sys2Proof.Machine

/-- What a module reset leaves (R30, R32). -/
theorem moduleReset_inModuleReset (m : State) (b : Nat) : InModuleReset m (moduleReset m b) b := by
  have hk : ∀ k, getReg (moduleReset m b) k = if Reg.PWR_RESET_CAUSE = k then
      getReg (moduleReset m b) Reg.PWR_RESET_CAUSE else tget regDefault (m.regs.filter fun x => x.1 / 0x100000 == 0x02 || x.1 / 0x100000 == 0x07) k := by
    intro k
    split
    · rename_i e; rw [e]
    · rename_i e
      exact getReg_setReg_ne _ _ e
  have hf : ∀ k, AonReg k → tget regDefault (m.regs.filter fun x => x.1 / 0x100000 == 0x02 || x.1 / 0x100000 == 0x07) k = getReg m k := by
    intro k hk
    exact tget_filter _ (fun k => k / 0x100000 == 0x02 || k / 0x100000 == 0x07) k (by
      rcases hk with h | h <;> simp [h])
  refine ⟨rfl, fun u => rfl, fun k h1 h2 => ?_, ?_, fun k h => ?_, ⟨rfl, rfl⟩, rfl, ⟨rfl, rfl⟩, rfl, rfl, rfl, rfl, rfl, rfl, rfl, rfl⟩
  · rw [hk, if_neg (Ne.symm h2), hf k h1]
  · show getReg (setReg _ _ _) _ = _
    rw [getReg_setReg_same]
    show tget regDefault _ _ ||| _ = _
    rw [hf _ (Or.inl (by decide))]
  · rw [hk, if_neg (by rintro rfl; exact h (Or.inl (by decide)))]
    exact tget_filter_out _ (fun k => k / 0x100000 == 0x02 || k / 0x100000 == 0x07) k (by
      simp only [Bool.or_eq_false_iff, beq_eq_false_iff_ne, ne_eq]
      exact ⟨fun x => h (Or.inl x), fun x => h (Or.inr x)⟩)

/-- A unit that fails is FAILED. -/
theorem failUnit_st (s : State) (u : Nat) : unitSt (failUnit s u) u = .failed := by
  unfold failUnit
  split
  · rename_i h; exact eq_of_beq h
  · dsimp only
    rw [unitSt_congr (s := setUnit s u .failed)]
    · rw [unitSt_setUnit, if_pos rfl]
    · rw [(event_reports (ks := []) _ _ _ _ _ (Reports.refl _ _)).rest]

/-- So is a Flow die, after its work has remapped. -/
theorem failFlow_st (s : State) (d : Nat) : unitSt (failFlow s d) d = .failed := by
  have h0 := failUnit_st s d
  have hd := (dropDie_keep d (Keep.refl (failUnit s d))).failed d h0
  unfold failFlow
  split
  · rename_i h; exact eq_of_beq h
  · dsimp only
    exact (Keep.foldl (Keep.refl _) fun s x h => failDesc_keep _ _ _ _ _ _ h).failed d hd

/-- So is an I/O die. -/
theorem failIod_st (s : State) (i : Nat) : unitSt (failIod s i) (dieIOD + i) = .failed := by
  have h0 := failUnit_st s (dieIOD + i)
  have key : Keep (failUnit s (dieIOD + i)) (failIod s i) ∨ failIod s i = s ∧ unitSt s (dieIOD + i) = .failed := by
    unfold failIod
    split
    · rename_i h; exact Or.inr ⟨rfl, eq_of_beq h⟩
    · left
      have hs := Keep.refl (failUnit s (dieIOD + i))
      generalize failUnit s (dieIOD + i) = r at hs ⊢
      dsimp only
      repeat' (first | with_reducible assumption | with_reducible apply planeDown_keep | with_reducible apply setHostLanes_keep | with_reducible apply portLeave_keep | with_reducible apply linkLossRun_keep | with_reducible apply Keep.foldl | intro _ | split)
  rcases key with k | ⟨k1, k2⟩
  · exact k.failed _ h0
  · rw [k1]; exact k2

/-- So is any die, by index. -/
theorem failDie_st (s : State) (u : Nat) : unitSt (failDie s u) u = .failed := by
  unfold failDie
  split
  · exact failFlow_st _ _
  · split
    · rename_i h
      simp only [Bool.and_eq_true, decide_eq_true_eq] at h
      have := failIod_st s (u - dieIOD)
      rwa [show dieIOD + (u - dieIOD) = u by omega] at this
    · split
      · rename_i h
        simp only [Bool.and_eq_true, decide_eq_true_eq] at h
        unfold failHub
        have h0 := failUnit_st s (dieHUB + (u - dieHUB))
        have := (failFlow_keep (u - dieHUB) (Keep.refl (failUnit s (dieHUB + (u - dieHUB))))).failed _ h0
        have e : dieHUB + (u - dieHUB) = u := by omega
        rw [e] at this
        rwa [e]
      · exact failUnit_st _ _

/-- Every die of a list fails. -/
theorem failDies_st (l : List Nat) (s : State) (u : Nat) (hu : u ∈ l) : unitSt (l.foldl failDie s) u = .failed := by
  induction l generalizing s with
  | nil => cases hu
  | cons x l ih =>
    rcases List.mem_cons.1 hu with rfl | h
    · exact (Keep.foldl (Keep.refl (failDie s u)) fun s x h => failDie_keep _ h).failed _ (failDie_st _ _)
    · exact ih _ h

/-- A release takes effect exactly when every condition holds (R33, R429). -/
theorem tryRelease_released (m : State) : (ReadyForRelease m → Released m (tryRelease m)) ∧ (¬ ReadyForRelease m → tryRelease m = m) := by
  constructor
  · rintro ⟨h1, h2, h3, h4, h5⟩
    have e : tryRelease m = releaseReset m := by
      unfold tryRelease; simp [h1, h2, h3, h4, h5]
    rw [e]
    unfold releaseReset
    extract_lets +onlyGivenNames s1 s2 s3 s4 s5
    have r3 : Reports [Reg.PWR_STRAPS, Reg.PWR_STRAP_ERR] s2 s4 :=
      ((Reports.refl _ s2).setReg _ _ (by simp)).setReg _ _ (by simp)
    have r4 : Reports [] s4 s5 := by
      show Reports [] s4 (if _ then _ else _)
      split
      · exact Reports.refl _ _
      · exact event_reports _ _ _ _ _ (Reports.refl _ _)
    have r5 : Reports [] s4 (evrAdmit s5 (newRec s5 0x05 (sevOf s5 0x0220 (resetSev s5)) 0x0220 0x02 0 0
    [getReg s5 Reg.PWR_RESET_CAUSE, getReg s5 Reg.PWR_STRAPS])) := evrAdmit_reports _ r4
    generalize (evrAdmit s5 _) = t at r5 ⊢
    have g : ∀ k, k ∉ reportKeys → getReg t k = getReg s4 k := fun k hk => r5.regs k (by simp) hk
    have e1 : getReg s4 Reg.PWR_STRAPS = toWord m.pwr.strapPins.toNat := by
      show getReg (setRegN s3 _ _) _ = _
      rw [getReg_setRegN, if_neg (by decide)]
      exact getReg_setReg_same _ _ _
    have e2 : getReg s4 Reg.PWR_STRAP_ERR = toWord (strapErr s3) := getReg_setReg_same _ _ _
    have e3 : getReg t Reg.PWR_STRAPS = getReg s3 Reg.PWR_STRAPS := by
      rw [g _ (by decide), e1]; exact (getReg_setReg_same _ _ _).symm
    refine ⟨?_, ?_, ?_⟩
    · have : ∀ (b : JtagInstr), (if (b == JtagInstr.idcode) = true then JtagInstr.idcode else .bypass) = if b = .idcode then .idcode else .bypass := by
        intro b; cases b <;> rfl
      rw [← this]
      exact r3.trans (r5.mono (by simp))
    · rw [g _ (by decide), e1]
    · rw [g _ (by decide), e2]
      unfold strapErr boardSize ownPos strapPlan
      rw [e3]
      split
      · rfl
      · by_cases c : fld (getReg s3 Reg.PWR_STRAPS) 7 2 = 3
        · rw [if_pos c, if_pos (by simpa using c)]; rfl
        · rw [if_neg c, if_neg (by simpa using c)]; rfl
  · intro h
    unfold tryRelease
    dsimp only
    rw [if_neg]
    intro c
    simp only [Bool.and_eq_true, Bool.not_eq_true', beq_iff_eq] at c
    exact h ⟨c.1.1.1.1, c.1.1.1.2, c.1.1.2, c.1.2, c.2⟩

end Sys2Proof.Machine
end

