-- ==== Sys2Proof/Tests/Slice0.lean ====
section
/-!
SUPPORT. Tests: ill-formed commands that the check refuses, one step of several commands with results taken from the
spec's tables and examples, and for each obligation states and operands that meet the hypotheses of its clauses.
-/

namespace Sys2Proof.Tests

open Sys2Proof.Machine

/-! ## States -/

/-- Every right of every class. -/
def allRights : Tbl (BitVec 10) :=
  [0x01, 0x02, 0x03, 0x04, 0x05, 0x06, 0x07, 0x08, 0x09, 0x0A, 0x10, 0x11, 0x12, 0x13, 0x14, 0x16, 0x20, 0x21, 0x30, 0x31,
    0x32, 0x40, 0x41, 0x42, 0x43, 0x44, 0x45, 0x46, 0x47, 0x48].map fun k => (k, 0x3FF#10)

/-- Out of reset with every unit ON, firmware running with a sealed set-up that gives every right. -/
def up : State := { State.reset with
  pwr := { State.reset.pwr with
    inReset := false
    resetN := false
    upStep := 28
    units := (List.range 32).map fun u => (u, PState.on) }
  boot := { State.reset.boot with
    phase := .firmware
    sealOn := true
    calibrated := true
    inForce := { rights := allRights } } }

/-- `up` with one unit in another state. -/
def upBut (u : Nat) (p : PState) : State := setUnit up u p

/-- A state with one register set. -/
def withReg (s : State) (k v : Nat) : State := setReg s k (BitVec.ofNat 32 v)

/-- The 64 bytes of a descriptor with some fields given: offset, bytes, value (R148). -/
def rawDesc (fields : List (Nat × Nat × Nat)) : List Byte :=
  fields.foldl (fun l f => l.take f.1 ++ leBytes f.2.1 f.2.2 ++ l.drop (f.1 + f.2.1)) (zeros 64)

/-- A released descriptor, number 3 of its queue, on engine 1 of its die. -/
def released (fields : List (Nat × Nat × Nat)) : Desc :=
  { raw := rawDesc fields, idx := 3#32, stage := .released, engine := some 1 }

/-- A state whose queue `q` of domain 5 runs, with fetched descriptors. -/
def withDescs (s : State) (q : Nat) (l : List Desc) : State :=
  setQueue s q { queueOf s q with
    state := .running
    domain := 5#12
    ring := 0x10000
    cq := 0x20000
    size := 16
    head := 4#32
    tail := 4#32
    done := 3#32
    descs := l }

/-! ## Ill-formed commands are refused by the check -/

/-- An authenticated READ of `SYS.PART`, 74 bytes with its header, FCS and an empty payload. -/
def readFrame : KrtFrame :=
  { dst := 0#48
    src := 1#48
    etype := 0x88B5#16
    ver := 1#4
    respFlag := false
    flagsHigh := 0#3
    sid := 9#16
    seq := 1#32
    tag := 0#16
    status := 0#16
    length := 0#16
    space := 0#8
    address := 0x0E00100040#64
    payload := []
    auth := zeros 16
    size := 64 }

/-- A CREDIT frame with no payload. -/
def kftFrame : KftFrame :=
  { fcsOk := true
    size := 64
    dst := 0#48
    src := 1#48
    etype := 0x88B6#16
    ver := 1#4
    reserved0 := true
    branch := 0#2
    flags := 0#8
    domain := 5#16
    stream := 1#24
    format := 0#8
    seq := 0#32
    offset := 0#48
    length := 0#16
    segs := 0#8
    epoch := 0#8
    reason := 0#8
    arg0 := 0#32
    arg1 := 0#32
    payload := [] }

/-- A WRITE message without data. -/
def linkMsg : LinkMsg :=
  { cls := 0#8
    domain := 5#16
    src := 1#8
    tag := 7#16
    address := 0x1000#64
    status := 0#16
    count := 0#16
    value := 0#32
    body := zeros 40
    data := [] }

/-- A STATUS message of the pair. -/
def steerMsg : SteerMsg := { b28 := 0#32, b32 := 0#16, b34 := 0#16, b36 := 0#32, data := [] }

/-- A received FEC block of idle flits. -/
def fecBlock : FecBlock :=
  { decoded := true
    bseq := 0#8
    aseq := 0#8
    ak := 0#2
    reserved := 0#6
    crc := 0#16
    flits := zeros 1280
    corrected := 0 }

theorem test_wf_frame : (Instr.read readFrame false).wf = true ∧ (Instr.read { readFrame with auth := zeros 15 } false).wf = false ∧
    (Instr.rmw { readFrame with payload := zeros 8 }).wf = false := by decide
theorem test_wf_portB : (Instr.write readFrame (some ⟨1, 0, true, [none, none, none, none]⟩)).wf = true ∧
    (Instr.write readFrame (some ⟨1, 0, true, [none, none, none, none, none]⟩)).wf = false := by decide
theorem test_wf_kft : (Instr.kftCredit 0 kftFrame).wf = true ∧ (Instr.kftCredit 0 { kftFrame with size := 65 }).wf = false := by decide
theorem test_wf_link : (Instr.linkWrite 0 linkMsg).wf = true ∧ (Instr.linkWrite 0 { linkMsg with body := zeros 41 }).wf = false := by decide
theorem test_wf_link_data : (Instr.linkWrite 0 { linkMsg with data := zeros 8193 }).wf = false := by decide +kernel
theorem test_wf_steer : (Instr.status steerMsg).wf = true ∧ (Instr.status { steerMsg with link := 64 }).wf = false := by decide
theorem test_wf_block : (Instr.fecBlockReceive 0 fecBlock).wf = true ∧
    (Instr.fecBlockReceive 0 { fecBlock with flits := zeros 1279 }).wf = false := by decide +kernel
theorem test_wf_ecc : (Instr.accordLoadDone [⟨0x40, true⟩]).wf = true ∧ (Instr.accordLoadDone [⟨2 ^ 44, true⟩]).wf = false := by decide
theorem test_wf_plane : (Instr.calCommandEnd [] [⟨2303, true, none⟩] 0#32).wf = true ∧
    (Instr.calCommandEnd [] [⟨2304, true, none⟩] 0#32).wf = false ∧
    (Instr.calCommandEnd [] [⟨0, true, some [0, 0, 0, 0, 0]⟩] 0#32).wf = false := by decide
theorem test_wf_flash : (Instr.recoveryRetry [(0x3FFFFFF, 0#8)]).wf = true ∧
    (Instr.recoveryRetry [(0x4000000, 0#8)]).wf = false := by decide
theorem test_wf_engines : (Instr.engineIdle .red 127).wf = true ∧ (Instr.engineIdle .red 128).wf = false ∧
    (Instr.selfTestDone .lpe 48 true).wf = false := by decide
theorem test_wf_dimms : (Instr.ddr5ChannelTrain []).wf = true ∧
    (Instr.ddr5ChannelTrain [⟨true, 64, 1, 0, 0, 6400⟩, ⟨true, 64, 1, 0, 0, 6400⟩, ⟨true, 64, 1, 0, 0, 6400⟩]).wf = false := by decide
theorem test_wf_sample : (Instr.sample (zeros 660)).wf = true ∧ (Instr.sample (zeros 3)).wf = false := by decide +kernel

/-! ## One step, with results taken from the spec -/

/-- The state after a command. -/
def after (c : Instr) (s : State) : State :=
  match exec c s with
  | .next t => t
  | _ => s

/-- The accumulator of the worked example of chapter 07, in the staging SRAM of FLW2. -/
def accAt : Nat := 0x0C020000000

/-- A REDUCE of one element: format, and its code at stack address 0x1000 of the die's own stacks. -/
def oneReduce (format code len : Nat) (acc : Option Nat) : State :=
  let src := 4 * stackSize + 0x1000
  let d := { released [(0, 1, 3), (2, 2, 0x2A7), (24, 8, src), (32, 8, accAt), (40, 4, 1), (44, 1, format), (46, 2, 3), (48, 2, 0)] with
    entry := some 17 }
  let s := withDescs up 32 [d]
  let s := setCt s (2 * 2048 + 17)
    { state := .opened, domain := 0x2A7, acc := accAt, count := 1, expect := 3 }
  let s := storeBytes s src (leBytes len code)
  match acc with
  | none => s
  | some a => setFresh (storeBytes s accAt (leBytes 4 a)) accAt false

/-- An EMIT of one FP32 element to BF16 with error feedback (MODE 0x02), with a residual. -/
def oneEmit (acc resid : Nat) : State :=
  let d := released [(0, 1, 4), (2, 2, 0x2A7), (24, 8, accAt), (32, 8, accAt + 0x1000), (40, 4, 1), (44, 1, 1), (45, 1, 2), (48, 8, accAt + 0x2000)]
  let s := setFresh (storeBytes (withDescs up 32 [d]) accAt (leBytes 4 acc)) accAt false
  storeBytes s (accAt + 0x2000) (leBytes 4 resid)

/-- Chapter 07, worked example: A in BF16, then B in FP16, then C in E4M3. -/
theorem test_reduce_fresh : readBytes (after (.reduce 32 3#32 []) (oneReduce 1 0x3FC0 2 none)) accAt 4 = leBytes 4 0x3FC00000 := by
  decide +kernel
theorem test_reduce_sum : readBytes (after (.reduce 32 3#32 []) (oneReduce 2 0x4D1A 2 (some 0x3FC00000))) accAt 4 = leBytes 4 0x41AF4000 := by
  decide +kernel
theorem test_reduce_e4m3 : readBytes (after (.reduce 32 3#32 []) (oneReduce 3 0x5A 1 (some 0x41AF4000))) accAt 4 = leBytes 4 0x4227A000 := by
  decide +kernel

/-- Chapter 07, worked example: 41.90625 goes out as 42.0 and leaves -0.09375; with it, the next one goes out as 41.75. -/
theorem test_emit_residual :
    let t := after (.emit 32 3#32 []) (oneEmit 0x4227A000 0)
    readBytes t (accAt + 0x1000) 2 = leBytes 2 0x4228 ∧ readBytes t (accAt + 0x2000) 4 = leBytes 4 0xBDC00000 ∧
    isFresh t accAt = true := by decide +kernel
theorem test_emit_residual_next :
    let t := after (.emit 32 3#32 []) (oneEmit 0x4227A000 0xBDC00000)
    readBytes t (accAt + 0x1000) 2 = leBytes 2 0x4227 ∧ readBytes t (accAt + 0x2000) 4 = leBytes 4 0x3D800000 := by decide +kernel

/-- Chapter 07, worked example: the random word of element 0 under SEED 1 (R210). -/
theorem test_random_word : srWord 1 0 = 0x514E28B7 := by decide +kernel

/-- Chapter 07, second worked example: block 0 of an MXFP4 E2M1 output. The first four values are 12.0, 5.5, -0.75 and 0.3. -/
def mxEmit : State :=
  let d := released [(0, 1, 4), (2, 2, 0x2A7), (24, 8, accAt), (32, 8, accAt + 0x1000), (40, 4, 32), (44, 1, 9), (45, 1, 0)]
  let s := storeBytes (withDescs up 32 [d]) accAt (leBytes 4 0x41400000 ++ leBytes 4 0x40B00000 ++ leBytes 4 0xBF400000 ++ leBytes 4 0x3E99999A)
  setFresh (setFresh s accAt false) (accAt + 64) false

theorem test_emit_mx :
    let t := after (.emit 32 3#32 []) mxEmit
    readBytes t (accAt + 0x1000) 2 = [0x80#8, 0x00#8] ∧ readBytes t (accAt + 0x1040) 4 = [0x57#8, 0x09#8, 0x00#8, 0x00#8] := by decide +kernel

/-- Chapter 06, worked example: the stored bytes of REDUCE (3, 2). -/
def exampleReduce : Desc :=
  { raw := [0x03, 0x01, 0xA7, 0x02, 0x02, 0x04, 0x00, 0x00, 0x03, 0x00, 0x00, 0x00, 0x00, 0x00, 0x00, 0x00] ++
      [0x32, 0x03, 0x00, 0x00, 0x00, 0x00, 0x00, 0x00, 0x00, 0x00, 0x40, 0x15, 0xC0, 0x00, 0x00, 0x00] ++
      [0x00, 0x00, 0x80, 0x18, 0xC0, 0x00, 0x00, 0x00, 0x00, 0x00, 0x10, 0x00, 0x01, 0x00, 0x08, 0x00] ++
      [0x0A, 0x84] ++ zeros 14
    idx := 0#32 }
theorem test_descriptor_fields : dType exampleReduce = tyREDUCE ∧ dWaits exampleReduce = true ∧ dSigs exampleReduce = false ∧
    dDomain exampleReduce = 0x2A7 ∧ dWaitTok exampleReduce = 1026 ∧ dThr exampleReduce = 3 ∧ dTag exampleReduce = 0x332 ∧
    redSrc exampleReduce = 0x0C015400000 ∧ redAcc exampleReduce = 0x0C018800000 ∧ redCount exampleReduce = 0x100000 ∧
    redFormat exampleReduce = 1 ∧ redOp exampleReduce = 0 ∧ redExpect exampleReduce = 8 := by decide +kernel

/-- Chapter 00, worked example: the board address 0x3_0C0_1000_0040 names byte 64 of the staging SRAM of FLW1 on module 3. -/
theorem test_board_address : posOf 0x30C010000040 = 3 ∧ tierOf (locOf 0x30C010000040) = .staging 1 ∧
    locOf 0x30C010000040 - (stagingBase + 0x10000000) = 64 := by decide +kernel

/-- Chapter 09, worked example: how table 0x521 of plane 14 opens, over the base 0x520, and its entries of ports 3 and 37. -/
theorem test_accord_table :
    let t := tableBytes 14 0x520#32 { number := 0x521#32, peers := [(3, 4), (37, 602)], holds := [(3, true)] }
    t.take 20 = [0x4B, 0x41, 0x54, 0x31, 0x01, 0x00, 0x80, 0x04, 0x0E, 0x00, 0x00, 0x00, 0x21, 0x05, 0x00, 0x00, 0x20, 0x05, 0x00, 0x00] ∧
    slice t 76 4 = [0x04, 0x00, 0x00, 0x01] ∧ slice t 212 4 = [0x5A, 0x02, 0x00, 0x00] := by decide +kernel

/-- CRC-32C of "123456789" is the check value that the catalogue of this polynomial gives. -/
theorem test_crc32c : crc32c [0x31, 0x32, 0x33, 0x34, 0x35, 0x36, 0x37, 0x38, 0x39] = 0xE3069283#32 := by decide +kernel

/-- R30: loss of VDD_IO18 resets the module; loss of a Flow die's rail fails that die alone. -/
theorem test_rail_fault : (after (.railFault 1) up).pwr.inReset = true ∧ (after (.railFault 6) up).pwr.inReset = false ∧
    unitSt (after (.railFault 6) up) 0 = .failed ∧ unitSt (after (.railFault 6) up) 1 = .on := by decide +kernel

/-- R146: a TAIL write makes descriptors available and fetches none. -/
theorem test_tail_write :
    let s := withDescs up 3 []
    let t := after (.tailWrite .firmware 3 7#32) s
    (queueOf t 3).tail = 7#32 ∧ (queueOf t 3).head = 4#32 ∧ (queueOf t 3).state = .running := by decide +kernel

/-- R155: an addition saturates at 0xFFFF_FFFF. -/
theorem test_token_saturates :
    (tokOf (after (.tokSignal .firmware 0 7#12 5) (setTok up 7 { value := 0xFFFFFFFD#32, bound := some 5 })) 7).value = 0xFFFFFFFF#32 := by decide +kernel

/-- R218: a vector sum, lane by lane: 1.0 + 2.0 = 3.0. -/
theorem test_vadd : (vReg (optOf (after (.vadd 9 1 2 3) (setOpt up 9 (setV (setV {} 2 (List.replicate 64 0x3F800000#32)) 3
    (List.replicate 64 0x40000000#32)))) 9) 1).take 2 = [0x40400000#32, 0x40400000#32] := by decide +kernel

/-- R39: the operating time advances by one millisecond. -/
theorem test_operating_time : (after .optimeTick up).pwr.optime = 1#40 := by decide +kernel

end Sys2Proof.Tests
end

/-!
A unit in FAILED, and a module out of reset, stay so under every command that causes no module reset
(R30, R32, R56): each command's meaning has its `_keep` lemma, and `exec_keep` gathers them.
-/

namespace Sys2Proof.Machine

/-- The causes of a module reset: `VDD_AON`, a rail, `RESET_N` or `PWRGD`, a thermal trip (R30, R32, R56). -/
def causesModuleReset : Instr → Bool
  | .vddAonRise | .railFault _ | .resetAssert _ | .thermalTrip _ _ => true
  | _ => false

theorem causesModuleReset_eq_false {c : Instr} (h1 : c ≠ .vddAonRise) (h2 : ∀ rail, c ≠ .railFault rail)
    (h3 : ∀ b, c ≠ .resetAssert b) (h4 : ∀ d k, c ≠ .thermalTrip d k) : causesModuleReset c = false := by
  unfold causesModuleReset
  split
  · exact absurd rfl h1
  · exact absurd rfl (h2 _)
  · exact absurd rfl (h3 _)
  · exact absurd rfl (h4 _ _)
  · rfl

theorem Keep.ite {r a b : State} {c : Prop} [Decidable c] (ha : Keep r a) (hb : Keep r b) :
    Keep r (if c then a else b) := by
  split
  · exact ha
  · exact hb

/-- Every command that causes no module reset keeps what `Keep` says. The return of SDSREF156 stands apart: it ends the
loss that `Keep` keeps (`ref156Return_keepsPower`). -/
theorem exec_keep (c : Instr) (s : State) (hc : causesModuleReset c = false) (hr : c ≠ .sdsref156Return) :
    ∃ t, exec c s = .next t ∧ Keep s t := by
  have h0 := Keep.refl s
  cases c with
  | vddAonRise | railFault | resetAssert | thermalTrip => exact nomatch hc
  | railRecovery => exact ⟨_, rfl, railRecoveryRun_keep h0⟩
  | pwrgdAssert => exact ⟨_, rfl, pwrgdRun_keep _ h0⟩
  | resetRelease => exact ⟨_, rfl, resetReleaseRun_keep _ h0⟩
  | powerupUnitStart => exact ⟨_, rfl, powerupRun_keep h0⟩
  | refclk25Loss => exact ⟨_, rfl, ref25Loss_keep h0⟩
  | sdsref156Loss => exact ⟨_, rfl, ref156Loss_keep h0⟩
  | sdsref156Return => exact absurd rfl hr
  | optimeTick => exact ⟨_, rfl, optimeTickRun_keep h0⟩
  | optimeLoRead => exact ⟨_, rfl, readBy_keep _ _ h0⟩
  | idleAfterExpiry => exact ⟨_, rfl, idleAfterRun_keep _ h0⟩
  | offAfterExpiry => exact ⟨_, rfl, offAfterRun_keep _ h0⟩
  | engineIdle => exact ⟨_, rfl, engineIdleRun_keep _ _ h0⟩
  | hubOff => exact ⟨_, rfl, hubOffRun_keep _ h0⟩
  | hubWake => exact ⟨_, rfl, hubWakeRun_keep _ h0⟩
  | wakePhaseStart => exact ⟨_, rfl, wakePhaseRun_keep h0⟩
  | powerGateDone => exact ⟨_, rfl, powerGateRun_keep h0⟩
  | zeroingDone => exact ⟨_, rfl, zeroingRun_keep _ h0⟩
  | clockUngateDone => exact ⟨_, rfl, clockUngateRun_keep h0⟩
  | offEntryDone => exact ⟨_, rfl, offEntryRun_keep h0⟩
  | flwWake | flwIdle | flwOff | irqForce | softReset | rightsWrite | keySelWrite | keyLoad | restartCmd
    | wdogKick | tailWrite | dbAdd | tokSignal | tokSet | tokValWrite | queueStop | queueResume | queueFlush
    | ctDiscard | redHold | redSoftReset | redTest | optHold | optSoftReset | optTest | plnHold | plnSoftReset
    | plnTest | lnkWiden | partCfgWrite | fppEnable | lnkTest | fppTest | slotWrite | slotHold | mirTrimWrite
    | autotuneGo | autotuneStop | jogClear | accordLoad | accordAbort | lpeHold | lpeRelease | lpeSoftReset
    | lpeTest | fselForceWrite | loopEnable | loopReacq | ffParamWrite | fslHold | calOffset | calFringe
    | calPlane | calAbort | fixSave | yield | rdnSync | rdnClear | rdSeqWrite | sillageRelease | hostmark
    | crcGo | crcLearn | crcStop | bltHold | schHold | acdHold | copyEngineHold | pageCtlEnWrite =>
    exact ⟨_, rfl, writeAt_keep _ _ _ _ _ h0⟩
  | powerMeasure => exact ⟨_, rfl, powerMeasureRun_keep _ h0⟩
  | capRelease => exact ⟨_, rfl, capReleaseRun_keep h0⟩
  | thermalThrottle => exact ⟨_, rfl, throttleRun_keep _ _ h0⟩
  | thermalDieOff => exact ⟨_, rfl, dieOffRun_keep _ _ h0⟩
  | bypass => exact ⟨_, rfl, jtagBypass_keep h0⟩
  | idcode => exact ⟨_, rfl, jtagIdcode_keep h0⟩
  | samplePreload => exact ⟨_, rfl, jtagSample_keep _ _ h0⟩
  | extest => exact ⟨_, rfl, jtagExtest_keep h0⟩
  | clamp => exact ⟨_, rfl, jtagClamp_keep h0⟩
  | highz => exact ⟨_, rfl, jtagHighz_keep h0⟩
  | registerWrite | mbxAcquire | mbxRelease | mbxH2fDoorbell => exact ⟨_, rfl, writeBy_keep _ _ _ _ h0⟩
  | read => exact ⟨_, rfl, krtOp_keep _ _ _ h0 fun _ _ h => krtRead_keep _ _ _ h⟩
  | write => exact ⟨_, rfl, krtOp_keep _ _ _ h0 fun _ _ h => krtWrite_keep _ _ _ h⟩
  | rmw => exact ⟨_, rfl, krtOp_keep _ _ _ h0 fun _ _ h => krtRmw_keep _ _ h⟩
  | bulkRead => exact ⟨_, rfl, krtOp_keep _ _ _ h0 fun _ _ h => krtBulkRead_keep _ _ h⟩
  | bulkWrite => exact ⟨_, rfl, krtOp_keep _ _ _ h0 fun _ _ h => krtBulkWrite_keep _ _ h⟩
  | notifyAck => exact ⟨_, rfl, notifyAckRun_keep _ h0⟩
  | openSession | close | keepalive => exact ⟨_, rfl, sessionRun_keep _ h0⟩
  | krtPending => exact ⟨_, rfl, pendingRun_keep _ _ h0⟩
  | sessionIdleExpiry => exact ⟨_, rfl, idleRun_keep _ h0⟩
  | krtAnswerStart => exact ⟨_, rfl, answerStartRun_keep h0⟩
  | notifyRetry => exact ⟨_, rfl, notifyRetryRun_keep _ _ h0⟩
  | hostPortUp => exact ⟨_, rfl, Keep.ite (hostTrain_keep _ h0) h0⟩
  | selfTestDone => exact ⟨_, rfl, Keep.ite (testDone_keep _ _ _ h0) h0⟩
  | hostPortRetrain => exact ⟨_, rfl, hostTrain_keep _ h0⟩
  | softResetDone => exact ⟨_, rfl, srstDone_keep _ _ h0⟩
  | mbxF2hDoorbell => exact ⟨_, rfl, f2hRun_keep _ h0⟩
  | stage1Start => exact ⟨_, rfl, romRun_keep h0⟩
  | recoveryRetry => exact ⟨_, rfl, recoveryRun_keep _ h0⟩
  | identGet => exact ⟨_, rfl, identGetRun_keep h0⟩
  | attest => exact ⟨_, rfl, attestRun_keep h0⟩
  | imageWrite => exact ⟨_, rfl, imageWriteRun_keep h0⟩
  | imageActivate => exact ⟨_, rfl, imageActivateRun_keep h0⟩
  | bootConfirm => exact ⟨_, rfl, bootConfirmRun_keep h0⟩
  | siteWrite => exact ⟨_, rfl, siteWriteRun_keep h0⟩
  | ownerAdd => exact ⟨_, rfl, ownerAddRun_keep h0⟩
  | mgmtRestart => exact ⟨_, rfl, mgmtRestartRun_keep h0⟩
  | watchdogExpiry => exact ⟨_, rfl, watchdogRun_keep h0⟩
  | mgmtRestartBegin => exact ⟨_, rfl, restartBegin_keep h0⟩
  | ddr5ChannelTrain => exact ⟨_, rfl, chanTrainRun_keep _ h0⟩
  | ddr5TrainingEnd => exact ⟨_, rfl, chanEndRun_keep _ h0⟩
  | ddr5ChannelFail => exact ⟨_, rfl, chanFailRun_keep _ h0⟩
  | scrubVisit => exact ⟨_, rfl, scrubRun_keep _ _ _ _ _ h0⟩
  | heldAccessResume => exact ⟨_, rfl, heldResumeRun_keep h0⟩
  | jobAdmit => exact ⟨_, rfl, jobAdmitRun_keep h0⟩
  | jobAdmitResume => exact ⟨_, rfl, jobAdmitResumeRun_keep h0⟩
  | jobRelease => exact ⟨_, rfl, jobReleaseRun_keep h0⟩
  | memQuery => exact ⟨_, rfl, memQueryRun_keep h0⟩
  | rangeZeroingDone => exact ⟨_, rfl, rangeZeroingRun_keep h0⟩
  | descriptorFetch => exact ⟨_, rfl, fetchRun_keep _ _ h0⟩
  | descriptorRelease => exact ⟨_, rfl, releaseRun_keep _ h0⟩
  | copy => exact ⟨_, rfl, onRun_keep _ _ _ _ h0 fun _ _ h => copyRun_keep _ _ _ h⟩
  | recv => exact ⟨_, rfl, onRun_keep _ _ _ _ h0 fun _ _ h => recvRun_keep _ _ h⟩
  | reduce => exact ⟨_, rfl, onRun_keep _ _ _ _ h0 fun _ _ h => reduceRun_keep _ _ _ h⟩
  | emit => exact ⟨_, rfl, onRun_keep _ _ _ _ h0 fun _ _ h => emitRun_keep _ _ _ h⟩
  | atomize => exact ⟨_, rfl, onRun_keep _ _ _ _ h0 fun _ _ h => atomizeRun_keep _ _ _ h⟩
  | optim => exact ⟨_, rfl, onRun_keep _ _ _ _ h0 fun _ _ h => optimRun_keep _ _ _ h⟩
  | branch => exact ⟨_, rfl, onRun_keep _ _ _ _ h0 fun _ _ h => branchRun_keep _ _ h⟩
  | tokenAdd => exact ⟨_, rfl, onRun_keep _ _ _ _ h0 fun _ _ h => Keep.ite (tokenAddRun_keep _ _ h) h⟩
  | tokenSet => exact ⟨_, rfl, onRun_keep _ _ _ _ h0 fun _ _ h => Keep.ite (tokenSetRun_keep _ _ h) h⟩
  | tokenDoorbell =>
    exact ⟨_, rfl, onRun_keep _ _ _ _ h0 fun _ _ h => Keep.ite (tokenDoorbellRun_keep _ _ h) h⟩
  | fence => exact ⟨_, rfl, onRun_keep _ _ _ _ h0 fun _ _ h => fenceRun_keep _ _ h⟩
  | accordWait => exact ⟨_, rfl, onRun_keep _ _ _ _ h0 fun _ _ h => accordWaitRun_keep _ _ h⟩
  | waitLimitExpiry => exact ⟨_, rfl, waitLimitHit_keep _ h0⟩
  | recvWindowTimeout => exact ⟨_, rfl, windowTimeout_keep _ _ h0⟩
  | queueBind => exact ⟨_, rfl, queueBindRun_keep h0⟩
  | queueUnbind => exact ⟨_, rfl, queueUnbindRun_keep h0⟩
  | tokenBind => exact ⟨_, rfl, tokenBindRun_keep h0⟩
  | tokenUnbind => exact ⟨_, rfl, tokenUnbindRun_keep h0⟩
  | flowLoad => exact ⟨_, rfl, flowLoadRun_keep h0⟩
  | discardSweepDone => exact ⟨_, rfl, sweepDone_keep _ h0⟩
  | nop | vadd | vsub | vmul | vfma | vmin | vmax | vcpys | vadds | vmuls | vfmas | vaxpb | vmins | vmaxs
    | vbcast | vrcp | vrsqrt | vsqrt | vexp2 | vlog2 | vabs | vneg | vmov | sadd | ssub | smul | sfma | smin
    | smax | srcp | srsqrt | ssqrt | sexp2 | slog2 | smov | sli | lacc | hacc | tile =>
    exact ⟨_, rfl, stepReg_keep _ _ h0⟩
  | vld | vst => exact ⟨_, rfl, stepStream_keep _ _ h0⟩
  | pass => exact ⟨_, rfl, stepEnd_keep _ _ h0 fun _ _ _ h => passLast_keep _ _ h⟩
  | endMark => exact ⟨_, rfl, stepEnd_keep _ _ h0 fun _ _ _ h => endLast_keep _ _ h⟩
  | schedule => exact ⟨_, rfl, onPlan_keep _ _ _ _ _ h0 fun _ _ h => scheduleRun_keep _ _ h⟩
  | assign => exact ⟨_, rfl, onPlan_keep _ _ _ _ _ h0 fun _ _ h => assignRun_keep _ _ h⟩
  | sinkhorn => exact ⟨_, rfl, onPlan_keep _ _ _ _ _ h0 fun _ _ h => sinkhornRun_keep _ _ h⟩
  | gemm => exact ⟨_, rfl, onPlan_keep _ _ _ _ _ h0 fun _ _ h => gemmRun_keep _ _ h⟩
  | validate => exact ⟨_, rfl, onPlan_keep _ _ _ _ _ h0 fun _ _ h => validateRun_keep _ _ h⟩
  | snapshot => exact ⟨_, rfl, onPlan_keep _ _ _ _ _ h0 fun _ _ h => snapshotRun_keep _ _ h⟩
  | portmapSet => exact ⟨_, rfl, portmapSetRun_keep h0⟩
  | portmapGet => exact ⟨_, rfl, portmapGetRun_keep h0⟩
  | fecBlockReceive => exact ⟨_, rfl, fecBlockRun_keep _ _ h0⟩
  | replayTimeout => exact ⟨_, rfl, replayTimeoutRun_keep _ h0⟩
  | laneFail => exact ⟨_, rfl, laneFailRun_keep _ _ h0⟩
  | retrainDone => exact ⟨_, rfl, retrainDoneRun_keep _ _ h0⟩
  | retrainTimeout => exact ⟨_, rfl, retrainTimeoutRun_keep _ h0⟩
  | linkLoss => exact ⟨_, rfl, linkLossRun_keep _ h0⟩
  | trainingAttempt => exact ⟨_, rfl, trainingAttemptRun_keep _ h0⟩
  | trainingPatternReceive => exact ⟨_, rfl, patternRun_keep _ h0⟩
  | trainingDone => exact ⟨_, rfl, trainingDoneRun_keep _ _ h0⟩
  | init => exact ⟨_, rfl, initRun_keep _ _ h0⟩
  | linkIdle => exact ⟨_, rfl, linkIdleRun_keep _ h0⟩
  | linkWrite => exact ⟨_, rfl, linkWriteRun_keep _ _ h0⟩
  | linkRead => exact ⟨_, rfl, linkReadRun_keep _ _ _ h0⟩
  | rdata | wack | regack => exact ⟨_, rfl, responseRun_keep _ _ _ h0⟩
  | regwr => exact ⟨_, rfl, regwrRun_keep _ _ h0⟩
  | linkCredit => exact ⟨_, rfl, linkCreditRun_keep _ _ h0⟩
  | reach => exact ⟨_, rfl, reachRun_keep _ _ h0⟩
  | creditReturn => exact ⟨_, rfl, creditReturnRun_keep _ h0⟩
  | reachSend => exact ⟨_, rfl, reachSendRun_keep h0⟩
  | routeDrainRelease => exact ⟨_, rfl, routeDrainRun_keep _ h0⟩
  | linkTableSet => exact ⟨_, rfl, linkTableSetRun_keep h0⟩
  | linkTableGet => exact ⟨_, rfl, linkTableGetRun_keep h0⟩
  | portTrainDone => exact ⟨_, rfl, portUpRun_keep _ h0⟩
  | portDown => exact ⟨_, rfl, portDownRun_keep _ h0⟩
  | kftData => exact ⟨_, rfl, kftReceive_keep _ _ _ (fun _ h => kftDataRun_keep _ _ h) h0⟩
  | kftToken => exact ⟨_, rfl, kftReceive_keep _ _ _ (fun _ h => kftTokenRun_keep _ _ h) h0⟩
  | kftAck => exact ⟨_, rfl, kftReceive_keep _ _ _ (fun _ h => kftAckRun_keep _ _ h) h0⟩
  | kftNak => exact ⟨_, rfl, kftReceive_keep _ _ _ (fun _ h => kftNakRun_keep _ _ h) h0⟩
  | kftCredit => exact ⟨_, rfl, kftReceive_keep _ _ _ (fun _ h => kftCreditRun_keep _ _ h) h0⟩
  | burstEnd => exact ⟨_, rfl, kftReceive_keep _ _ _ (fun _ h => burstEndRun_keep _ _ h) h0⟩
  | kftBranch => exact ⟨_, rfl, kftReceive_keep _ _ _ (fun _ h => kftBranchRun_keep _ _ h) h0⟩
  | ackDelayExpiry => exact ⟨_, rfl, ackDelayRun_keep _ h0⟩
  | rtoExpiry => exact ⟨_, rfl, rtoRun_keep _ h0⟩
  | brTimeoutExpiry => exact ⟨_, rfl, brTimeoutRun_keep _ h0⟩
  | branchRepeat => exact ⟨_, rfl, branchRepeatRun_keep _ h0⟩
  | planeLinkUp => exact ⟨_, rfl, planeUpRun_keep _ h0⟩
  | planeLaneLoss => exact ⟨_, rfl, planeLaneLossRun_keep _ h0⟩
  | sample => exact ⟨_, rfl, withStatus_keep _ h0 fun _ h => sampleRun_keep _ h⟩
  | actuator => exact ⟨_, rfl, withStatus_keep _ h0 fun _ h => actuatorRun_keep _ _ h⟩
  | tileLost => exact ⟨_, rfl, withStatus_keep _ h0 fun _ h => tileLostRun_keep _ h⟩
  | claimAttempt => exact ⟨_, rfl, withStatus_keep _ h0 fun _ h => claimTry_keep h⟩
  | claimInAssert => exact ⟨_, rfl, withStatus_keep _ h0 fun _ h => claimAsserted_keep h⟩
  | claimInDeassert => exact ⟨_, rfl, withStatus_keep _ h0 fun _ h => claimDeasserted_keep h⟩
  | claimHoldoffEnd => exact ⟨_, rfl, withStatus_keep _ h0 fun _ h => holdoffEnd_keep h⟩
  | raceBackoffCheck => exact ⟨_, rfl, withStatus_keep _ h0 fun _ h => backoffCheck_keep h⟩
  | claimWaitExpiry => exact ⟨_, rfl, withStatus_keep _ h0 fun _ h => claimWaited_keep h⟩
  | claimFault => exact ⟨_, rfl, withStatus_keep _ h0 fun _ h => claimFaulted_keep h⟩
  | partnerSilent => exact ⟨_, rfl, withStatus_keep _ h0 fun _ h => silentRun_keep _ h⟩
  | engineTestDone => exact ⟨_, rfl, withStatus_keep _ h0 fun _ h => engineTestEnd_keep _ h⟩
  | checkMissing => exact ⟨_, rfl, withStatus_keep _ h0 fun _ h => checkMissingRun_keep h⟩
  | syncTimeout => exact ⟨_, rfl, withStatus_keep _ h0 fun _ h => syncTimeoutRun_keep h⟩
  | yieldedAutoClear => exact ⟨_, rfl, withStatus_keep _ h0 fun _ h => autoClear_keep h⟩
  | axisMigrate => exact ⟨_, rfl, migrate_keep _ h0⟩
  | autotuneTimeout => exact ⟨_, rfl, tuneEnd_keep _ _ h0⟩
  | jogEdge => exact ⟨_, rfl, jogRun_keep _ _ _ h0⟩
  | accordEntryLoad => exact ⟨_, rfl, entryLoadStart_keep h0⟩
  | accordLoadDone => exact ⟨_, rfl, entryLoadDone_keep _ h0⟩
  | accordValidateDone => exact ⟨_, rfl, entryValidateDone_keep h0⟩
  | groupSettleTimeout => exact ⟨_, rfl, settleTimeout_keep _ h0⟩
  | peakTimeout => exact ⟨_, rfl, peakTimeout'_keep _ h0⟩
  | peakRetry => exact ⟨_, rfl, retryRound_keep h0⟩
  | lpeDrainDone => exact ⟨_, rfl, lpeDrained_keep _ h0⟩
  | loopEngineFault => exact ⟨_, rfl, loopFault_keep _ h0⟩
  | cageInsert => exact ⟨_, rfl, cageInsertRun_keep _ _ h0⟩
  | cageRemove => exact ⟨_, rfl, cageRemoveRun_keep _ h0⟩
  | channelConversion => exact ⟨_, rfl, conversionRun_keep _ _ _ h0⟩
  | heaterUpdate => exact ⟨_, rfl, heaterRun_keep _ _ _ _ h0⟩
  | ditherPeriodEnd => exact ⟨_, rfl, periodRun_keep _ _ _ h0⟩
  | pilotCheckStart => exact ⟨_, rfl, pilotStartRun_keep _ h0⟩
  | pilotCheckDone => exact ⟨_, rfl, pilotDoneRun_keep _ _ h0⟩
  | reacqDarkTimeout => exact ⟨_, rfl, darkTimeoutRun_keep _ h0⟩
  | branchPathRelease => exact ⟨_, rfl, pathReleaseRun_keep _ h0⟩
  | branchPathTimeout => exact ⟨_, rfl, pathTimeoutRun_keep _ h0⟩
  | powerupCalibration => exact ⟨_, rfl, powerupCalRun_keep _ h0⟩
  | fringeScanDone => exact ⟨_, rfl, scanDoneRun_keep _ _ h0⟩
  | calCommandEnd => exact ⟨_, rfl, calEndRun_keep _ _ _ h0⟩
  | fixativeSaveDone => exact ⟨_, rfl, saveDoneRun_keep _ h0⟩
  | output => exact ⟨_, rfl, steerIn_keep _ _ h0 fun _ h => outputRecv_keep _ h⟩
  | check => exact ⟨_, rfl, steerIn_keep _ _ h0 fun _ h => checkRecv_keep _ h⟩
  | status => exact ⟨_, rfl, steerIn_keep _ _ h0 fun _ h => statusRecv_keep _ h⟩
  | integ => exact ⟨_, rfl, steerIn_keep _ _ h0 fun _ h => followRecv_keep _ _ h⟩
  | coef => exact ⟨_, rfl, steerIn_keep _ _ h0 fun _ h => followRecv_keep _ _ h⟩
  | trim => exact ⟨_, rfl, steerIn_keep _ _ h0 fun _ h => followRecv_keep _ _ h⟩
  | accord => exact ⟨_, rfl, steerIn_keep _ _ h0 fun _ h => followRecv_keep _ _ h⟩
  | syncReq => exact ⟨_, rfl, steerIn_keep _ _ h0 fun _ h => syncReqRecv_keep h⟩
  | syncData => exact ⟨_, rfl, steerIn_keep _ _ h0 fun _ h => syncDataRecv_keep _ h⟩
  | syncRefuse => exact ⟨_, rfl, steerIn_keep _ _ h0 fun _ h => syncRefuseRecv_keep h⟩
  | syncReqRepeat => exact ⟨_, rfl, maybeSync_keep h0⟩
  | syncImageTake => exact ⟨_, rfl, imageTake_keep h0⟩
  | bucketRefill => exact ⟨_, rfl, bucketRefillRun_keep _ h0⟩
  | recordWrite => exact ⟨_, rfl, recordWriteRun_keep h0⟩
  | checkpointWrite => exact ⟨_, rfl, checkpointRun_keep h0⟩
  | sillagePersist => exact ⟨_, rfl, persistRun_keep h0⟩
  | sillageRead => exact ⟨_, rfl, sillageReadRun_keep h0⟩
  | crcPassEnd => exact ⟨_, rfl, crcEndRun_keep _ _ _ _ h0⟩
  | crcPeriodStart => exact ⟨_, rfl, crcPeriodRun_keep _ h0⟩
  | blotterRegionStart => exact ⟨_, rfl, regionStartRun_keep h0⟩
  | blotterCopyDone => exact ⟨_, rfl, copyDoneRun_keep h0⟩
  | blotterTestDone => exact ⟨_, rfl, testDoneRun_keep _ h0⟩
  | blotterRestoreDone => exact ⟨_, rfl, restoreDoneRun_keep h0⟩
  | blotterRetry => exact ⟨_, rfl, bltRetryRun_keep h0⟩
  | positionLossTimeout => exact ⟨_, rfl, positionLossRun_keep h0⟩
  | pendingRouteResume => exact ⟨_, rfl, pendingRouteRun_keep _ h0⟩
  | blotterSpareTestDone => exact ⟨_, rfl, spareTestRun_keep _ h0⟩
  | _ => -- SEAL, whose constructor's name is a keyword of Lean
    exact ⟨_, rfl, writeAt_keep _ _ _ _ _ h0⟩

theorem ref156Return_keepsPower (s : State) :
    (∀ u, unitSt s u = .failed → unitSt (ref156Return s) u = .failed) ∧
      (s.pwr.inReset = false → (ref156Return s).pwr.inReset = false) := by
  by_cases e : s.pwr.ref156 = true
  · rw [ref156Return_lost e]
    exact ⟨fun _ h => h, id⟩
  · have k := ref156Return_keep (s := s) (by simpa using e)
    exact ⟨fun u h => k.failed u h, k.pwr.inReset⟩

/-- Settles O7: `exec_keep` over the commands, and the return of SDSREF156 by itself. -/
theorem onlyModuleResetsEndFailedAndEnterReset : Obligations.OnlyModuleResetsEndFailedAndEnterReset := by
  intro c s t ht h1 h2 h3 h4
  by_cases hr : c = .sdsref156Return
  · subst hr
    cases ht
    exact ref156Return_keepsPower s
  · obtain ⟨u, hu, k⟩ := exec_keep c s (causesModuleReset_eq_false h1 h2 h3 h4) hr
    cases hu.symm.trans ht
    exact ⟨k.failed, k.pwr.inReset⟩

end Sys2Proof.Machine

/-!
The state after reset, and the commands of the JTAG port (R41, R57).
-/

namespace Sys2Proof.Machine

/-! ## The state after reset -/

theorem getReg_reset (k : Nat) : getReg State.reset k = regDefault k := rfl

theorem reset_canonical : Canonical State.reset := ⟨rfl, rfl⟩

theorem reset_fuses : FusesAtLeast 0 none false State.reset :=
  ⟨Nat.le_refl 0, nofun, nofun⟩

/-- Settles O5: every table of the reset state is empty, and its fuses are those of manufacture. -/
theorem resetStateMeetsTheInvariants : Obligations.ResetStateMeetsTheInvariants :=
  ⟨reset_canonical, reset_fuses, rfl, rfl⟩

theorem regDefault_pcap : regDefault Reg.PWR_PCAP = 1800#32 := by decide

theorem regDefault_etype : regDefault Reg.HST_ETYPE = 0x88B5#32 := by decide

/-- Settles O6: a table with nothing listed reads as its default at every key. -/
theorem resetLeavesTheSpecsValues : Obligations.ResetLeavesTheSpecsValues :=
  ⟨fun _ => rfl, fun _ => rfl, fun _ => ⟨rfl, rfl, rfl⟩, fun _ => rfl, getReg_reset, regDefault_pcap, regDefault_etype,
    fun _ => ⟨rfl, rfl, rfl⟩, rfl, rfl, fun _ => rfl, fun _ => rfl, rfl⟩

/-! ## The JTAG port -/

/-- The four instructions of the full set take effect with RESET_N asserted and PWRGD high only (R57). -/
theorem jtagSample_eq (s : State) (pins preload : List Bool) :
    jtagSample s pins preload =
      if s.pwr.resetN && s.pwr.pwrgd then { s with
        pwr := { s.pwr with jtag := .samplePreload, jtagCells := preload, jtagDrive := none }
        out := .jtag pins :: s.out } else jtagBypass s := rfl

theorem jtagExtest_eq (s : State) :
    jtagExtest s =
      if s.pwr.resetN && s.pwr.pwrgd then { s with
        pwr := { s.pwr with jtag := .extest, jtagDrive := some s.pwr.jtagCells }
        out := .jtag s.pwr.jtagCells :: s.out } else jtagBypass s := rfl

theorem jtagClamp_eq (s : State) :
    jtagClamp s =
      if s.pwr.resetN && s.pwr.pwrgd then { s with
        pwr := { s.pwr with jtag := .clamp, jtagDrive := some s.pwr.jtagCells }
        out := .jtag [false] :: s.out } else jtagBypass s := rfl

theorem jtagHighz_eq (s : State) :
    jtagHighz s =
      if s.pwr.resetN && s.pwr.pwrgd then { s with
        pwr := { s.pwr with jtag := .highz, jtagDrive := none }
        out := .jtag [false] :: s.out } else jtagBypass s := rfl

/-- Settles O13: each instruction's equation, whose other case is BYPASS. -/
theorem jtagAcceptsTheFullSetOnlyInReset : Obligations.JtagAcceptsTheFullSetOnlyInReset := fun s =>
  ⟨rfl, rfl, fun pins preload => congrArg Host.Outcome.next (jtagSample_eq s pins preload),
    congrArg Host.Outcome.next (jtagExtest_eq s), congrArg Host.Outcome.next (jtagClamp_eq s),
    congrArg Host.Outcome.next (jtagHighz_eq s)⟩

end Sys2Proof.Machine

/-!
The causes of a module reset and its release (R30, R32, R33, R39, R56, R429): what a lost rail latches, which units it
fails, and what is left of the state in reset and at its release.
-/

namespace Sys2Proof.Machine

/-! ## A lost rail -/

/-- A rail out of tolerance, latched and reported (R30). -/
def railLatched (s : State) (rail : Nat) : State :=
  raiseIrqArgs (latchRails (modPwr s fun p => { p with rails := p.rails &&& ~~~ (BitVec.ofNat 19 (2 ^ rail)) })
    (BitVec.ofNat 19 (2 ^ rail))) 0x02 0 0 0 [rail]

theorem railLatched_reports (s : State) (rail : Nat) :
    Reports [Reg.PWR_RAIL_FAULT, Reg.PWR_IRQ_STAT]
      { s with pwr := { s.pwr with rails := s.pwr.rails &&& ~~~ (BitVec.ofNat 19 (2 ^ rail)) } } (railLatched s rail) :=
  raiseIrqArgs_reports _ _ _ _ _ (by decide) ((Reports.refl _ _).orReg _ _ (Or.inl (by simp)))

theorem railLatched_inReset (s : State) (rail : Nat) : (railLatched s rail).pwr.inReset = s.pwr.inReset := by
  rw [(railLatched_reports s rail).rest]

theorem railLatched_railFault (s : State) (rail : Nat) :
    getReg (railLatched s rail) Reg.PWR_RAIL_FAULT =
      getReg s Reg.PWR_RAIL_FAULT ||| (BitVec.ofNat 19 (2 ^ rail)).setWidth 32 := by
  unfold railLatched
  rw [(raiseIrqArgs_reports (ks := [Reg.PWR_IRQ_STAT]) _ _ _ _ _ (by decide) (Reports.refl _ _)).regs _
    (by decide) (by decide)]
  exact getReg_setReg_same _ _ _

theorem railLatched_irqStat (s : State) (rail : Nat) :
    getReg (railLatched s rail) Reg.PWR_IRQ_STAT = getReg s Reg.PWR_IRQ_STAT ||| 1#32 := by
  refine (raiseIrqArgs_stat _ 0x02 0 0 0 [rail] (by decide)).trans ?_
  refine congrArg (· ||| 1#32) ?_
  exact getReg_setReg_ne _ _ (by decide)

theorem railFaultRun_inReset {s : State} {rail : Nat} (h : s.pwr.inReset = true) :
    railFaultRun s rail = railLatched s rail :=
  if_pos ((railLatched_inReset s rail).trans h)

theorem railFaultRun_resets {s : State} {rail : Nat} (h : s.pwr.inReset = false) (hr : railUnits rail = []) :
    railFaultRun s rail = moduleReset (railLatched s rail) causeRail := by
  have h' := (railLatched_inReset s rail).trans h
  refine (if_neg (Bool.eq_false_iff.1 h')).trans (if_pos ?_)
  rw [hr]; rfl

theorem railFaultRun_failsUnits {s : State} {rail u : Nat} (h : s.pwr.inReset = false) (hu : u ∈ railUnits rail) :
    railFaultRun s rail = (railUnits rail).foldl failDie (railLatched s rail) := by
  have h' := (railLatched_inReset s rail).trans h
  refine (if_neg (Bool.eq_false_iff.1 h')).trans (if_neg ?_)
  cases e : railUnits rail with
  | nil => rw [e] at hu; cases hu
  | cons => simp

/-- The rails of group A and those of STE and of the analog front end feed no unit that can fail by itself (R27, R30). -/
theorem railUnits_eq_nil {rail : Nat} (h : rail < 6 ∨ rail = 14) : railUnits rail = [] := by
  unfold railUnits
  rw [if_neg, if_neg, if_neg, if_neg, if_neg] <;> simp <;> omega

/-- The units of every other rail (R27). -/
theorem mem_railUnits {rail u : Nat}
    (h : (6 ≤ rail ∧ rail ≤ 9 ∧ u = rail - 6) ∨ (rail = 10 ∧ dieHUB ≤ u ∧ u < dieHUB + 4) ∨
      ((rail = 11 ∨ rail = 15 ∨ rail = 18) ∧ dieIOD ≤ u ∧ u < dieIOD + 8) ∨
      ((rail = 12 ∨ rail = 16) ∧ dieSTK ≤ u ∧ u < dieSTK + 8) ∨
      ((rail = 13 ∨ rail = 17) ∧ dieDMC ≤ u ∧ u < dieDMC + 2)) : u ∈ railUnits rail := by
  have range : ∀ a n, a ≤ u → u < a + n → u ∈ (List.range n).map (a + ·) := fun a n h1 h2 =>
    List.mem_map.2 ⟨u - a, List.mem_range.2 (by omega), by omega⟩
  rcases h with ⟨h1, h2, rfl⟩ | ⟨rfl, h1, h2⟩ | ⟨rfl | rfl | rfl, h1, h2⟩ | ⟨rfl | rfl, h1, h2⟩ | ⟨rfl | rfl, h1, h2⟩
  · unfold railUnits
    rw [if_pos (by simp [h1, h2])]
    exact List.mem_singleton_self _
  all_goals exact range _ _ h1 h2

/-! ## Module reset -/

/-- What a module reset leaves does not depend on the pins. -/
theorem InModuleReset.of_modPwr {m t : State} {b : Nat} {f : Pwr → Pwr} (h : InModuleReset (modPwr m f) t b)
    (ho : (f m.pwr).optime = m.pwr.optime) (hp : (f m.pwr).pcycle = m.pwr.pcycle) : InModuleReset m t b :=
  ⟨h.inReset, h.units, h.aon, h.cause, h.others, ⟨h.counters.1.trans ho, h.counters.2.trans hp⟩, h.sillage, h.kept,
    h.claim, h.quiet, h.lost⟩

theorem resetAssertRun_resets {s : State} (fell : Bool) (h : s.pwr.inReset = false) :
    resetAssertRun s fell = moduleReset (modPwr (modPwr s fun p => { p with
      resetN := p.resetN || !fell
      pwrgd := p.pwrgd && !fell }) fun p => { p with tripped := false }) causePin :=
  if_neg (by simp [modPwr, h])

theorem resetAssertRun_inReset {s : State} (fell : Bool) (h : s.pwr.inReset = true) (ht : s.pwr.tripped = false) :
    resetAssertRun s fell =
      { s with pwr := { s.pwr with resetN := s.pwr.resetN || !fell, pwrgd := s.pwr.pwrgd && !fell } } :=
  if_pos (by simp [modPwr, h, ht])

theorem tripRun_resets {s : State} (u t : Nat) (h : s.pwr.inReset = false) (ht : 115 ≤ t) :
    tripRun s u t = moduleReset (modPwr (setTemp s u t) fun p => { p with tripped := true }) causeTrip :=
  if_pos (by simp [setTemp, h, ht])

theorem tripRun_below {s : State} (u t : Nat) (ht : t < 115) : tripRun s u t = setTemp s u t :=
  if_neg (by simp [Nat.not_le.2 ht])

theorem tryRelease_resetN {m : State} (h : m.pwr.resetN = true) : tryRelease m = m :=
  (tryRelease_released m).2 fun r => Bool.false_ne_true (r.2.2.1.symm.trans h)

/-- Settles O8: the causes by their equations, and `moduleReset_inModuleReset` for what they leave. -/
theorem railsResetPinTripAndAonRiseReset : Obligations.RailsResetPinTripAndAonRiseReset := by
  refine ⟨fun s rail h hr => ?_, fun s rail u h hu => ?_, fun s rail h => ?_, fun s fell h => ?_,
    fun s fell h ht => ?_, fun s u temp h ht => ?_, fun s u temp ht => ?_, fun s h => ?_⟩
  · exact ⟨_, _, congrArg Host.Outcome.next (railFaultRun_resets h (railUnits_eq_nil hr)), railLatched_reports s rail,
      railLatched_railFault s rail, railLatched_irqStat s rail, moduleReset_inModuleReset _ _⟩
  · have hm := mem_railUnits hu
    have kept : Keep (railLatched s rail) ((railUnits rail).foldl failDie (railLatched s rail)) :=
      Keep.foldl (Keep.refl _) fun _ _ h => failDie_keep _ h
    exact ⟨_, congrArg Host.Outcome.next (railFaultRun_failsUnits h hm), failDies_st _ _ _ hm,
      kept.pwr.inReset ((railLatched_inReset s rail).trans h)⟩
  · exact ⟨_, congrArg Host.Outcome.next (railFaultRun_inReset h), railLatched_reports s rail⟩
  · exact ⟨_, congrArg Host.Outcome.next (resetAssertRun_resets fell h),
      .of_modPwr (.of_modPwr (moduleReset_inModuleReset _ _) rfl rfl) rfl rfl, rfl, rfl, rfl⟩
  · exact congrArg Host.Outcome.next (resetAssertRun_inReset fell h ht)
  · exact ⟨_, congrArg Host.Outcome.next (tripRun_resets _ _ h ht), .of_modPwr (moduleReset_inModuleReset _ _) rfl rfl,
      rfl⟩
  · exact congrArg Host.Outcome.next (tripRun_below _ _ ht)
  · exact ⟨_, congrArg Host.Outcome.next (tryRelease_resetN h), rfl, fun _ => rfl, fun _ => rfl, rfl, by simp, rfl, rfl,
      rfl, rfl⟩

/-! ## The release of the reset -/

/-- `tryRelease_released`, as the outcome of a command whose meaning it is. -/
theorem next_tryRelease (m : State) :
    (ReadyForRelease m → ∃ t, (.next (tryRelease m) : Host.Outcome State Fault Refusal) = .next t ∧ Released m t) ∧
      (¬ ReadyForRelease m → (.next (tryRelease m) : Host.Outcome State Fault Refusal) = .next m) :=
  ⟨fun h => ⟨_, rfl, (tryRelease_released m).1 h⟩, fun h => congrArg _ ((tryRelease_released m).2 h)⟩

theorem resetReleaseRun_asserted {s : State} (straps : BitVec 12) (h : s.pwr.resetN = true) :
    resetReleaseRun s straps = tryRelease { s with pwr := { s.pwr with resetN := false, strapPins := straps } } :=
  if_pos h

theorem resetReleaseRun_released {s : State} (straps : BitVec 12) (h : s.pwr.resetN = false) :
    resetReleaseRun s straps = s :=
  if_neg (Bool.eq_false_iff.1 h)

/-- Settles O9: each of the three commands sets its pins and then tries the release. -/
theorem resetReleasesWhenEveryConditionHolds : Obligations.ResetReleasesWhenEveryConditionHolds := by
  refine fun s => ⟨next_tryRelease _, fun rails => next_tryRelease _, fun straps h => ?_, fun straps h => ?_⟩
  · rw [show exec (.resetRelease straps) s = .next (resetReleaseRun s straps) from rfl, resetReleaseRun_asserted straps h]
    exact next_tryRelease _
  · exact congrArg Host.Outcome.next (resetReleaseRun_released straps h)

end Sys2Proof.Machine

/-!
Writes of the time counters of the PWR page (R40): such a write stores the word that the register holds, which rewrites
a register file that is not in its canonical form.
-/

namespace Sys2Proof.Machine

/-- Out of reset, with a register file that lists PWR.OPTIME_LO at its reset value. -/
def optimeLoListed : State := { regs := [(Reg.PWR_OPTIME_LO, 0#32)], pwr := { inReset := false } }

theorem optimeLoListed_reaches : Reaches optimeLoListed .firmware 0x02 0 0x090 :=
  ⟨rfl, rfl, rfl, rfl, rfl⟩

/-- The word stored is the reset value, so the listed entry goes. -/
theorem write_optimeLoListed :
    exec (.registerWrite .firmware 0x0E000200090#44 0#32) optimeLoListed = .next { optimeLoListed with regs := [] } := by
  have h : accessWrite optimeLoListed (classOf .firmware) 0#16 0x0E000200090 0#32 =
      (stOK, 0#32, { optimeLoListed with regs := [] }) := by decide +kernel
  exact congrArg (fun p => Host.Outcome.next p.2.2) h

/-- Refutes O59: in `optimeLoListed`, whose register file is not canonical, a write of PWR.OPTIME_LO that reaches its
page drops the listed entry, so it does not answer the state itself. -/
theorem not_noWriteChangesTheTimeCounters : ¬ Obligations.NoWriteChangesTheTimeCounters := by
  rintro ⟨-, ignored⟩
  have h := ignored optimeLoListed .firmware 0x0E000200090#44 0#32 0x090 (by simp) rfl optimeLoListed_reaches
  rw [write_optimeLoListed] at h
  have hregs : ([] : Tbl Word) = [(Reg.PWR_OPTIME_LO, 0#32)] := congrArg State.regs (Host.Outcome.next.inj h)
  cases hregs

end Sys2Proof.Machine

/-!
Bit fields of words (R7): what a replaced field and the fields above it read as, and the bits of a one-bit mask.
-/

namespace Sys2Proof.Machine

/-- The number of a word with a field replaced: the word's parts above and below, and the new field between. -/
theorem putFld_toNat (w : Word) {lo n : Nat} (v : Nat) (h : lo + n ≤ 32) :
    (putFld w lo n v).toNat = 2 ^ lo * (2 ^ n * (w.toNat / 2 ^ (lo + n)) + v % 2 ^ n) + w.toNat % 2 ^ lo := by
  have hv : v % 2 ^ n < 2 ^ n := Nat.mod_lt _ (Nat.two_pow_pos n)
  have hl : w.toNat % 2 ^ lo < 2 ^ lo := Nat.mod_lt _ (Nat.two_pow_pos lo)
  have split : w.toNat = 2 ^ lo * (2 ^ n * (w.toNat / 2 ^ (lo + n)) + w.toNat / 2 ^ lo % 2 ^ n) + w.toNat % 2 ^ lo := by
    rw [Nat.pow_add, ← Nat.div_div_eq_div_mul, Nat.div_add_mod, Nat.div_add_mod]
  have bound : 2 ^ n * (w.toNat / 2 ^ (lo + n)) + v % 2 ^ n < 2 ^ (32 - lo) := by
    have top : w.toNat / 2 ^ (lo + n) < 2 ^ (32 - lo - n) := by
      refine Nat.div_lt_of_lt_mul ?_
      rw [← Nat.pow_add, show lo + n + (32 - lo - n) = 32 by omega]
      exact w.isLt
    have e : (2 : Nat) ^ (32 - lo) = 2 ^ n * 2 ^ (32 - lo - n) := by
      rw [← Nat.pow_add, show n + (32 - lo - n) = 32 - lo by omega]
    have := Nat.mul_le_mul_left (2 ^ n) (Nat.succ_le_of_lt top)
    rw [Nat.mul_succ] at this
    omega
  have lt : 2 ^ lo * (2 ^ n * (w.toNat / 2 ^ (lo + n)) + v % 2 ^ n) + w.toNat % 2 ^ lo < 2 ^ 32 := by
    have := Nat.mul_le_mul_left (2 ^ lo) (Nat.succ_le_of_lt bound)
    rw [Nat.mul_succ, ← Nat.pow_add, show lo + (32 - lo) = 32 by omega] at this
    omega
  have e : w.toNat - ((w.toNat >>> lo) % 2 ^ n) <<< lo + (v % 2 ^ n) <<< lo =
      2 ^ lo * (2 ^ n * (w.toNat / 2 ^ (lo + n)) + v % 2 ^ n) + w.toNat % 2 ^ lo := by
    rw [Nat.shiftLeft_eq, Nat.shiftLeft_eq, Nat.shiftRight_eq_div_pow, Nat.mul_comm _ (2 ^ lo), Nat.mul_comm _ (2 ^ lo)]
    rw [Nat.mul_add] at split ⊢
    omega
  rw [putFld, BitVec.toNat_ofNat, e, Nat.mod_eq_of_lt lt]

/-- A replaced field reads as its new value. -/
theorem fld_putFld_same (w : Word) {lo n : Nat} (v : Nat) (h : lo + n ≤ 32) :
    fld (putFld w lo n v) lo n = v % 2 ^ n := by
  rw [fld, putFld_toNat w v h, Nat.shiftRight_eq_div_pow, Nat.mul_add_div (Nat.two_pow_pos lo),
    Nat.div_eq_of_lt (Nat.mod_lt _ (Nat.two_pow_pos lo)), Nat.add_zero, Nat.mul_add_mod, Nat.mod_mod]

/-- A field above the replaced one reads as before. -/
theorem fld_putFld_above (w : Word) {lo n lo' : Nat} (n' v : Nat) (h : lo + n ≤ 32) (h' : lo + n ≤ lo') :
    fld (putFld w lo n v) lo' n' = fld w lo' n' := by
  have e : (putFld w lo n v).toNat / 2 ^ (lo + n) = w.toNat / 2 ^ (lo + n) := by
    rw [putFld_toNat w v h, Nat.pow_add, ← Nat.div_div_eq_div_mul, Nat.mul_add_div (Nat.two_pow_pos lo),
      Nat.div_eq_of_lt (Nat.mod_lt _ (Nat.two_pow_pos lo)), Nat.add_zero, Nat.mul_add_div (Nat.two_pow_pos n),
      Nat.div_eq_of_lt (Nat.mod_lt _ (Nat.two_pow_pos n)), Nat.add_zero]
  obtain ⟨k, rfl⟩ := Nat.exists_eq_add_of_le h'
  rw [fld, fld, Nat.shiftRight_eq_div_pow, Nat.shiftRight_eq_div_pow, Nat.pow_add, ← Nat.div_div_eq_div_mul, e,
    Nat.div_div_eq_div_mul]

/-- The mask of one bit. -/
theorem getLsbD_toWord_two_pow {d e : Nat} (hd : d < 32) : (toWord (2 ^ d)).getLsbD e = decide (d = e) := by
  rw [toWord, BitVec.getLsbD_ofNat, Nat.testBit_two_pow]
  by_cases h : d = e <;> simp [h] ; omega

end Sys2Proof.Machine

/-!
Clocks, the operating time, the power cap and the thermal limits (R35, R36, R39, R54, R56).
-/

namespace Sys2Proof.Machine

/-! ## The reference clocks -/

theorem ref25Loss_present {s : State} (h : s.pwr.aonInt = false) :
    ref25Loss s = raiseIrq (modPwr s fun p => { p with ref25 := false, aonInt := true }) 0x03 0 0 :=
  if_neg (Bool.eq_false_iff.1 h)

theorem ref25Loss_lost {s : State} (h : s.pwr.aonInt = true) : ref25Loss s = s := if_pos h

/-- A link that is neither up nor training loses nothing. -/
theorem linkLossRun_idle {s : State} {n : Nat}
    (h : (linkOf s n).st ≠ .up ∧ (linkOf s n).st ≠ .training ∧ (linkOf s n).st ≠ .retraining) :
    linkLossRun s n = s := by
  obtain ⟨h1, h2, h3⟩ := h
  unfold linkLossRun
  split
  · exact absurd ‹_› h1
  · exact absurd ‹_› h3
  · exact absurd ‹_› h2
  · rfl

/-- A fold whose steps change nothing at its start changes nothing. -/
theorem foldl_fixed {α β : Type} {f : α → β → α} {a : α} (h : ∀ x, f a x = a) (l : List β) : l.foldl f a = a := by
  induction l with
  | nil => rfl
  | cons x l ih => rw [List.foldl_cons, h, ih]

/-- The loss of SDSREF156 as it is reported, before lanes go down. -/
def ref156Reported (s : State) : State :=
  raiseIrq (raiseIrq (orReg (modPwr s fun p => { p with ref156 := false }) Reg.CLK_PLL_LOL 0xFF#32) 0x03 0 1) 0x03 0 2

theorem ref156Reported_reports (s : State) :
    Reports [Reg.CLK_PLL_LOL, Reg.CLK_IRQ_STAT] { s with pwr := { s.pwr with ref156 := false } } (ref156Reported s) :=
  raiseIrq_reports _ _ _ (by decide) <| raiseIrq_reports _ _ _ (by decide) <|
    (Reports.refl _ _).orReg _ _ (Or.inl (by simp))

theorem ref156Reported_pllLol (s : State) :
    getReg (ref156Reported s) Reg.CLK_PLL_LOL = getReg s Reg.CLK_PLL_LOL ||| 0xFF#32 := by
  have r : Reports [Reg.CLK_IRQ_STAT] (orReg (modPwr s fun p => { p with ref156 := false }) Reg.CLK_PLL_LOL 0xFF#32)
      (ref156Reported s) :=
    raiseIrq_reports _ _ _ (by decide) (raiseIrq_reports _ _ _ (by decide) (Reports.refl _ _))
  rw [r.regs _ (by decide) (by decide)]
  exact getReg_setReg_same _ _ _

theorem ref156Reported_irqStat (s : State) :
    getReg (ref156Reported s) Reg.CLK_IRQ_STAT = getReg s Reg.CLK_IRQ_STAT ||| 6#32 := by
  have first : getReg (orReg (modPwr s fun p => { p with ref156 := false }) Reg.CLK_PLL_LOL 0xFF#32) Reg.CLK_IRQ_STAT =
      getReg s Reg.CLK_IRQ_STAT := getReg_setReg_ne _ _ (by decide)
  refine (raiseIrqArgs_stat _ 0x03 0 2 0 [] (by decide)).trans ?_
  refine (congrArg (· ||| toWord (2 ^ 2)) (raiseIrqArgs_stat _ 0x03 0 1 0 [] (by decide))).trans ?_
  refine (congrArg (fun w => w ||| toWord (2 ^ 1) ||| toWord (2 ^ 2)) first).trans ?_
  exact BitVec.or_assoc ..

/-- The host port goes down without a lane. -/
theorem setHostLanes_reports {ks : List Nat} {s t : State} (l : BitVec 4) (hk : Reg.HST_PORT_STAT ∈ ks)
    (a : Reports ks s t) : Reports ks s (setHostLanes t l) := by
  have b (w : Word) : Reports (Reg.HST_IRQ_STAT :: ks) s (setReg t Reg.HST_PORT_STAT w) :=
    (a.mono fun _ h => List.mem_cons_of_mem _ h).setReg _ _ (Or.inl (List.mem_cons_of_mem _ hk))
  have hst : ∀ {u : State}, Reports (Reg.HST_IRQ_STAT :: ks) s u → Reports ks s u := fun c =>
    ⟨c.rest, c.evr, c.hst, fun k h1 h2 => c.regs k (fun h => (List.mem_cons.1 h).elim
      (fun e => h2 (e ▸ by simp [reportKeys])) h1) h2⟩
  unfold setHostLanes
  dsimp only
  refine hst ?_
  split
  · exact b _
  · exact raiseIrq_reports _ _ _ List.mem_cons_self (b _)

theorem setHostLanes_none (s : State) : getReg (setHostLanes s 0#4) Reg.HST_PORT_STAT = 0#32 := by
  have w : getReg (setRegN s Reg.HST_PORT_STAT 0) Reg.HST_PORT_STAT = 0#32 := getReg_setReg_same _ _ _
  unfold setHostLanes
  rw [show hostWidth 0#4 = 0 by decide]
  dsimp only
  split
  · exact w
  · exact ((raiseIrq_reports (ks := [Reg.HST_IRQ_STAT]) _ _ _ (by decide) (Reports.refl _ _)).regs _ (by decide)
      (by decide)).trans w

/-- With no link, port or plane lane up the loss is reported, the host port goes down, and no more (R36). -/
theorem ref156Loss_quiet {s : State} (h : s.pwr.ref156 = true) (hp : planeUp s = false)
    (hl : ∀ n, (linkOf s n).st ≠ .up ∧ (linkOf s n).st ≠ .training ∧ (linkOf s n).st ≠ .retraining)
    (hf : ∀ p, (portOf s p).st ≠ .up ∧ (portOf s p).st ≠ .training) :
    ref156Loss s = setHostLanes (ref156Reported s) 0#4 := by
  have rest := (ref156Reported_reports s).rest
  have links : (List.range 64).foldl linkLossRun (ref156Reported s) = ref156Reported s :=
    foldl_fixed (fun n => linkLossRun_idle (by rw [rest]; exact hl n)) _
  have ports : ∀ p, (portOf (ref156Reported s) p).st ≠ .up ∧ (portOf (ref156Reported s) p).st ≠ .training := by
    intro p; rw [rest]; exact hf p
  have plane : planeUp (setHostLanes (ref156Reported s) 0#4) = false := by
    rw [(setHostLanes_reports (ks := [Reg.HST_PORT_STAT]) 0#4 (by simp) (Reports.refl _ _)).rest, rest]
    exact hp
  unfold ref156Loss
  rw [h, Bool.not_true, if_neg Bool.false_ne_true]
  extract_lets s1 s2 s3 s4 s5
  have e3 : s3 = ref156Reported s := links
  have e4 : s4 = ref156Reported s := by
    refine (congrArg (fun t => (List.range 32).foldl _ t) e3).trans (foldl_fixed (fun p => if_neg ?_) _)
    simp [ports p]
  have e5 : s5 = setHostLanes (ref156Reported s) 0#4 := congrArg (setHostLanes · 0#4) e4
  rw [e5, plane, if_neg Bool.false_ne_true]

/-- Training a port touches the ports alone. -/
theorem portTrain_kft (s : State) (p : Nat) : portTrain s p = { s with kft := (portTrain s p).kft } := by
  unfold portTrain
  dsimp only
  split <;> rfl

/-- So does the training of every port that is down. -/
def trainDownPorts (s : State) (l : List Nat) : State :=
  l.foldl (fun s p => if (portOf s p).st == .down then portTrain s p else s) s

theorem trainDownPorts_kft (s : State) (l : List Nat) :
    trainDownPorts s l = { s with kft := (trainDownPorts s l).kft } := by
  unfold trainDownPorts
  induction l generalizing s with
  | nil => rfl
  | cons p l ih =>
    rw [List.foldl_cons, ih]
    split
    · rw [portTrain_kft]
    · rfl

/-- SDSREF156 present, with the plane link in training where its I/O die is ON. -/
def ref156Present (s : State) : State :=
  { s with
    pwr := { s.pwr with ref156 := true }
    ste := { s.ste with training := s.ste.training || isOn s (dieIOD + 7) } }

/-- The return of SDSREF156 trains the plane link and the ports that are down (R36). -/
theorem ref156Return_eq {s : State} (h : s.pwr.ref156 = false) :
    ref156Return s = trainDownPorts (ref156Present s) (List.range 32) := by
  unfold ref156Return
  rw [h, if_neg Bool.false_ne_true]
  refine congrArg (trainDownPorts · (List.range 32)) ?_
  unfold ref156Present
  split
  · rename_i c
    rw [show isOn s (dieIOD + 7) = true from c, Bool.or_true]; rfl
  · rename_i c
    rw [show isOn s (dieIOD + 7) = false from Bool.eq_false_iff.2 c, Bool.or_false]; rfl

/-! ## The operating time -/

theorem optimeTickRun_eq (s : State) :
    optimeTickRun s = { s with pwr := { s.pwr with
      optime := if s.pwr.rails.getLsbD 0 then s.pwr.optime + 1#40 else s.pwr.optime } } := by
  unfold optimeTickRun
  split <;> simp_all [modPwr]

/-- The PWR page stands in the AON domain, so its registers read in every power state. -/
theorem readReg_optimeHi (s : State) : readReg s 0x02 0 0x094 = toWord (s.pwr.optime.toNat / 2 ^ 32) := rfl

/-! ## The power cap -/

theorem powerMeasureRun_within {s : State} {w : BitVec 12}
    (h : s.pwr.capped = true ∨ w.toNat ≤ (getReg s Reg.PWR_PCAP).toNat) :
    powerMeasureRun s w = setReg s Reg.PWR_PWR_MEAS (toWord w.toNat) := by
  have cap : getReg (setRegN s Reg.PWR_PWR_MEAS w.toNat) Reg.PWR_PCAP = getReg s Reg.PWR_PCAP :=
    getReg_setReg_ne _ _ (by decide)
  refine if_neg ?_
  rw [getRegN, cap, setRegN_pwr]
  rcases h with h | h
  · simp [h]
  · simp [Nat.not_lt.2 h]

theorem powerMeasureRun_over {s : State} {w : BitVec 12} (hc : s.pwr.capped = false)
    (h : (getReg s Reg.PWR_PCAP).toNat < w.toNat) :
    powerMeasureRun s w =
      raiseIrq (modPwr (setRegN s Reg.PWR_PWR_MEAS w.toNat) fun p => { p with capped := true }) 0x02 0 3 := by
  have cap : getReg (setRegN s Reg.PWR_PWR_MEAS w.toNat) Reg.PWR_PCAP = getReg s Reg.PWR_PCAP :=
    getReg_setReg_ne _ _ (by decide)
  refine if_pos ?_
  rw [getRegN, cap, setRegN_pwr]
  simp [hc, h]

theorem capReleaseRun_eq (s : State) :
    capReleaseRun s = { s with pwr := { s.pwr with capped := s.pwr.capped &&
      !(decide (100 * (getReg s Reg.PWR_PWR_MEAS).toNat < 95 * (getReg s Reg.PWR_PCAP).toNat)) } } := by
  unfold capReleaseRun getRegN
  split
  · rename_i c
    rw [decide_eq_true c, Bool.not_true, Bool.and_false]; rfl
  · rename_i c
    rw [decide_eq_false c, Bool.not_false, Bool.and_true]

/-! ## Temperatures -/

/-- The temperatures of the Flow dies stand in one register. -/
theorem tempReg_of_lt {d : Nat} (h : d < 4) : Reg.PWR_TEMP0 + 4 * (d / 4) = Reg.PWR_TEMP0 := by
  rw [Nat.div_eq_of_lt h]

theorem getReg_setTemp_ne (s : State) {d k : Nat} (t : Nat) (h : d < 4) (hk : k ≠ Reg.PWR_TEMP0) :
    getReg (setTemp s d t) k = getReg s k := by
  rw [setTemp, tempReg_of_lt h]
  exact getReg_setReg_ne _ _ hk.symm

theorem setTemp_reports {s : State} {d : Nat} (t : Nat) (h : d < 4) : Reports [Reg.PWR_TEMP0] s (setTemp s d t) := by
  rw [setTemp, tempReg_of_lt h]
  exact (Reports.refl _ _).setReg _ _ (Or.inl (by simp))

theorem tempOf_setTemp (s : State) (d : Nat) (t : Byte) : tempOf (setTemp s d t.toNat) d = t.toNat := by
  rw [tempOf, setTemp, getReg_setRegFld, if_pos rfl, fld_putFld_same _ _ (by omega)]
  exact Nat.mod_eq_of_lt t.isLt

/-- The reading and the THROTTLE bit of a Flow die (R56). -/
def throttleMarked (s : State) (d t : Nat) : State :=
  if fld (getReg s Reg.PWR_THERM_CFG) 0 8 ≤ t then orReg (setTemp s d t) Reg.PWR_THROTTLE (toWord (2 ^ d))
  else andNotReg (setTemp s d t) Reg.PWR_THROTTLE (toWord (2 ^ d))

theorem throttleMarked_reports {s : State} {d : Nat} (t : Nat) (h : d < 4) :
    Reports [Reg.PWR_TEMP0, Reg.PWR_THROTTLE] s (throttleMarked s d t) := by
  have r : Reports [Reg.PWR_TEMP0, Reg.PWR_THROTTLE] s (setTemp s d t) := (setTemp_reports t h).mono (by simp)
  unfold throttleMarked
  split
  · exact r.orReg _ _ (Or.inl (by simp))
  · exact r.setReg _ _ (Or.inl (by simp))

theorem throttleMarked_bit (s : State) {d e : Nat} (t : Nat) (h : d < 4) :
    (getReg (throttleMarked s d t) Reg.PWR_THROTTLE).getLsbD e =
      if d = e then decide (fld (getReg s Reg.PWR_THERM_CFG) 0 8 ≤ t)
      else (getReg s Reg.PWR_THROTTLE).getLsbD e := by
  have was : getReg (setTemp s d t) Reg.PWR_THROTTLE = getReg s Reg.PWR_THROTTLE := getReg_setTemp_ne s t h (by decide)
  have bit := getLsbD_toWord_two_pow (d := d) (e := e) (by omega)
  unfold throttleMarked
  split
  · rename_i c
    rw [getReg_orReg, if_pos rfl, was, BitVec.getLsbD_or, bit]
    by_cases x : d = e <;> simp [x, c]
  · rename_i c
    rw [getReg_andNotReg, if_pos rfl, was, BitVec.getLsbD_and, BitVec.getLsbD_not, bit]
    by_cases x : d = e
    · simp [x, c]
    · by_cases y : e < 32
      · simp [x, y]
      · simp [x, BitVec.getLsbD_of_ge _ _ (Nat.le_of_not_lt y)]

/-- A reading marks the die, and a die newly throttled is reported. -/
theorem throttleRun_eq {s : State} {d : Nat} (t : Nat) (h : d < 4) :
    throttleRun s d t = throttleMarked s d t ∨
      throttleRun s d t = raiseIrqArgs (throttleMarked s d t) 0x02 0 1 0 [d] := by
  have cfg : getReg (setTemp s d t) Reg.PWR_THERM_CFG = getReg s Reg.PWR_THERM_CFG :=
    getReg_setTemp_ne s t h (by decide)
  unfold throttleRun throttleMarked
  dsimp only
  rw [cfg]
  split
  · split
    · exact Or.inl rfl
    · exact Or.inr rfl
  · exact Or.inl rfl

theorem throttleRun_reports {s : State} {d : Nat} (t : Nat) (h : d < 4) :
    Reports [Reg.PWR_IRQ_STAT] (throttleMarked s d t) (throttleRun s d t) := by
  rcases throttleRun_eq t h with e | e <;> rw [e]
  · exact Reports.refl _ _
  · exact raiseIrqArgs_reports _ _ _ _ _ (by decide) (Reports.refl _ _)

theorem tempOf_throttleRun {s : State} {d : Nat} (t : Byte) (h : d < 4) :
    tempOf (throttleRun s d t.toNat) d = t.toNat := by
  have e : getReg (throttleRun s d t.toNat) Reg.PWR_TEMP0 = getReg (setTemp s d t.toNat) Reg.PWR_TEMP0 := by
    rw [(throttleRun_reports _ h).regs _ (by decide) (by decide)]
    unfold throttleMarked
    split
    · exact getReg_setReg_ne _ _ (by decide)
    · exact getReg_setReg_ne _ _ (by decide)
  rw [← tempReg_of_lt h] at e
  exact (congrArg (fld · (8 * (d % 4)) 8) e).trans (tempOf_setTemp s d t)

theorem dieOffRun_below {s : State} {d t : Nat} (hd : d < 4) (h : t < fld (getReg s Reg.PWR_THERM_CFG) 8 8) :
    dieOffRun s d t = setTemp s d t := by
  refine if_neg ?_
  rw [getReg_setTemp_ne s t hd (by decide)]
  simp [Nat.not_le.2 h]

/-- At DIE_OFF a Flow die is FAILED, and the module stays out of reset. -/
theorem dieOffRun_fails {s : State} {d t : Nat} (hd : d < 4) (hr : s.pwr.inReset = false)
    (h : fld (getReg s Reg.PWR_THERM_CFG) 8 8 ≤ t) :
    unitSt (dieOffRun s d t) d = .failed ∧ (dieOffRun s d t).pwr.inReset = false := by
  refine ⟨?_, (dieOffRun_keep d t (Keep.refl s)).pwr.inReset hr⟩
  unfold dieOffRun
  dsimp only
  rw [getReg_setTemp_ne s t hd (by decide)]
  by_cases hf : unitSt (setTemp s d t) d = .failed
  · rw [if_neg (by simp [hf])]
    exact hf
  · have hr' : (setTemp s d t).pwr.inReset = false := hr
    rw [if_pos (by simp [h, hr', hf])]
    exact failDie_st _ _

/-- Settles O12: each command by its equations; a report changes what `Reports` says and no more. -/
theorem clocksPowerAndTemperature : Obligations.ClocksPowerAndTemperature := by
  refine ⟨fun s h => ?_, fun s h => ?_, fun s h => ?_, fun s h hp hl hf => ?_, fun s h => ?_, fun s => ?_,
    fun s who hr hm => ?_, fun s w h => ?_, fun s w hc h => ?_, fun s => ?_, fun s d temp => ?_, fun s d temp hr h => ?_,
    fun s d temp h => ?_⟩
  · exact ⟨_, congrArg Host.Outcome.next (ref25Loss_present h), raiseIrq_reports _ _ _ (by decide) (Reports.refl _ _),
      raiseIrqArgs_stat _ 0x03 0 0 0 [] (by decide)⟩
  · exact congrArg Host.Outcome.next (ref25Loss_lost h)
  · have k := ref156Loss_of h (Keep.refl _)
    exact ⟨_, rfl, k.pwr.ref156 rfl, k.pwr.inReset⟩
  · refine ⟨_, congrArg Host.Outcome.next (ref156Loss_quiet h hp hl hf),
      setHostLanes_reports _ (by simp) ((ref156Reported_reports s).mono (by simp)), ?_, ?_, setHostLanes_none _⟩
    all_goals rw [(setHostLanes_reports (ks := [Reg.HST_PORT_STAT]) 0#4 (by simp) (Reports.refl _ _)).regs _ (by decide)
      (by decide)]
    · exact ref156Reported_pllLol s
    · exact ref156Reported_irqStat s
  · have e := (ref156Return_eq h).trans (trainDownPorts_kft _ _)
    refine ⟨_, rfl, congrArg State.pwr e, (congrArg State.mem e :), (congrArg State.regs e :), fun hu => ?_⟩
    rw [e]
    simp [ref156Present, isOn, hu]
  · exact congrArg Host.Outcome.next (optimeTickRun_eq s)
  · refine ⟨_, congrArg Host.Outcome.next (readBy_eq hr (by decide) (by decide) (by decide) (by decide) (by decide) hm),
      rfl, ?_⟩
    exact (tget_tset_same _ _ _).trans (congrArg some (readReg_optimeHi s))
  · exact congrArg Host.Outcome.next (powerMeasureRun_within h)
  · refine ⟨_, congrArg Host.Outcome.next (powerMeasureRun_over hc h), ?_, ?_, ?_⟩
    · exact raiseIrq_reports _ _ _ (by decide) ((Reports.refl _ _).setReg _ _ (Or.inl (by simp)))
    · refine ((raiseIrq_reports (ks := [Reg.PWR_IRQ_STAT]) _ _ _ (by decide) (Reports.refl _ _)).regs _ (by decide)
        (by decide)).trans ?_
      exact getReg_setReg_same _ _ _
    · refine (raiseIrqArgs_stat _ 0x02 0 3 0 [] (by decide)).trans ?_
      refine congrArg (· ||| 8#32) ?_
      exact getReg_setReg_ne _ _ (by decide)
  · exact congrArg Host.Outcome.next (capReleaseRun_eq s)
  · have r := throttleRun_reports (s := s) temp.toNat d.isLt
    have bits := r.regs Reg.PWR_THROTTLE (by decide) (by decide)
    refine ⟨_, rfl, ?_, fun e he => ?_, ?_, tempOf_throttleRun temp d.isLt⟩
    · rw [bits, throttleMarked_bit s _ d.isLt, if_pos rfl]
    · rw [bits, throttleMarked_bit s _ d.isLt, if_neg fun x => he (Fin.ext x.symm)]
    · exact ((throttleMarked_reports _ d.isLt).mono (by simp)).trans (r.mono (by simp))
  · exact ⟨_, rfl, dieOffRun_fails d.isLt hr h⟩
  · exact congrArg Host.Outcome.next (dieOffRun_below d.isLt h)

end Sys2Proof.Machine

/-!
How the units take their step phases (R43, R46 to R49, R52): one equation for each operation of the power controller, and
what each leaves unchanged.
-/

namespace Sys2Proof.Machine

/-! ## Units, wake flags and phases after an update -/

theorem unitSt_setUnit_ne (s : State) {u v : Nat} (p : PState) (h : v ≠ u) : unitSt (setUnit s u p) v = unitSt s v := by
  rw [unitSt_setUnit, if_neg h.symm]

theorem wakeOf_modWake_same (s : State) (d : Nat) (f : DieWake → DieWake) : wakeOf (modWake s d f) d = f (wakeOf s d) :=
  tget_tset_same ..

theorem unitSt_startUngate (s : State) (u v : Nat) :
    unitSt (startUngate s u) v = if u = v then .waking else unitSt s v := unitSt_setUnit s u v _

theorem unitSt_startWake (s : State) (u v : Nat) :
    unitSt (startWake s u) v = if u = v then .powering else unitSt s v := unitSt_setUnit s u v _

theorem unitSt_enterIdle (s : State) (d v : Nat) :
    unitSt (enterIdle s d) v = if d = v then .idle else unitSt s v := unitSt_setUnit s d v _

/-! ## The power-up order -/

theorem upOrder_eq : upOrder =
    [31, 4, 5, 6, 7, 8, 9, 10, 11, 12, 13, 14, 15, 16, 17, 18, 19, 20, 23, 24, 25, 26, 27, 28, 29, 30, 21, 22] := by
  decide

theorem upReady_of {s : State} {n u : Nat} (hn : s.pwr.upStep = n) (hu : upOrder[n]? = some u)
    (h : ∀ m v, n = m + 1 → upOrder[m]? = some v →
      unitSt s v ≠ .off ∧ unitSt s v ≠ .powering ∧ unitSt s v ≠ .zeroing ∧ unitSt s v ≠ .waking) : upReady s = true := by
  unfold upReady
  rw [hn]
  cases n with
  | zero => rfl
  | succ m =>
    have lt : m < upOrder.length := by
      obtain ⟨lt, -⟩ := List.getElem?_eq_some_iff.1 hu
      omega
    have hv := List.getElem?_eq_getElem lt
    obtain ⟨h1, h2, h3, h4⟩ := h m _ rfl hv
    dsimp only
    rw [hv]
    simp [h1, h2, h3, h4]

/-- The power state in which a unit of the order starts (R43, R52). -/
def startsAs (s : State) (u : Nat) : PState :=
  if dieIOD ≤ u ∧ u < dieHUB then .on
  else if dieSTK ≤ u ∧ u < dieCLK then (if unitSt s ((u - dieSTK) / 2) = .on then .on else .retain)
  else if u = dieDMC then (if unitSt s dieHUB = .on ∨ unitSt s (dieHUB + 1) = .on then .on else .retain)
  else if u = dieDMC + 1 then (if unitSt s (dieHUB + 2) = .on ∨ unitSt s (dieHUB + 3) = .on then .on else .retain)
  else .powering

/-- A unit that starts: its state, its gate phase if it has one, and the plane link's training with `IOD7`. -/
def started (s : State) (u : Nat) : State :=
  let t := setUnit s u (startsAs s u)
  { t with
    pwr := { t.pwr with
      wakeQ := s.pwr.wakeQ ++ (if startsAs s u = .powering then [{ unit := u, kind := .gateUp }] else []) }
    ste := { s.ste with training := s.ste.training || decide (u = dieIOD + 7) } }

/-- A unit that starts without a step phase. -/
theorem started_direct {s : State} {u : Nat} {p : PState} (h : startsAs s u = p) (hp : p ≠ .powering)
    (hu : u ≠ dieIOD + 7) : started s u = setUnit s u p := by
  subst h
  simp [started, setUnit, hp, hu]

theorem any_dmcHubs (s : State) (m : Nat) :
    ((dmcHubs m).any fun h => isOn s (dieHUB + h)) =
      decide (unitSt s (dieHUB + 2 * m) = .on ∨ unitSt s (dieHUB + 2 * m + 1) = .on) := by
  simp [dmcHubs, isOn, Bool.decide_or, Nat.add_assoc, Bool.beq_eq_decide_eq]

theorem startUnit_eq {s : State} {u : Nat} (h : unitSt s u = .off) : startUnit s u = started s u := by
  unfold startUnit
  rw [if_neg (by simp [h])]
  by_cases hi : dieIOD ≤ u ∧ u < dieHUB
  · have hs : startsAs s u = .on := if_pos hi
    rw [if_pos (by simp [hi])]
    dsimp only
    by_cases h7 : u = dieIOD + 7
    · rw [started, hs]
      simp [h7, modSte, setUnit]
    · rw [if_neg (by simpa using h7), started_direct hs (by decide) h7]
  rw [if_neg (by simpa using hi)]
  have h7 : u ≠ dieIOD + 7 := by simp only [dieIOD, dieHUB] at hi ⊢; omega
  by_cases hk : dieSTK ≤ u ∧ u < dieCLK
  · have hs : startsAs s u = if isOn s ((u - dieSTK) / 2) then .on else .retain := by
      simp [startsAs, hi, hk, isOn]
    rw [if_pos (by simp [hk]), started_direct hs (by split <;> decide) h7]
  rw [if_neg (by simpa using hk)]
  by_cases h0 : u = dieDMC
  · have hs : startsAs s u = if (dmcHubs 0).any fun h => isOn s (dieHUB + h) then .on else .retain := by
      rw [any_dmcHubs, startsAs, if_neg hi, if_neg hk, if_pos h0]
      simp
    rw [if_pos (by simp [h0]), show u - dieDMC = 0 by omega, started_direct hs (by split <;> decide) h7]
  by_cases h1 : u = dieDMC + 1
  · have hs : startsAs s u = if (dmcHubs 1).any fun h => isOn s (dieHUB + h) then .on else .retain := by
      rw [any_dmcHubs, startsAs, if_neg hi, if_neg hk, if_neg h0, if_pos h1]
      simp
    rw [if_pos (by simp [h1]), show u - dieDMC = 1 by omega, started_direct hs (by split <;> decide) h7]
  have hs : startsAs s u = .powering := by simp [startsAs, hi, hk, h0, h1]
  rw [if_neg (by simp [h0, h1])]
  simp [started, hs, h7, startWake, queuePhase, setUnit]

/-- The unit at the controller's place in the order starts. -/
theorem powerupRun_eq {s : State} {u : Nat} (hr : s.pwr.inReset = false) (ready : upReady s = true)
    (hu : upOrder[s.pwr.upStep]? = some u) (off : unitSt s u = .off) :
    powerupRun s = modPwr (started s u) fun p => { p with upStep := p.upStep + 1 } := by
  unfold powerupRun
  rw [if_neg (by simp [hr, ready]), hu]
  exact congrArg (modPwr · _) (startUnit_eq off)

/-! ## Step phases -/

theorem wakePhaseRun_eq (s : State) : wakePhaseRun s = (match s.pwr.phase, s.pwr.wakeQ with
    | none, p :: rest => { s with pwr := { s.pwr with phase := some p, wakeQ := rest } }
    | _, _ => s) := by
  unfold wakePhaseRun
  cases s.pwr.phase <;> cases s.pwr.wakeQ <;> rfl

/-- Flow dies and STE go on to be zeroed, other units to their clocks (R47, R48). -/
theorem powerGateRun_eq {s : State} {u : Nat} (hp : s.pwr.phase = some { unit := u, kind := .gateUp })
    (hu : unitSt s u = .powering) :
    powerGateRun s =
      if u < 4 ∨ u = dieSTE then setUnit (endPhase s) u .zeroing else startUngate (endPhase s) u := by
  unfold powerGateRun
  rw [hp]
  dsimp only
  rw [if_neg (by simp [hu])]
  simp

/-! ## Zeroing -/

/-- The staging range of a die. -/
theorem readByte_clearStaging_in {s : State} {d a : Nat} (h1 : 0xC000000000 + d * 0x10000000 ≤ a)
    (h2 : a < 0xC000000000 + (d + 1) * 0x10000000) : readByte (clearStaging s d) a = 0#8 := by
  refine tget_filter_out _ (fun k => !(decide (0xC000000000 + d * 0x10000000 ≤ k) &&
    decide (k < 0xC000000000 + d * 0x10000000 + 0x10000000))) a ?_
  simp; omega

theorem readByte_clearStaging_out {s : State} {d a : Nat}
    (h : a < 0xC000000000 + d * 0x10000000 ∨ 0xC000000000 + (d + 1) * 0x10000000 ≤ a) :
    readByte (clearStaging s d) a = readByte s a := by
  refine tget_filter _ (fun k => !(decide (0xC000000000 + d * 0x10000000 ≤ k) &&
    decide (k < 0xC000000000 + d * 0x10000000 + 0x10000000))) a ?_
  simp; omega

/-- The stacks change their power states alone. -/
theorem stacksOn_units (s : State) (d : Nat) :
    stacksOn s d = { s with pwr := { s.pwr with units := (stacksOn s d).pwr.units } } := by
  unfold stacksOn
  dsimp only
  split <;> split <;> rfl

theorem stacksRetain_units (s : State) (d : Nat) :
    stacksRetain s d = { s with pwr := { s.pwr with units := (stacksRetain s d).pwr.units } } := by
  unfold stacksRetain
  dsimp only
  split <;> split <;> rfl

theorem zeroingRun_flow {s : State} {d : Nat} (hd : d < 4) (hz : unitSt s d = .zeroing) :
    zeroingRun s d = if (wakeOf s d).stopIdle then enterIdle (stacksOn (clearStaging s d) d) d
      else startUngate (clearStaging s d) d := by
  unfold zeroingRun
  rw [if_neg (by simp [hz]), if_pos hd]
  rfl

theorem zeroingRun_ste {s : State} (hz : unitSt s dieSTE = .zeroing) :
    zeroingRun s dieSTE = startUngate { s with mem := { s.mem with scratch := [] } } dieSTE := by
  unfold zeroingRun
  rw [if_neg (by simp [hz]), if_neg (by decide)]

/-- The zeroing of a Flow die touches its memory as `clearStaging` does, and the power domain. -/
theorem zeroingRun_flow_mem {s : State} {d : Nat} (hd : d < 4) (hz : unitSt s d = .zeroing) :
    zeroingRun s d = { s with pwr := (zeroingRun s d).pwr, mem := (clearStaging s d).mem } := by
  rw [zeroingRun_flow hd hz]
  split
  · rw [stacksOn_units]; rfl
  · rfl

theorem unitSt_zeroingRun_flow {s : State} {d : Nat} (hd : d < 4) (hz : unitSt s d = .zeroing) :
    unitSt (zeroingRun s d) d = if (wakeOf s d).stopIdle then .idle else .waking := by
  rw [zeroingRun_flow hd hz]
  split
  · rw [unitSt_enterIdle, if_pos rfl]
  · rw [unitSt_startUngate, if_pos rfl]

/-! ## Clock ungating -/

theorem clockUngateRun_ste {s : State} (hp : s.pwr.phase = some { unit := dieSTE, kind := .ungate })
    (hu : unitSt s dieSTE = .waking) : clockUngateRun s = startRom (endPhase s) := by
  unfold clockUngateRun
  rw [hp]
  dsimp only
  rw [if_neg (by simp [hu]), if_neg (by decide), if_pos (by decide)]

theorem clockUngateRun_other {s : State} {u : Nat} (h4 : 4 < u)
    (hp : s.pwr.phase = some { unit := u, kind := .ungate }) (hu : unitSt s u = .waking) :
    clockUngateRun s = dmcFollow (setUnit (endPhase s) u .on) := by
  unfold clockUngateRun
  rw [hp]
  dsimp only
  have hs : u ≠ dieSTE := Nat.ne_of_gt h4
  rw [if_neg (by simp [hu]), if_neg (by omega), if_neg (by simp [hs])]

/-- One DDR5 controller follows its hubs. -/
def dmcStep (s : State) (m : Nat) : State :=
  let any := (dmcHubs m).any fun h => isOn s (dieHUB + h)
  let u := dieDMC + m
  if any && unitSt s u == .retain then setUnit s u .on
  else if !any && unitSt s u == .on then setUnit s u .retain else s

theorem dmcFollow_eq (s : State) : dmcFollow s = dmcStep (dmcStep s 0) 1 := rfl

theorem dmcStep_units (s : State) (m : Nat) :
    dmcStep s m = { s with pwr := { s.pwr with units := (dmcStep s m).pwr.units } } := by
  unfold dmcStep
  dsimp only
  split
  · rfl
  · split <;> rfl

theorem unitSt_dmcStep_ne (s : State) {m v : Nat} (h : v ≠ dieDMC + m) : unitSt (dmcStep s m) v = unitSt s v := by
  unfold dmcStep
  dsimp only
  split
  · exact unitSt_setUnit_ne _ _ h
  · split
    · exact unitSt_setUnit_ne _ _ h
    · rfl

/-- The controllers change their own power states alone. -/
theorem dmcFollow_units (s : State) :
    dmcFollow s = { s with pwr := { s.pwr with units := (dmcFollow s).pwr.units } } := by
  rw [dmcFollow_eq, dmcStep_units, dmcStep_units]

theorem unitSt_dmcFollow_ne (s : State) {v : Nat} (h0 : v ≠ dieDMC) (h1 : v ≠ dieDMC + 1) :
    unitSt (dmcFollow s) v = unitSt s v := by
  rw [dmcFollow_eq, unitSt_dmcStep_ne _ h1, unitSt_dmcStep_ne _ h0]

/-! ## Entry into OFF -/

/-- A Flow die that is OFF: its staging range lost and its stacks in RETAIN (R46). -/
def flowOff (s : State) (d : Nat) : State :=
  modWake (stacksRetain (clearStaging (setUnit (endPhase s) d .off) d) d) d fun _ => {}

theorem offEntryRun_flow {s : State} {d : Nat} (hd : d < 4)
    (hp : s.pwr.phase = some { unit := d, kind := .gateDown }) (hu : unitSt s d = .powering) :
    offEntryRun s = if (wakeOf s d).again
      then startWake (modWake (flowOff s d) d fun x => { x with cmd := (wakeOf s d).cmd }) d else flowOff s d := by
  unfold offEntryRun
  rw [hp]
  dsimp only
  rw [if_neg (by simp [hu]), if_pos hd]
  rfl

theorem flowOff_eq (s : State) (d : Nat) : ∃ units wakes,
    flowOff s d = { s with
      pwr := { s.pwr with phase := none, units := units, wakes := wakes }
      mem := (clearStaging s d).mem } := by
  refine ⟨(stacksRetain (clearStaging (setUnit (endPhase s) d .off) d) d).pwr.units, (flowOff s d).pwr.wakes, ?_⟩
  unfold flowOff
  rw [stacksRetain_units]
  rfl

theorem unitSt_flowOff (s : State) {d : Nat} (hd : d < 4) : unitSt (flowOff s d) d = .off := by
  rw [flowOff, unitSt_modWake, unitSt_stacksRetain_ne _ _ hd, unitSt_clearStaging, unitSt_setUnit_same]

/-- The downward steps of a Flow die touch its memory as `clearStaging` does, and the power domain. -/
theorem offEntryRun_flow_eq {s : State} {d : Nat} (hd : d < 4)
    (hp : s.pwr.phase = some { unit := d, kind := .gateDown }) (hu : unitSt s d = .powering) : ∃ units wakes,
    offEntryRun s = { s with
      pwr := { s.pwr with
        phase := none
        units := units
        wakes := wakes
        wakeQ := s.pwr.wakeQ ++ (if (wakeOf s d).again then [{ unit := d, kind := .gateUp }] else []) }
      mem := (clearStaging s d).mem } := by
  obtain ⟨units, wakes, e⟩ := flowOff_eq s d
  rw [offEntryRun_flow hd hp hu, e]
  split
  · exact ⟨_, _, rfl⟩
  · exact ⟨units, wakes, by rw [List.append_nil]⟩

theorem unitSt_offEntryRun_flow {s : State} {d : Nat} (hd : d < 4)
    (hp : s.pwr.phase = some { unit := d, kind := .gateDown }) (hu : unitSt s d = .powering) :
    unitSt (offEntryRun s) d = if (wakeOf s d).again then .powering else .off := by
  rw [offEntryRun_flow hd hp hu]
  split
  · rw [unitSt_startWake, if_pos rfl]
  · exact unitSt_flowOff s hd

/-- Settles O10: each command by the equation of its operation. -/
theorem unitsTakeTheirStepPhases : Obligations.UnitsTakeTheirStepPhases := by
  refine ⟨fun s n u hr hn hu hprev off => ?_, fun s => ?_, fun s u hp hu => ?_, fun s u hd hz => ?_, fun s hz => ?_,
    fun s hp hu => ?_, fun s u h4 hp hu h0 h1 => ?_, fun s u hd hp hu => ?_⟩
  · rw [← upOrder_eq] at hu hprev
    have ready := upReady_of hn hu hprev
    subst hn
    have st : ∀ v, unitSt (modPwr (started s u) fun p => { p with upStep := p.upStep + 1 }) v =
        if u = v then startsAs s u else unitSt s v := fun v => unitSt_setUnit s u v _
    have stu := (st u).trans (if_pos rfl)
    refine ⟨_, congrArg Host.Outcome.next (powerupRun_eq hr ready hu off), rfl, rfl, rfl,
      fun v hv => (st v).trans (if_neg hv.symm), stu, ?_⟩
    rw [stu]; rfl
  · exact congrArg Host.Outcome.next (wakePhaseRun_eq s)
  · refine ⟨_, congrArg Host.Outcome.next (powerGateRun_eq hp hu), ?_⟩
    split
    · exact ⟨rfl, rfl, fun v hv => unitSt_setUnit_ne _ _ hv, unitSt_setUnit_same _ _ _, (List.append_nil _).symm⟩
    · exact ⟨rfl, rfl, fun v hv => unitSt_setUnit_ne _ _ hv, unitSt_setUnit_same _ _ _, rfl⟩
  · have e := zeroingRun_flow_mem hd hz
    have mem : ∀ a, readByte (zeroingRun s u.val) a = readByte (clearStaging s u.val) a := fun a => by rw [e]; rfl
    refine ⟨_, rfl, ?_, unitSt_zeroingRun_flow hd hz, fun a h1 h2 => ?_, fun a h => ?_⟩
    · exact e.trans (by rw [e])
    · rw [mem, readByte_clearStaging_in h1 h2]
    · rw [mem, readByte_clearStaging_out h]
  · exact ⟨_, congrArg Host.Outcome.next (zeroingRun_ste hz), rfl, unitSt_setUnit_same _ _ _, rfl⟩
  · exact ⟨_, congrArg Host.Outcome.next (clockUngateRun_ste hp hu), rfl, unitSt_setUnit_same _ _ _, rfl,
      fun v hv => unitSt_setUnit_ne _ _ hv⟩
  · have e := dmcFollow_units (setUnit (endPhase s) u .on)
    refine ⟨_, congrArg Host.Outcome.next (clockUngateRun_other h4 hp hu), ?_, ?_, ?_, fun v hv v0 v1 => ?_⟩
    · rw [e]; rfl
    · rw [unitSt_dmcFollow_ne _ h0 h1, unitSt_setUnit_same]
    · rw [e]; rfl
    · rw [unitSt_dmcFollow_ne _ v0 v1]
      exact unitSt_setUnit_ne _ _ hv
  · obtain ⟨units, wakes, e⟩ := offEntryRun_flow_eq hd hp hu
    refine ⟨_, rfl, by rw [e], by rw [e], unitSt_offEntryRun_flow hd hp hu, by rw [e], fun a h => ?_⟩
    rw [e]
    exact readByte_clearStaging_out h

end Sys2Proof.Machine

/-!
Idle dies, their OFF period, idle engines, the hubs, and the commands of PWR.FLW_CMD (R43, R44, R46, R51, R69).
-/

namespace Sys2Proof.Machine

/-! ## IDLE_AFTER and OFF_AFTER -/

theorem idleAfterRun_idles {s : State} {d : Nat} (hu : unitSt s d = .on) (hp : diePending s d = false)
    (h : getReg s Reg.PWR_IDLE_AFTER ≠ 0#32) : idleAfterRun s d = enterIdle s d := by
  have h' : getRegN s Reg.PWR_IDLE_AFTER ≠ 0 := fun e => h (BitVec.eq_of_toNat_eq e)
  exact if_pos (by simp [isOn, hu, hp, h'])

theorem idleAfterRun_stays {s : State} {d : Nat}
    (h : unitSt s d ≠ .on ∨ diePending s d = true ∨ getReg s Reg.PWR_IDLE_AFTER = 0#32) : idleAfterRun s d = s := by
  refine if_neg ?_
  rcases h with h | h | h
  · simp [isOn, h]
  · simp [h]
  · simp [getRegN, h]

theorem offAfterRun_expires {s : State} {d : Nat} (hu : unitSt s d = .idle) (ht : (wakeOf s d).offTimer = true)
    (h : getReg s Reg.PWR_OFF_AFTER ≠ 0#32) :
    offAfterRun s d = if isLive s d then modWake s d fun w => { w with offTimer := false } else startOff s d := by
  have h' : getRegN s Reg.PWR_OFF_AFTER ≠ 0 := fun e => h (BitVec.eq_of_toNat_eq e)
  exact if_pos (by simp [hu, ht, h'])

theorem offTimer_enterIdle (s : State) (d : Nat) : (wakeOf (enterIdle s d) d).offTimer = true :=
  congrArg DieWake.offTimer (wakeOf_modWake_same (setUnit s d .idle) d _)

theorem offTimer_startOff (s : State) (d : Nat) : (wakeOf (startOff s d) d).offTimer = false :=
  congrArg DieWake.offTimer (wakeOf_modWake_same (setUnit s d .powering) d fun _ => {})

/-! ## Engines and hubs -/

theorem engineIdleRun_red {s : State} {n : Nat} (hn : n < 128) (h : engineJob s 0x11 (n / 32) (n % 32) = none) :
    engineIdleRun s .red n = setEngOn s 0x11 n false := by
  have per : enginesPer 0x11 = 32 := rfl
  refine if_neg ?_
  simp [kindPage, per, h, hn]

theorem hubOffRun_unneeded {s : State} {h : Nat} (hu : unitSt s (dieHUB + h) = .on) (hn : hubNeeded s h = false)
    (hm : s.mem.held = []) (hl : s.board.heldLink = []) :
    hubOffRun s h = queuePhase (setUnit s (dieHUB + h) .powering) (dieHUB + h) .gateDown :=
  if_pos (by simp [isOn, hu, hn, hm, hl])

theorem hubWakeRun_needed {s : State} {h : Nat} (hn : hubNeeded s h = true) (hu : unitSt s (dieHUB + h) = .off) :
    hubWakeRun s h = startWake s (dieHUB + h) := by
  refine (if_pos (by simp [hn])).trans (if_pos ?_)
  simp [hu]

/-! ## The commands of a Flow die -/

theorem flwWakeCmd_failed {s : State} {d : Nat} (h : unitSt s d = .failed) : flwWakeCmd s d = (stSTATE, s) := by
  unfold flwWakeCmd; rw [h]

theorem flwWakeCmd_on {s : State} {d : Nat} (h : unitSt s d = .on) : flwWakeCmd s d = (stOK, s) := by
  unfold flwWakeCmd; rw [h]

theorem flwWakeCmd_idle {s : State} {d : Nat} (h : unitSt s d = .idle) :
    flwWakeCmd s d = (stOK, modWake (startUngate (modWake s d fun w => { w with offTimer := false }) d) d
      fun w => { w with cmd := true }) := by
  unfold flwWakeCmd wakeDie; rw [h]

theorem flwIdleCmd_waking {s : State} {d : Nat} (h : unitSt s d = .waking) : flwIdleCmd s d = (stSTATE, s) := by
  unfold flwIdleCmd; rw [h]

theorem flwIdleCmd_on {s : State} {d : Nat} (h : unitSt s d = .on) (hp : diePending s d = false) :
    flwIdleCmd s d = (stOK, enterIdle s d) := by
  unfold flwIdleCmd; rw [h]; exact if_neg (Bool.eq_false_iff.1 hp)

theorem flwOffCmd_off {s : State} {d : Nat} (h : unitSt s d = .off) : flwOffCmd s d = (stSTATE, s) := by
  unfold flwOffCmd; rw [h]

theorem flwOffCmd_idle {s : State} {d : Nat} (h : unitSt s d = .idle) (hl : isLive s d = false) :
    flwOffCmd s d = (stOK, startOff s d) := by
  unfold flwOffCmd; rw [h]; exact if_neg (Bool.eq_false_iff.1 hl)

/-! ## The write of PWR.FLW_CMD -/

/-- The word that gives command `c` to die `d`. -/
theorem flwWord_fields (d : Fin 4) (c : Nat) (hc : c < 4) :
    fld (toWord (d.val + 0x10 * c)) 0 2 = d.val ∧ fld (toWord (d.val + 0x10 * c)) 4 2 = c := by
  simp only [fld, toWord, BitVec.toNat_ofNat, Nat.shiftRight_eq_div_pow]
  omega

/-- A command that reaches the page with EN at 1 is what the Flow die's agent does with it. -/
theorem regWrite_flwCmd {s : State} {who : Requester} (d : Fin 4) {c : Nat} (hc : c < 4)
    (h : Commands s who 0x02 0 0x044) :
    regWrite s (classOf who) 0#16 0x02 0 0x044 (toWord (d.val + 0x10 * c)) = wCmd (flwCmd s d.val c) := by
  obtain ⟨hd, hc'⟩ := flwWord_fields d c hc
  rw [regWrite_page (by decide) (by decide) rfl fun _ => h.2, settleWrite_plain _ (by decide) (by decide)]
  show wCmd (flwCmd s (fld _ 0 2) (fld _ 4 2)) = _
  rw [hd, hc']

theorem writeAt_flwCmd_ok {s t : State} {who : Requester} (d : Fin 4) {c : Nat} (hc : c < 4)
    (h : Commands s who 0x02 0 0x044) (ht : flwCmd s d.val c = (stOK, t)) :
    writeAt s who 0x02 0 0x044 (d.val + 0x10 * c) = t :=
  writeAt_ok _ h.1 (by decide) (by decide) (by decide) (by decide) ((regWrite_flwCmd d hc h).trans (by rw [ht]; rfl))

/-- A refusal of PWR.FLW_CMD: its record holds the die's power state in bits 15:8 (R51). -/
def flwRefused (s : State) (d : Nat) : State :=
  setRegFld (refuse s 0x02 0 stSTATE 0) (pageKey 0x02 0 + 0x01C) 8 8 (pcode (unitSt s d))

theorem writeAt_flwCmd_state {s : State} {who : Requester} (d : Fin 4) {c : Nat} (hc : c < 4)
    (h : Commands s who 0x02 0 0x044) (ht : flwCmd s d.val c = (stSTATE, s)) :
    writeAt s who 0x02 0 0x044 (d.val + 0x10 * c) = flwRefused s d.val := by
  rw [writeAt_eq _ h.1 (by decide) (by decide) (by decide) (by decide) _ (regWrite_flwCmd d hc h), ht,
    (flwWord_fields d c hc).1]
  rfl

theorem flwRefused_refusedWith (s : State) (d : Nat) : RefusedWith s (flwRefused s d) 0x02 0 stSTATE := by
  obtain ⟨-, code, count, others⟩ := refuse_refused s 0x02 0 stSTATE 0 (by decide) (by decide)
  refine ⟨rfl, ?_, ?_, fun k h1 h2 => ?_⟩
  · rw [flwRefused, getReg_setRegFld, if_pos rfl, fld_putFld_above _ _ _ (by decide) (by decide), code]
  · rw [flwRefused, getReg_setRegFld, if_neg (by decide), count]
  · rw [flwRefused, getReg_setRegFld, if_neg h1.symm, others k h1 h2]

theorem pcode_lt (p : PState) : pcode p < 2 ^ 8 := by cases p <;> decide

theorem flwRefused_code (s : State) (d : Nat) :
    fld (getReg (flwRefused s d) (Reg.PWR_IRQ_STAT + 0x00C)) 8 8 = pcode (unitSt s d) := by
  rw [flwRefused, getReg_setRegFld, if_pos (by decide), fld_putFld_same _ _ (by decide), Nat.mod_eq_of_lt (pcode_lt _)]

/-- What the statement says of each refusal. -/
theorem flwRefused_spec {s : State} {d : Nat} {p : PState} (h : unitSt s d = p) :
    RefusedWith s (flwRefused s d) 0x02 0 stSTATE ∧
      fld (getReg (flwRefused s d) (Reg.PWR_IRQ_STAT + 0x00C)) 8 8 = pcode p :=
  ⟨flwRefused_refusedWith s d, h ▸ flwRefused_code s d⟩

/-- Settles O11: each command by the equation of its operation; the commands of PWR.FLW_CMD through one register write. -/
theorem diesIdleSwitchOffAndWake : Obligations.DiesIdleSwitchOffAndWake := by
  refine ⟨fun s d hu hp h => ?_, fun s d h => ?_, fun s d hu ht h => ?_, fun s n hn h => ?_, fun s h hu hn hm hl => ?_,
    fun s h hn hu => ?_, fun s who d hc => ⟨fun hu => ?_, fun hu => ?_, fun hu => ?_, fun hu => ?_, fun hu hp => ?_,
      fun hu => ?_, fun hu hl => ?_⟩⟩
  · exact ⟨_, congrArg Host.Outcome.next (idleAfterRun_idles hu hp h), rfl, unitSt_setUnit_same _ _ _,
      offTimer_enterIdle s _, rfl, fun v hv => unitSt_setUnit_ne _ _ hv⟩
  · exact congrArg Host.Outcome.next (idleAfterRun_stays h)
  · refine ⟨_, congrArg Host.Outcome.next (offAfterRun_expires hu ht h), ?_⟩
    split
    · exact ⟨rfl, hu, (List.append_nil _).symm, congrArg DieWake.offTimer (wakeOf_modWake_same s _ _), fun _ _ => rfl⟩
    · exact ⟨rfl, unitSt_setUnit_same _ _ _, rfl, offTimer_startOff s _, fun v hv => unitSt_setUnit_ne _ _ hv⟩
  · exact ⟨_, congrArg Host.Outcome.next (engineIdleRun_red hn h), rfl, tget_tset_same _ _ _,
      fun k hk => tget_tset_ne _ _ hk.symm⟩
  · exact ⟨_, congrArg Host.Outcome.next (hubOffRun_unneeded hu hn hm hl), rfl, unitSt_setUnit_same _ _ _, rfl,
      fun v hv => unitSt_setUnit_ne _ _ hv⟩
  · exact ⟨_, congrArg Host.Outcome.next (hubWakeRun_needed hn hu), rfl, unitSt_setUnit_same _ _ _, rfl,
      fun v hv => unitSt_setUnit_ne _ _ hv⟩
  · exact ⟨_, congrArg Host.Outcome.next (writeAt_flwCmd_state d (c := 1) (by decide) hc (flwWakeCmd_failed hu)),
      flwRefused_spec hu⟩
  · exact congrArg Host.Outcome.next (writeAt_flwCmd_ok d (c := 1) (by decide) hc (flwWakeCmd_on hu))
  · exact ⟨_, congrArg Host.Outcome.next (writeAt_flwCmd_ok d (c := 1) (by decide) hc (flwWakeCmd_idle hu)), rfl,
      unitSt_setUnit_same _ _ _, congrArg DieWake.cmd (wakeOf_modWake_same _ _ _), rfl⟩
  · exact ⟨_, congrArg Host.Outcome.next (writeAt_flwCmd_state d (c := 2) (by decide) hc (flwIdleCmd_waking hu)),
      flwRefused_spec hu⟩
  · exact ⟨_, congrArg Host.Outcome.next (writeAt_flwCmd_ok d (c := 2) (by decide) hc (flwIdleCmd_on hu hp)), rfl,
      unitSt_setUnit_same _ _ _⟩
  · exact ⟨_, congrArg Host.Outcome.next (writeAt_flwCmd_state d (c := 3) (by decide) hc (flwOffCmd_off hu)),
      flwRefused_spec hu⟩
  · exact ⟨_, congrArg Host.Outcome.next (writeAt_flwCmd_ok d (c := 3) (by decide) hc (flwOffCmd_idle hu hl)), rfl,
      unitSt_setUnit_same _ _ _, rfl⟩

end Sys2Proof.Machine

/-!
One step of the block: the front command on the queue's rest, and the canonical forms that every step keeps
(R61, R68).
-/

namespace Sys2Proof.Machine

theorem step_nil {s : State} (h : s.pending = []) : step s = .next (idleStep s) := by
  unfold step; rw [h]

theorem step_cons {s : State} {c : Instr} {rest : List Instr} (h : s.pending = c :: rest) :
    step s = exec c { s with pending := rest } := by
  unfold step; rw [h]

/-- Settles O1: a step is a match on the queue of waiting commands. -/
theorem stepRunsTheFrontCommand : Obligations.StepRunsTheFrontCommand := by
  refine ⟨fun s c rest => step_cons rfl, fun s hq hr => (step_nil hq).trans ?_, fun s hq hr => (step_nil hq).trans ?_⟩
  · exact congrArg Host.Outcome.next (if_neg (Bool.eq_false_iff.1 hr))
  · exact congrArg Host.Outcome.next (if_pos hr)

/-- The return of SDSREF156 keeps what every command keeps but the loss that it ends. -/
theorem ref156Return_kept (s : State) : Kept s (ref156Return s) := by
  by_cases e : s.pwr.ref156 = true
  · rw [ref156Return_lost e]
    exact (Keep.refl s).toKept
  · have before : Kept s (modPwr s fun p => { p with ref156 := true }) := ⟨rfl, Nat.le_refl _, fun _ h => h, id, id, id⟩
    exact before.trans (ref156Return_keep (by simpa using e)).toKept

/-- Every command ends in a next state and keeps the queue, blown fuses and canonical forms, module resets included. -/
theorem exec_kept (c : Instr) (s : State) : ∃ t, exec c s = .next t ∧ Kept s t := by
  by_cases hr : c = .sdsref156Return
  · subst hr
    exact ⟨_, rfl, ref156Return_kept s⟩
  cases hc : causesModuleReset c with
  | false =>
    obtain ⟨t, ht, k⟩ := exec_keep c s hc hr
    exact ⟨t, ht, k.toKept⟩
  | true =>
    cases c with
    | vddAonRise => exact ⟨_, rfl, vddAonRise_kept (Keep.refl s).toKept⟩
    | railFault => exact ⟨_, rfl, railFaultRun_kept _ (Keep.refl s)⟩
    | resetAssert => exact ⟨_, rfl, resetAssertRun_kept _ (Keep.refl s)⟩
    | thermalTrip => exact ⟨_, rfl, tripRun_kept _ _ (Keep.refl s)⟩
    | _ => exact nomatch hc

theorem Canonical.of_kept {s t : State} (h : Canonical s) (k : Kept s t) : Canonical t := ⟨k.mem h.1, k.regs h.2⟩

/-- Settles O4: an idle step changes the time alone, and a command keeps canonical forms (`exec_kept`). -/
theorem stepsKeepMemoriesAndRegisterFileCanonical : Obligations.StepsKeepMemoriesAndRegisterFileCanonical := by
  intro s t h ht
  cases hq : s.pending with
  | nil =>
    cases (step_nil hq).symm.trans ht
    unfold idleStep
    split <;> exact h
  | cons c rest =>
    obtain ⟨u, hu, k⟩ := exec_kept c { s with pending := rest }
    cases hu.symm.trans ((step_cons hq).symm.trans ht)
    exact Canonical.of_kept (s := { s with pending := rest }) h k

end Sys2Proof.Machine

/-!
One register write with its checks in order (R61 to R68): what each check that fails records, and what a write that
reaches its page does.
-/

namespace Sys2Proof.Machine

/-! ## A write of a requester of the module -/

theorem writeBy_accessWrite {s : State} (who : Requester) (sid : BitVec 16) (a : Nat) (v : Word)
    (h : s.pwr.inReset = false) : writeBy s who sid a v = (accessWrite s (classOf who) sid a v).2.2 :=
  if_neg (Bool.eq_false_iff.1 h)

/-- A write that the block's page takes. -/
theorem writeBy_ok {s t : State} {who : Requester} {sid : BitVec 16} {a ty inst o d : Nat} {v : Word}
    (h : Reaches s who ty inst o) (ha : regTarget a = some (ty, inst, o)) (h4 : o % 4 = 0)
    (hw : regWrite s (classOf who) sid ty inst o v = (stOK, d, t)) : writeBy s who sid a v = t := by
  obtain ⟨c0, c1, c2, c3, c4⟩ := h
  rw [writeBy_accessWrite _ _ _ _ c0, accessWrite_eq v ha c1 c2 c3 c4 h4 _ hw]
  exact if_pos rfl

/-- A write that the block's page refuses; `PWR.FLW_CMD` has its own record. -/
theorem writeBy_refused {s t : State} {who : Requester} {sid : BitVec 16} {a ty inst o d st : Nat} {v : Word}
    (h : Reaches s who ty inst o) (ha : regTarget a = some (ty, inst, o)) (h4 : o % 4 = 0)
    (hw : regWrite s (classOf who) sid ty inst o v = (st, d, t)) (hst : st ≠ stOK) (hp : ty ≠ 0x02 ∨ o ≠ 0x044) :
    writeBy s who sid a v = refuse s ty inst st d := by
  obtain ⟨c0, c1, c2, c3, c4⟩ := h
  rw [writeBy_accessWrite _ _ _ _ c0, accessWrite_eq v ha c1 c2 c3 c4 h4 _ hw]
  refine (if_neg (by simpa using hst)).trans (if_neg ?_)
  rw [Bool.and_eq_true, beq_iff_eq, beq_iff_eq]
  exact fun e => hp.elim (· e.1) (· e.2)

/-! ## The checks before the page -/

section Checks

variable {s : State} {cls : Nat} {sid : BitVec 16} {a ty inst o : Nat} {v : Word}

theorem accessWrite_outside (h : regTarget a = none) :
    (accessWrite s cls sid a v).2.2 = refuse s 0x06 0 stRANGE 0x04 := by
  unfold accessWrite; rw [h]; rfl

variable (ha : regTarget a = some (ty, inst, o))
include ha

theorem accessWrite_noPage (h : pageExists ty inst = false) :
    (accessWrite s cls sid a v).2.2 = refuse s 0x06 0 stRANGE 0x04 := by
  unfold accessWrite; rw [ha]; simp only [h]; rfl

theorem accessWrite_unaligned (hp : pageExists ty inst = true) (h : o % 4 ≠ 0) :
    (accessWrite s cls sid a v).2.2 = refuse s ty inst stRANGE 0x03 := by
  unfold accessWrite; rw [ha]; simp [hp, h, refuseIn]

theorem accessWrite_noRight (hp : pageExists ty inst = true) (h4 : o % 4 = 0) (h : mayAccess s cls ty o true = false) :
    (accessWrite s cls sid a v).2.2 = refuse s ty inst stAUTH 0 := by
  unfold accessWrite; rw [ha]; simp [hp, h4, h, refuseIn]

theorem accessWrite_sealed (hp : pageExists ty inst = true) (h4 : o % 4 = 0) (hr : mayAccess s cls ty o true = true)
    (h : sealedReg s ty o = true) : (accessWrite s cls sid a v).2.2 = refuse s ty inst stSEALED 0 := by
  unfold accessWrite; rw [ha]; simp [hp, h4, hr, h, refuseIn]

theorem accessWrite_notReady (hp : pageExists ty inst = true) (h4 : o % 4 = 0) (hr : mayAccess s cls ty o true = true)
    (hs : sealedReg s ty o = false) (h : notReady s ty inst o = true) :
    (accessWrite s cls sid a v).2.2 = refuse s ty inst stNOTREADY 0 := by
  unfold accessWrite; rw [ha]; simp [hp, h4, hr, hs, h, refuseIn]

end Checks

theorem settleWrite_refused {ty before : Nat} {r : WRes} (h : r.1 ≠ stOK) : settleWrite ty before r = r := by
  unfold settleWrite
  refine if_neg ?_
  rw [Bool.and_eq_true, beq_iff_eq]
  exact fun e => h e.2

section Page

variable {s : State} {cls ty inst o : Nat} {sid : BitVec 16} {v : Word} (h0 : 0x040 ≤ o)
  (h1 : (regInfo ty o).isSome = true)
include h0 h1

/-- Steps 10 to 12 of R68 for a register that the page's own table defines. -/
theorem regWrite_own : regWrite s cls sid ty inst o v = settleWrite ty (service s)
    (if !(valueOk ty o v) then wBad s stRANGE
    else if isCommand ty o v && !(enOf s ty inst) then wBad s stSTATE
    else writePage s cls sid ty inst o v) := by
  have hn : (regInfo ty o).isNone = false := by rw [Option.isNone_eq_false_iff]; exact h1
  unfold regWrite
  rw [if_neg (Nat.not_lt.2 h0), hn, if_neg Bool.false_ne_true]

theorem regWrite_badValue (hv : valueOk ty o v = false) : regWrite s cls sid ty inst o v = (stRANGE, 2, s) := by
  rw [regWrite_own h0 h1, hv]
  exact settleWrite_refused (by decide : stRANGE ≠ stOK)

theorem regWrite_disabled (hv : valueOk ty o v = true) (hc : isCommand ty o v = true) (he : enOf s ty inst = false) :
    regWrite s cls sid ty inst o v = (stSTATE, 0, s) := by
  rw [regWrite_own h0 h1, hv, hc, he]
  exact settleWrite_refused (by decide : stSTATE ≠ stOK)

end Page

/-! ## Addresses -/

theorem regTarget_outside {a : Nat} (h : a < 0x0E000000000 ∨ 0x0E010000000 ≤ a) : regTarget a = none := by
  refine if_neg ?_
  rw [Bool.and_eq_true, decide_eq_true_eq, decide_eq_true_eq]
  unfold windowBase
  omega

theorem regTarget_window {a ty inst o : Nat} (h : a = 0x0E000000000 + ty * 0x100000 + inst * 0x1000 + o)
    (h1 : ty < 256) (h2 : inst < 256) (h3 : o < 4096) : regTarget a = some (ty, inst, o) := by
  have e : a = regAddr ty inst o := by unfold regAddr pageKey windowBase; omega
  rw [e, regTarget_regAddr ty inst o h1 h2 h3]

/-! ## A scratch register -/

/-- All 32 bits of `SYS.SCRATCH0` are RW. -/
theorem storeReg_scratch0 (s : State) (v : Word) : storeReg s 0x01 0 0x04C v = setReg s Reg.SYS_SCRATCH0 v := by
  have info : regInfo 0x01 0x04C = some { ofs := 0x04C, rw := 0xFFFFFFFF } := by decide
  have all : (v &&& toWord 0xFFFFFFFF) ||| (getReg s Reg.SYS_SCRATCH0 &&& ~~~ toWord 0xFFFFFFFF &&&
      ~~~ (v &&& toWord 0)) = v := by
    rw [show toWord 0xFFFFFFFF = BitVec.allOnes 32 by decide, BitVec.and_allOnes]
    simp
  unfold storeReg
  rw [info]
  exact congrArg (setReg s Reg.SYS_SCRATCH0) all

theorem regWrite_scratch0 (s : State) (cls : Nat) (sid : BitVec 16) (v : Word) :
    regWrite s cls sid 0x01 0 0x04C v = (stOK, 0, setReg s Reg.SYS_SCRATCH0 v) := by
  have plain : isCommand 0x01 0x04C v = false := by
    have info : regInfo 0x01 0x04C = some { ofs := 0x04C, rw := 0xFFFFFFFF } := by decide
    simp [isCommand, info, toWord]
  rw [regWrite_page (by decide) (by decide) rfl fun h => absurd (plain.symm.trans h) (by decide),
    settleWrite_plain _ (by decide) (by decide)]
  exact congrArg wOk (storeReg_scratch0 s v)

/-- A refused write, as the outcome of REGISTER_WRITE. -/
theorem registerWrite_refusedWith {s : State} {who : Requester} {a : BitVec 44} {v : Word} {ty inst st d : Nat}
    (hd : d < 256) (hst : st < 65536) (h : writeBy s who 0#16 a.toNat v = refuse s ty inst st d) :
    ∃ t, exec (.registerWrite who a v) s = .next t ∧ RefusedWith s t ty inst st :=
  ⟨_, congrArg Host.Outcome.next h, refuse_refused s ty inst st d hd hst⟩

/-- Settles O18: the checks in the order of R68, each by its lemma about `accessWrite` or the page's `regWrite`. -/
theorem registerWritesAreCheckedInOrder : Obligations.RegisterWritesAreCheckedInOrder := by
  refine ⟨fun s who a v hr ho => ?_, fun s who a v ty inst o hr ha h1 h2 h3 => ?_, fun s who v h => ?_⟩
  · exact registerWrite_refusedWith (by decide) (by decide)
      ((writeBy_accessWrite _ _ _ _ hr).trans (accessWrite_outside (regTarget_outside ho)))
  · have target := regTarget_window ha h1 h2 h3
    have by_access := writeBy_accessWrite who 0#16 a.toNat v hr
    refine ⟨fun hp => ?_, fun hp h4 => ?_, fun hp h4 hm => ?_, fun hp h4 hm hs => ?_, fun hp h4 hm hs hn => ?_,
      fun reach h4 h0 hi hf => ⟨fun hv => ?_, fun hv hc he => ?_⟩⟩
    · exact registerWrite_refusedWith (by decide) (by decide) (by_access.trans (accessWrite_noPage target hp))
    · exact registerWrite_refusedWith (by decide) (by decide) (by_access.trans (accessWrite_unaligned target hp h4))
    · exact registerWrite_refusedWith (by decide) (by decide) (by_access.trans (accessWrite_noRight target hp h4 hm))
    · exact registerWrite_refusedWith (by decide) (by decide)
        (by_access.trans (accessWrite_sealed target hp h4 hm hs))
    · exact registerWrite_refusedWith (by decide) (by decide)
        (by_access.trans (accessWrite_notReady target hp h4 hm hs hn))
    · exact registerWrite_refusedWith (by decide) (by decide)
        (writeBy_refused reach target h4 (regWrite_badValue h0 hi hv) (by decide) hf)
    · exact registerWrite_refusedWith (by decide) (by decide)
        (writeBy_refused reach target h4 (regWrite_disabled h0 hi hv hc he) (by decide) hf)
  · have target : regTarget (0x0E00010004C#44 : BitVec 44).toNat = some (0x01, 0, 0x04C) := by decide
    exact congrArg Host.Outcome.next (writeBy_ok h target (by decide) (regWrite_scratch0 s _ _ v))

end Sys2Proof.Machine

/-!
The host port's lanes, the hold of the mailbox and the doorbells (R15, R70, R88, R89).
-/

namespace Sys2Proof.Machine

/-! ## Lanes -/

/-- The word of `HST.PORT_STAT` for trained lanes: the width, and the lanes while the port is up (R70). -/
def portWord (l : BitVec 4) : Word := toWord (if hostWidth l = 0 then 0 else hostWidth l + 4 * l.toNat)

theorem setHostLanes_portStat (s : State) (l : BitVec 4) :
    getReg (setHostLanes s l) Reg.HST_PORT_STAT = portWord l := by
  have w : getReg (setRegN s Reg.HST_PORT_STAT (if hostWidth l == 0 then 0 else hostWidth l + 4 * l.toNat))
      Reg.HST_PORT_STAT = portWord l := by
    rw [getReg_setRegN, if_pos rfl]
    simp only [portWord, beq_iff_eq]
  unfold setHostLanes
  dsimp only
  split
  · exact w
  · exact ((raiseIrq_reports (ks := [Reg.HST_IRQ_STAT]) _ _ _ (by decide) (Reports.refl _ _)).regs _ (by decide)
      (by decide)).trans w

/-- Training outside reset with SDSREF156 present. -/
theorem hostTrain_eq {s : State} (l : BitVec 4) (h : s.pwr.inReset = false) (hc : s.pwr.ref156 = true) :
    hostTrain s l = setHostLanes s (l &&& usableLanes s) :=
  if_neg (by simp [h, hc])

/-- What the statement says of each training. -/
theorem setHostLanes_spec (s : State) (l : BitVec 4) :
    Reports [Reg.HST_PORT_STAT, Reg.HST_IRQ_STAT] s (setHostLanes s l) ∧
      getReg (setHostLanes s l) Reg.HST_PORT_STAT = portWord l :=
  ⟨setHostLanes_reports l (by simp) (Reports.refl _ _), setHostLanes_portStat s l⟩

theorem hostPortUp_down {s : State} (l : BitVec 4) (h : fld (getReg s Reg.HST_PORT_STAT) 0 2 = 0) :
    exec (.hostPortUp l) s = .next (hostTrain s l) :=
  congrArg Host.Outcome.next (if_pos (by rw [h]; rfl))

/-! ## The lock -/

section Lock

variable {s : State} {sid : BitVec 16}

theorem mbxLock_acquire_eq (s : State) (sid : BitVec 16) : mbxLock s sid 0x10000#32 =
    if sid == 0#16 || (fld (getReg s Reg.HST_MBX_LOCK) 0 16 != 0 && fld (getReg s Reg.HST_MBX_LOCK) 0 16 != sid.toNat)
    then (stRESOURCE, s) else (stOK, setRegFld s Reg.HST_MBX_LOCK 0 16 sid.toNat) := by
  unfold mbxLock
  exact if_pos (by decide)

theorem mbxLock_release_eq (s : State) (sid : BitVec 16) : mbxLock s sid 0x20000#32 =
    if sid == 0#16 || fld (getReg s Reg.HST_MBX_LOCK) 0 16 != sid.toNat
    then (stRESOURCE, s) else (stOK, setRegFld s Reg.HST_MBX_LOCK 0 16 0) := by
  unfold mbxLock
  exact (if_neg (by decide)).trans (if_pos (by decide))

theorem mbxLock_acquire (h0 : sid ≠ 0#16)
    (h : fld (getReg s Reg.HST_MBX_LOCK) 0 16 = 0 ∨ fld (getReg s Reg.HST_MBX_LOCK) 0 16 = sid.toNat) :
    mbxLock s sid 0x10000#32 = (stOK, setRegFld s Reg.HST_MBX_LOCK 0 16 sid.toNat) := by
  rw [mbxLock_acquire_eq, if_neg]
  rcases h with h | h <;> simp [h, h0]

theorem mbxLock_acquire_held (h0 : fld (getReg s Reg.HST_MBX_LOCK) 0 16 ≠ 0)
    (h : fld (getReg s Reg.HST_MBX_LOCK) 0 16 ≠ sid.toNat) : mbxLock s sid 0x10000#32 = (stRESOURCE, s) := by
  rw [mbxLock_acquire_eq, if_pos]
  simp [h, h0]

theorem mbxLock_release (h0 : sid ≠ 0#16) (h : fld (getReg s Reg.HST_MBX_LOCK) 0 16 = sid.toNat) :
    mbxLock s sid 0x20000#32 = (stOK, setRegFld s Reg.HST_MBX_LOCK 0 16 0) := by
  rw [mbxLock_release_eq, if_neg]
  simp [h, h0]

theorem mbxLock_release_other (h : fld (getReg s Reg.HST_MBX_LOCK) 0 16 ≠ sid.toNat) :
    mbxLock s sid 0x20000#32 = (stRESOURCE, s) := by
  rw [mbxLock_release_eq, if_pos]
  simp [h]

/-- A lock command that reaches the page with EN at 1 is what the lock does with it. -/
theorem regWrite_mbxLock {who : Requester} {v : Word} (h : Commands s who 0x06 0 0x0C0)
    (hv : valueOk 0x06 0x0C0 v = true) : regWrite s (classOf who) sid 0x06 0 0x0C0 v = wCmd (mbxLock s sid v) := by
  rw [regWrite_page (by decide) (by decide) hv fun _ => h.2, settleWrite_plain _ (by decide) (by decide)]
  rfl

theorem writeBy_mbxLock_ok {t : State} {who : Requester} {v : Word} (h : Commands s who 0x06 0 0x0C0)
    (hv : valueOk 0x06 0x0C0 v = true) (hl : mbxLock s sid v = (stOK, t)) :
    writeBy s who sid (regAddr 0x06 0 0x0C0) v = t :=
  writeBy_ok h.1 (regTarget_regAddr _ _ _ (by decide) (by decide) (by decide)) (by decide)
    ((regWrite_mbxLock h hv).trans (by rw [hl]; rfl))

theorem writeBy_mbxLock_refused {who : Requester} {v : Word} (h : Commands s who 0x06 0 0x0C0)
    (hv : valueOk 0x06 0x0C0 v = true) (hl : mbxLock s sid v = (stRESOURCE, s)) :
    writeBy s who sid (regAddr 0x06 0 0x0C0) v = refuse s 0x06 0 stRESOURCE 0 :=
  writeBy_refused h.1 (regTarget_regAddr _ _ _ (by decide) (by decide) (by decide)) (by decide)
    ((regWrite_mbxLock h hv).trans (by rw [hl]; rfl)) (by decide) (Or.inl (by decide))

end Lock

theorem refuse_resource (s : State) : RefusedWith s (refuse s 0x06 0 stRESOURCE 0) 0x06 0 stRESOURCE :=
  refuse_refused s 0x06 0 stRESOURCE 0 (by decide) (by decide)

/-! ## Doorbells -/

/-- The 16 bits of a doorbell write are all that the register takes. -/
theorem doorbellBits (bits : BitVec 16) : toWord bits.toNat &&& 0xFFFF#32 = bits.setWidth 32 := by
  have lt := bits.isLt
  refine BitVec.eq_of_toNat_eq ?_
  rw [BitVec.toNat_and, BitVec.toNat_setWidth, toWord, BitVec.toNat_ofNat,
    show (0xFFFF#32).toNat = 2 ^ 16 - 1 from rfl, Nat.and_two_pow_sub_one_eq_mod]
  omega

theorem setWidth_ne_zero {bits : BitVec 16} (h : bits ≠ 0#16) : bits.setWidth 32 ≠ 0#32 := fun e => h <| by
  have lt := bits.isLt
  have := congrArg BitVec.toNat e
  rw [BitVec.toNat_setWidth] at this
  refine BitVec.eq_of_toNat_eq ?_
  simp only [BitVec.toNat_ofNat] at this ⊢
  omega

/-- The doorbells to firmware after a ring, with the writer that is recorded (R89). -/
def rung (s : State) (cls : Nat) (sid bits : BitVec 16) : State :=
  setRegN (orReg s Reg.HST_MBX_H2F_DB (bits.setWidth 32)) Reg.HST_MBX_DB_SRC (sid.toNat + 2 ^ 16 * (cls % 4))

theorem ringFirmware_bits (s : State) (cls : Nat) (sid : BitVec 16) {bits : BitVec 16} (h : bits ≠ 0#16) :
    ringFirmware s cls sid (toWord bits.toNat) = rung s cls sid bits := by
  unfold ringFirmware
  rw [doorbellBits]
  exact if_neg (by simpa using setWidth_ne_zero h)

theorem getReg_rung (s : State) (cls : Nat) (sid bits : BitVec 16) (k : Nat) : getReg (rung s cls sid bits) k =
    if Reg.HST_MBX_DB_SRC = k then toWord (sid.toNat + 2 ^ 16 * (cls % 4))
    else if Reg.HST_MBX_H2F_DB = k then getReg s Reg.HST_MBX_H2F_DB ||| bits.setWidth 32 else getReg s k := by
  rw [rung, getReg_setRegN, getReg_orReg]

theorem writeBy_doorbell {s : State} {who : Requester} {sid bits : BitVec 16} (h : Commands s who 0x06 0 0x0C4)
    (hb : bits ≠ 0#16) :
    writeBy s who sid (regAddr 0x06 0 0x0C4) (toWord bits.toNat) = rung s (classOf who) sid bits := by
  refine writeBy_ok h.1 (regTarget_regAddr _ _ _ (by decide) (by decide) (by decide)) (by decide) (d := 0) ?_
  rw [regWrite_page (by decide) (by decide) rfl fun _ => h.2, settleWrite_plain _ (by decide) (by decide)]
  exact congrArg wOk (ringFirmware_bits s _ _ hb)

theorem f2hRun_eq {s : State} {bits : BitVec 16} (h : s.pwr.inReset = false) (hb : bits ≠ 0#16) :
    f2hRun s bits = raiseIrq (orReg s Reg.HST_MBX_F2H_DB (bits.setWidth 32)) 0x06 0 3 :=
  if_neg (by simp [h, hb])

/-- Settles O17: the port by `setHostLanes_spec`, the lock and the doorbells through one register write. -/
theorem hostPortMailboxAndDoorbells : Obligations.HostPortMailboxAndDoorbells := by
  refine ⟨fun s lanes hr hc => ⟨fun hd => ?_, ?_⟩, fun s who sid hc h0 => ⟨fun h => ?_, fun h h' => ?_, fun h => ?_,
    fun h => ?_⟩, fun s who sid bits hc hb => ?_, fun s bits hr hb => ?_⟩
  · exact ⟨_, (hostPortUp_down lanes hd).trans (congrArg Host.Outcome.next (hostTrain_eq lanes hr hc)),
      setHostLanes_spec _ _⟩
  · exact ⟨_, congrArg Host.Outcome.next (hostTrain_eq _ hr hc), setHostLanes_spec _ _⟩
  · exact congrArg Host.Outcome.next (writeBy_mbxLock_ok hc (by decide) (mbxLock_acquire h0 h))
  · exact ⟨_, congrArg Host.Outcome.next (writeBy_mbxLock_refused hc (by decide) (mbxLock_acquire_held h h')),
      refuse_resource s⟩
  · exact congrArg Host.Outcome.next (writeBy_mbxLock_ok hc (by decide) (mbxLock_release h0 h))
  · exact ⟨_, congrArg Host.Outcome.next (writeBy_mbxLock_refused hc (by decide) (mbxLock_release_other h)),
      refuse_resource s⟩
  · refine ⟨_, congrArg Host.Outcome.next (writeBy_doorbell hc hb), rfl, ?_, ?_, fun k h1 h2 => ?_⟩
    · rw [getReg_rung, if_neg (by decide), if_pos rfl]
    · rw [getReg_rung, if_pos rfl]
    · rw [getReg_rung, if_neg h2.symm, if_neg h1.symm]
  · refine ⟨_, congrArg Host.Outcome.next (f2hRun_eq hr hb), ?_, ?_⟩
    · exact raiseIrq_reports _ _ _ (by decide) ((Reports.refl _ _).orReg _ _ (Or.inl (by simp)))
    · rw [(raiseIrq_reports (ks := [Reg.HST_IRQ_STAT]) _ _ _ (by decide) (Reports.refl _ _)).regs _ (by decide)
        (by decide), getReg_orReg, if_pos rfl]

end Sys2Proof.Machine

/-!
What the completion of a failed descriptor leaves (R159, R166, R182): the descriptor is gone, its queue records the
failure, and no engine of another kind or page in a soft reset changes.
-/

namespace Sys2Proof.Machine

/-- From `s` to `t` the fetched descriptors, the optimizer engines and the pages in a soft reset are as they were. -/
structure SameWork (s t : State) : Prop where
  queues : t.flow.queues = s.flow.queues
  opt : t.opt = s.opt
  srst : t.hst.srst = s.hst.srst

namespace SameWork

theorem refl (s : State) : SameWork s s := ⟨rfl, rfl, rfl⟩

theorem trans {s t u : State} (a : SameWork s t) (b : SameWork t u) : SameWork s u :=
  ⟨b.queues.trans a.queues, b.opt.trans a.opt, b.srst.trans a.srst⟩

theorem ite {s a b : State} {c : Prop} [Decidable c] (ha : SameWork s a) (hb : SameWork s b) :
    SameWork s (if c then a else b) := by
  split
  · exact ha
  · exact hb

theorem foldl {α : Type} {f : State → α → State} (hf : ∀ s x, SameWork s (f s x)) (l : List α) (s : State) :
    SameWork s (l.foldl f s) := by
  induction l generalizing s with
  | nil => exact refl s
  | cons x l ih => exact (hf s x).trans (ih _)

theorem of_reports {ks : List Nat} {s t : State} (h : Reports ks s t) : SameWork s t :=
  ⟨by rw [h.rest], by rw [h.rest], by rw [h.hst]⟩

end SameWork

theorem queueOf_congr {s t : State} (h : t.flow.queues = s.flow.queues) (q : Nat) : queueOf t q = queueOf s q := by
  unfold queueOf; rw [h]

/-! ## Events, memory, tokens and messages -/

theorem setReg_sameWork (s : State) (k : Nat) (w : Word) : SameWork s (setReg s k w) := ⟨rfl, rfl, rfl⟩

theorem storeBytes_sameWork (s : State) (a : Nat) (bs : List Byte) : SameWork s (storeBytes s a bs) := ⟨rfl, rfl, rfl⟩

theorem setPoison_sameWork (s : State) (a : Nat) (b : Bool) : SameWork s (setPoison s a b) := ⟨rfl, rfl, rfl⟩

theorem setFresh_sameWork (s : State) (a : Nat) (b : Bool) : SameWork s (setFresh s a b) := ⟨rfl, rfl, rfl⟩

theorem raiseIrqArgs_sameWork (s : State) (ty inst bit status : Nat) (args : List Nat) :
    SameWork s (raiseIrqArgs s ty inst bit status args) :=
  .of_reports (raiseIrqArgs_reports (ks := [pageKey ty inst + 0x010]) _ _ _ _ _ List.mem_cons_self (Reports.refl _ _))

theorem countTraffic_sameWork (s : State) (a n : Nat) (b : Bool) : SameWork s (countTraffic s a n b) := by
  unfold countTraffic
  split
  · exact ⟨rfl, rfl, rfl⟩
  · exact .refl s

theorem writeGranule_sameWork (s : State) (a : Nat) (bs : List Byte) : SameWork s (writeGranule s a bs).2 := by
  unfold writeGranule
  split
  · exact .refl s
  split
  · exact .refl s
  dsimp only
  split
  · exact .refl s
  refine SameWork.trans ?_ (countTraffic_sameWork _ _ _ _)
  have store : SameWork s
      (storeBytes (if (a % 64 == 0 && bs.length == 64) = true then setPoison s a false else s) a bs) :=
    SameWork.trans (SameWork.ite (setPoison_sameWork s a false) (.refl s)) (storeBytes_sameWork _ _ _)
  split
  · exact store.trans (setFresh_sameWork _ _ _)
  · exact store

theorem writeMemN_sameWork (n : Nat) (s : State) (a : Nat) (bs : List Byte) : SameWork s (writeMemN n s a bs).2 := by
  induction n generalizing s a bs with
  | zero => exact .refl s
  | succ n ih =>
    unfold writeMemN
    split
    · exact .refl s
    · exact (writeGranule_sameWork s a _).trans (ih _ _ _)

theorem writeMem_sameWork (s : State) (a : Nat) (bs : List Byte) : SameWork s (writeMem s a bs).2 :=
  writeMemN_sameWork _ s a bs

theorem scramble_sameWork (s : State) (a n : Nat) : SameWork s (scramble s a n) :=
  (writeMem_sameWork s a _).trans ⟨rfl, rfl, rfl⟩

theorem wakeDie_sameWork (s : State) (d : Nat) : SameWork s (wakeDie s d) := by
  unfold wakeDie
  split
  · exact ⟨rfl, rfl, rfl⟩
  · exact ⟨rfl, rfl, rfl⟩
  · exact SameWork.ite ⟨rfl, rfl, rfl⟩ ⟨rfl, rfl, rfl⟩
  · exact ⟨rfl, rfl, rfl⟩
  · exact .refl s

theorem tokPoison_sameWork (s : State) (t : Nat) : SameWork s (tokPoison s t) :=
  SameWork.trans (t := setTok s t { tokOf s t with poison := true }) ⟨rfl, rfl, rfl⟩
    (SameWork.ite (.refl _) (wakeDie_sameWork _ _))

theorem tokLocal_poison_sameWork (s : State) (t dom : Nat) : SameWork s (tokLocal s t dom tokPoison).2 := by
  unfold tokLocal
  split
  · exact .refl s
  split
  · exact tokPoison_sameWork s t
  · exact .refl s

theorem sendMsg_sameWork (s : State) (n : Nat) (m : OutMsg) : SameWork s (sendMsg s n m) :=
  SameWork.ite ⟨rfl, rfl, rfl⟩ ⟨rfl, rfl, rfl⟩

theorem startTxn_sameWork (s : State) (x : Txn) : SameWork s (startTxn s x).2 := by
  unfold startTxn
  dsimp only
  split
  · exact ⟨rfl, rfl, rfl⟩
  split
  · refine SameWork.trans ?_ (sendMsg_sameWork _ _ _)
    exact ⟨rfl, rfl, rfl⟩
  · exact .refl s

theorem sendRegwr_sameWork (s : State) (q : Nat) (idx : Word) (kind : TxnKind) (pos dom reg tok value dest : Nat) :
    SameWork s (sendRegwr s q idx kind pos dom reg tok value dest).2 :=
  SameWork.trans (t := (takeTag s).2) ⟨rfl, rfl, rfl⟩ (startTxn_sameWork _ _)

/-! ## The parts of a failed completion -/

theorem recordOf_sameWork (s : State) (q : Nat) (d : Desc) (st det flags : Nat) :
    SameWork s (recordOf s q d st det flags) := by
  have record (t : State) (f : Nat) : SameWork t (writeRecord t q st (dType d) (d.engine.getD 0xFF) (dTag d) d.idx
      d.done f ((if d.waitPois then 1 else flags) + 2 * b2n d.woke + 4 * b2n d.remote) det) :=
    SameWork.ite (.refl t) (writeMem_sameWork t _ _)
  unfold recordOf
  by_cases released : (d.stage == .released) = true
  · rw [if_pos released]
    exact record s _
  · rw [if_neg released]
    exact SameWork.trans (t := (freeNat 32 s).2) ⟨rfl, rfl, rfl⟩ (record _ _)

theorem enginePageDone_sameWork (s : State) (q : Nat) (d : Desc) (st : Nat) :
    SameWork s (enginePageDone s q d st) := by
  unfold enginePageDone
  split
  · refine SameWork.ite (setReg_sameWork _ _ _) (SameWork.trans ?_ (raiseIrqArgs_sameWork _ _ _ _ _ _))
    exact setReg_sameWork _ _ _
  · exact .refl s

theorem poisonSig_sameWork (s : State) (q : Nat) (d : Desc) : SameWork s (poisonSig s q d) :=
  SameWork.ite (sendRegwr_sameWork _ _ _ _ _ _ _ _ _ _)
    (SameWork.ite (tokLocal_poison_sameWork _ _ _) (.refl s))

theorem poisonBodyToks_sameWork (s : State) (q : Nat) (d : Desc) : SameWork s (poisonBodyToks s q d) := by
  refine SameWork.ite (SameWork.ite (tokLocal_poison_sameWork _ _ _) (.refl s)) (SameWork.ite ?_ (.refl s))
  refine SameWork.foldl (fun t i => ?_) _ s
  exact SameWork.ite (SameWork.ite (tokLocal_poison_sameWork _ _ _) (sendRegwr_sameWork _ _ _ _ _ _ _ _ _ _))
    (.refl t)

/-- The queue with a failed completion recorded (R182). -/
def failedQueue (x : Queue) (st ty det tag : Nat) (idx : Word) (halt : Bool) : Queue :=
  { x with
    lastErr := toWord (st + ty * 2 ^ 16 + det * 2 ^ 24)
    lastIdx := idx
    lastTag := toWord tag
    state := if halt && (x.state == .running || x.state == .idle) then .halted else x.state }

theorem noteFailure_sameWork (s : State) (q st ty det tag : Nat) (idx : Word) (halt : Bool) :
    SameWork (setQueue s q (failedQueue (queueOf s q) st ty det tag idx halt))
      (noteFailure s q st ty det tag idx halt) := by
  unfold noteFailure
  extract_lets die x s1 s2 s3 s4
  have h2 : SameWork s1 s2 := setReg_sameWork s1 _ _
  have h3 : SameWork s1 s3 := h2.trans <|
    SameWork.ite ((setReg_sameWork s2 _ _).trans (raiseIrqArgs_sameWork _ _ _ _ _ _)) (.refl s2)
  have h4 : SameWork s1 s4 := h3.trans (SameWork.ite (raiseIrqArgs_sameWork _ _ _ _ _ _) (.refl s3))
  exact h4.trans (SameWork.ite (raiseIrqArgs_sameWork _ _ _ _ _ _) (.refl s4))

/-- A failed completion up to the descriptor's removal. -/
theorem failDesc_eq_dropDesc (s : State) (q : Nat) (d : Desc) (st det : Nat) (poison waited : Bool) :
    ∃ u, failDesc s q d st det poison waited = dropDesc u q d.idx ∧
      (queueOf u q).lastErr = toWord (st + dType d * 2 ^ 16 + det * 2 ^ 24) ∧ u.opt = s.opt ∧
      u.hst.srst = s.hst.srst := by
  refine ⟨_, rfl, ?_⟩
  have h0 := (recordOf_sameWork s q d st det (b2n waited)).trans (enginePageDone_sameWork _ q d st)
  generalize enginePageDone (recordOf s q d st det (b2n waited)) q d st = a at h0 ⊢
  have h1 := noteFailure_sameWork a q st (dType d) det (dTag d) d.idx (queueOf a q).errStop
  generalize noteFailure a q st (dType d) det (dTag d) d.idx (queueOf a q).errStop = b at h1 ⊢
  have h2 : SameWork b (if poison then poisonBodyToks (poisonSig b q d) q d else b) :=
    SameWork.ite ((poisonSig_sameWork b q d).trans (poisonBodyToks_sameWork _ q d)) (.refl b)
  generalize (if poison then poisonBodyToks (poisonSig b q d) q d else b) = c at h2 ⊢
  have h3 : SameWork c (if dType d == tyRECV then closeWindow c q d.idx else c) :=
    SameWork.ite ⟨rfl, rfl, rfl⟩ (.refl c)
  generalize (if dType d == tyRECV then closeWindow c q d.idx else c) = e at h3 ⊢
  have h4 : SameWork e (if dIrq d then raiseIrq e 0x10 (q / 16) 5 else e) :=
    SameWork.ite (raiseIrqArgs_sameWork _ _ _ _ _ _) (.refl e)
  have after := ((h1.trans h2).trans h3).trans h4
  refine ⟨?_, after.opt.trans h0.opt, after.srst.trans h0.srst⟩
  rw [queueOf_congr after.queues, queueOf_setQueue, if_pos rfl]
  rfl

theorem queueSettle_eq (s : State) (q : Nat) :
    queueSettle s q = setQueue s q { queueOf s q with state := .idle } ∨ queueSettle s q = s := by
  unfold queueSettle
  dsimp only
  split
  · exact Or.inl rfl
  · exact Or.inr rfl

/-- Settling a queue changes its state alone. -/
theorem queueSettle_keeps (s : State) (q : Nat) : (queueOf (queueSettle s q) q).descs = (queueOf s q).descs ∧
    (queueOf (queueSettle s q) q).lastErr = (queueOf s q).lastErr ∧ (queueSettle s q).opt = s.opt ∧
    (queueSettle s q).hst = s.hst := by
  rcases queueSettle_eq s q with e | e
  · rw [e, queueOf_setQueue, if_pos rfl]
    exact ⟨rfl, rfl, rfl, rfl⟩
  · rw [e]
    exact ⟨rfl, rfl, rfl, rfl⟩

/-- A failed descriptor is gone, and its queue records its status, type and detail. -/
theorem failDesc_gone (s : State) (q : Nat) (d : Desc) (st det : Nat) (poison waited : Bool) :
    findDesc (failDesc s q d st det poison waited) q d.idx = none ∧
      (queueOf (failDesc s q d st det poison waited) q).lastErr = toWord (st + dType d * 2 ^ 16 + det * 2 ^ 24) ∧
      (failDesc s q d st det poison waited).opt = s.opt ∧
      (failDesc s q d st det poison waited).hst.srst = s.hst.srst := by
  obtain ⟨u, e, err, opt, srst⟩ := failDesc_eq_dropDesc s q d st det poison waited
  rw [e]
  obtain ⟨hd, he, ho, hh⟩ := queueSettle_keeps (setQueue u q { queueOf u q with
    descs := (queueOf u q).descs.filter fun x => x.idx != d.idx, done := (queueOf u q).done + 1#32 }) q
  rw [queueOf_setQueue, if_pos rfl] at hd he
  refine ⟨?_, he.trans err, ho.trans opt, (congrArg Hst.srst hh).trans srst⟩
  show List.find? _ (queueOf (queueSettle _ q) q).descs = none
  rw [hd, List.find?_eq_none]
  intro x hx
  simpa using (List.mem_filter.1 hx).2

end Sys2Proof.Machine

/-!
Soft resets of the engines' pages, their end, and the self-tests (R64, R212, R240, R263).
-/

namespace Sys2Proof.Machine

/-! ## Pages -/

theorem pageInstances_lt (ty : Nat) : pageInstances ty < 256 := by
  unfold pageInstances
  split <;> decide

theorem inst_lt_of_pageExists {ty inst : Nat} (h : pageExists ty inst = true) : inst < 256 :=
  Nat.lt_trans (of_decide_eq_true h) (pageInstances_lt ty)

/-- A register of a page other than HST and EVR is none that a report writes beside the page's own. -/
theorem pageKey_notMem_reportKeys {ty inst o : Nat} (h6 : ty ≠ 6) (h7 : ty ≠ 7) (hi : inst < 256) (ho : o < 0x1000) :
    pageKey ty inst + o ∉ reportKeys := by
  simp only [reportKeys, pageKey, List.mem_cons, List.not_mem_nil, or_false, Reg.HST_IRQ_STAT, Reg.EVR_IRQ_STAT,
    Reg.EVR_CNT_LOST, Reg.EVR_CNT_SUPPRESSED]
  omega

/-- The pages of engines whose soft reset ends a running descriptor alone (R64). -/
abbrev EnginePage (ty : Nat) : Prop := ty = 0x11 ∨ ty = 0x12 ∨ ty = 0x13 ∨ ty = 0x16 ∨ ty = 0x47

namespace EnginePage

variable {ty : Nat} (h : EnginePage ty)
include h

theorem caps : enFixed ty = false ∧ capSrst ty = true ∧ capHold ty = true := by
  rcases h with rfl | rfl | rfl | rfl | rfl <;> decide

theorem bounds : 0x11 ≤ ty ∧ ty < 256 ∧ ty ≠ 0x40 := by
  unfold EnginePage at h; omega

theorem ctlActs (s : State) (inst : Nat) (en hold : Bool) : Machine.ctlActs s ty inst en hold = (stOK, s) := by
  rcases h with rfl | rfl | rfl | rfl | rfl <;> rfl

theorem srstStart (s : State) (inst : Nat) :
    Machine.srstStart s ty inst = resetPage (abortJob (setSrst s ty inst true) ty inst) ty inst := by
  rcases h with rfl | rfl | rfl | rfl | rfl <;> rfl

end EnginePage

/-! ## The write that asks for a soft reset -/

theorem bitOf_ctl (a b c : Bool) : bitOf (toWord (b2n a + 2 * b2n b + 4 * b2n c)) 0 = a ∧
    bitOf (toWord (b2n a + 2 * b2n b + 4 * b2n c)) 1 = b ∧ bitOf (toWord (b2n a + 2 * b2n b + 4 * b2n c)) 2 = c := by
  cases a <;> cases b <;> cases c <;> decide

/-- `PAGE_CTL` of a page with EN as it is and HOLD as given. -/
def ctlStored (s : State) (ty inst : Nat) (hold : Bool) : State :=
  setRegN s (pageKey ty inst + 0x008) (b2n (enOf s ty inst) + 4 * b2n hold)

theorem ctlWrite_srst {s : State} {ty : Nat} (inst : Nat) (hold : Bool) (h : EnginePage ty) :
    ctlWrite s ty inst (toWord (srstValue s ty inst hold)) =
      wOk (srstStart (ctlStored s ty inst (hold || holdOf s ty inst)) ty inst) := by
  obtain ⟨b0, b1, b2⟩ := bitOf_ctl (enOf s ty inst) true hold
  obtain ⟨fixed, srst, hold'⟩ := h.caps
  obtain ⟨-, -, hne⟩ := h.bounds
  unfold ctlWrite srstValue
  rw [show b2n (enOf s ty inst) + 2 = b2n (enOf s ty inst) + 2 * b2n true from rfl, b0, b1, b2]
  simp [fixed, srst, hold', hne, h.ctlActs, ctlStored]

theorem ctlWrite_noSrst (s : State) (ty inst : Nat) (hold : Bool) (h : capSrst ty = false) :
    ctlWrite s ty inst (toWord (srstValue s ty inst hold)) = (stRANGE, 2, s) := by
  obtain ⟨-, b1, -⟩ := bitOf_ctl (enOf s ty inst) true hold
  unfold ctlWrite srstValue
  rw [show b2n (enOf s ty inst) + 2 = b2n (enOf s ty inst) + 2 * b2n true from rfl, b1]
  exact if_pos (by simp [h])

theorem regWrite_ctl (s : State) (cls : Nat) (sid : BitVec 16) (ty inst : Nat) (v : Word) :
    regWrite s cls sid ty inst 0x008 v = settleWrite ty (service s) (ctlWrite s ty inst v) := rfl

theorem writeAt_srst {s : State} {who : Requester} {ty inst : Nat} (hold : Bool) (hp : EnginePage ty)
    (h : Reaches s who ty inst 0x008) : writeAt s who ty inst 0x008 (srstValue s ty inst hold) =
      srstStart (ctlStored s ty inst (hold || holdOf s ty inst)) ty inst := by
  obtain ⟨lo, hi, -⟩ := hp.bounds
  refine writeAt_ok (d := 0) _ h hi (inst_lt_of_pageExists h.2.1) (by decide) (by decide) ?_
  rw [regWrite_ctl, settleWrite_plain _ (by omega) (by omega), ctlWrite_srst inst hold hp]
  rfl

theorem writeAt_noSrst {s : State} {who : Requester} {ty inst : Nat} (hold : Bool) (hty : ty < 256)
    (hc : capSrst ty = false) (h : Reaches s who ty inst 0x008) :
    writeAt s who ty inst 0x008 (srstValue s ty inst hold) = refuse s ty inst stRANGE 2 := by
  refine writeAt_refused (t := s) _ h hty (inst_lt_of_pageExists h.2.1) (by decide) (by decide) ?_ (by decide)
    (Or.inr (by decide))
  rw [regWrite_ctl, ctlWrite_noSrst s ty inst hold hc]
  exact settleWrite_refused (by decide : stRANGE ≠ stOK)

/-! ## The page's registers in a soft reset -/

/-- The registers of a page but those that a soft reset keeps, at their reset values. -/
def pageCleared (s : State) (ty inst : Nat) : State :=
  { s with regs := s.regs.filter fun e => !(pageKey ty inst ≤ e.1 && e.1 < pageKey ty inst + 0x1000 &&
      !(srstKeeps ty inst (e.1 - pageKey ty inst))) }

/-- The keys that `pageCleared` leaves. -/
def clearLeaves (ty inst k : Nat) : Bool :=
  !(pageKey ty inst ≤ k && k < pageKey ty inst + 0x1000 && !(srstKeeps ty inst (k - pageKey ty inst)))

theorem getReg_pageCleared_kept {s : State} {ty inst k : Nat} (h : clearLeaves ty inst k = true) :
    getReg (pageCleared s ty inst) k = getReg s k := tget_filter _ (clearLeaves ty inst) k h

theorem getReg_pageCleared_reset {s : State} {ty inst k : Nat} (h : clearLeaves ty inst k = false) :
    getReg (pageCleared s ty inst) k = regDefault k := tget_filter_out _ (clearLeaves ty inst) k h

theorem clearLeaves_outside {ty inst k : Nat} (h : k ∉ (List.range 0x1000).map (pageKey ty inst + ·)) :
    clearLeaves ty inst k = true := by
  have out : ¬ (pageKey ty inst ≤ k ∧ k < pageKey ty inst + 0x1000) := fun c =>
    h (List.mem_map.2 ⟨k - pageKey ty inst, List.mem_range.2 (by omega), by omega⟩)
  simp only [clearLeaves, Bool.not_eq_true', Bool.and_eq_false_iff, decide_eq_false_iff_not]
  exact Or.inl (by omega)

theorem clearLeaves_inside {ty inst o : Nat} (h : o < 0x1000) :
    clearLeaves ty inst (pageKey ty inst + o) = srstKeeps ty inst o := by
  simp [clearLeaves, h]

theorem srstKeeps_pageCtl (ty inst : Nat) : srstKeeps ty inst 0x008 = true := rfl

theorem resetPage_reports (s : State) (ty inst : Nat) : Reports [] (pageCleared s ty inst) (resetPage s ty inst) :=
  settleQuiet_reports _ _ (Reports.refl _ _)

theorem resetPage_sameWork (s : State) (ty inst : Nat) : SameWork s (resetPage s ty inst) :=
  SameWork.trans (t := pageCleared s ty inst) ⟨rfl, rfl, rfl⟩ (.of_reports (resetPage_reports s ty inst))

theorem inSrst_setSrst {s t : State} {ty inst : Nat} (h : EnginePage ty)
    (ht : t.hst.srst = (setSrst s ty inst true).hst.srst) : inSrst t ty inst = true := by
  unfold inSrst
  rw [h.caps.2.1, ht]
  exact tget_tset_same _ _ _

/-- A soft reset of an idle engine's page (R64). -/
theorem pageReset_srstStart {s : State} {ty inst : Nat} (hold : Bool) (hp : EnginePage ty) (hi : inst < 256)
    (idle : pageJob s ty inst = none) :
    PageReset s (srstStart (ctlStored s ty inst hold) ty inst) ty inst hold := by
  have idle' : pageJob (setSrst (ctlStored s ty inst hold) ty inst true) ty inst = none := idle
  have start : srstStart (ctlStored s ty inst hold) ty inst =
      resetPage (setSrst (ctlStored s ty inst hold) ty inst true) ty inst := by
    rw [hp.srstStart, abortJob, idle']
  rw [start]
  have rep := resetPage_reports (setSrst (ctlStored s ty inst hold) ty inst true) ty inst
  have work := resetPage_sameWork (setSrst (ctlStored s ty inst hold) ty inst true) ty inst
  generalize resetPage (setSrst (ctlStored s ty inst hold) ty inst true) ty inst = t at rep work ⊢
  have page {o : Nat} (ho : o < 0x1000) : getReg t (pageKey ty inst + o) =
      getReg (pageCleared (setSrst (ctlStored s ty inst hold) ty inst true) ty inst) (pageKey ty inst + o) := by
    obtain ⟨lo, -, -⟩ := hp.bounds
    exact rep.regs _ (by simp) (pageKey_notMem_reportKeys (by omega) (by omega) hi ho)
  have ctl : ctlOf t ty inst = toWord (b2n (enOf s ty inst) + 2 * b2n false + 4 * b2n hold) := by
    unfold ctlOf
    rw [page (by decide), getReg_pageCleared_kept (by rw [clearLeaves_inside (by decide), srstKeeps_pageCtl])]
    exact getReg_setReg_same _ _ _
  obtain ⟨b0, -, b2⟩ := bitOf_ctl (enOf s ty inst) false hold
  refine ⟨inSrst_setSrst hp work.srst, (congrArg (bitOf · 0) ctl).trans b0, (congrArg (bitOf · 2) ctl).trans b2,
    fun o ho hk => ?_, ⟨?_, ?_, ?_, fun k h1 h2 => ?_⟩, fun k hk => ?_⟩
  · rw [page ho]
    exact getReg_pageCleared_reset ((clearLeaves_inside ho).trans hk)
  · rw [rep.rest]
    rfl
  · exact rep.evr
  · rw [rep.hst]
    rfl
  · rw [rep.regs k (by simp) h2, getReg_pageCleared_kept (clearLeaves_outside h1)]
    refine getReg_setReg_ne _ _ fun e => h1 ?_
    exact List.mem_map.2 ⟨0x008, List.mem_range.2 (by decide), e⟩
  · rw [work.srst]
    exact tget_tset_ne _ _ hk.symm

/-! ## A running descriptor -/

/-- A soft reset whose page's work ends in a state that still counts as the start for what is fetched. -/
theorem srstStart_work {m : State} {ty inst : Nat} (hp : EnginePage ty) :
    SameWork (abortJob (setSrst m ty inst true) ty inst) (srstStart m ty inst) := by
  rw [hp.srstStart]
  exact resetPage_sameWork _ _ _

theorem abortJob_opt {s : State} {inst q : Nat} {d : Desc} (h : pageJob s 0x12 inst = some (q, d)) :
    abortJob s 0x12 inst =
      failDesc (setOpt s inst {}) q { d with done := (optOf s inst).written } stABORTED 0 true false := by
  unfold abortJob; rw [h]; rfl

theorem abortJob_pln {s : State} {inst q : Nat} {d : Desc} (h : pageJob s 0x47 inst = some (q, d)) :
    abortJob s 0x47 inst = failDesc (scramble (scramble s (planOut d) (outBytesNeeded d)) (pWork d) (workBytes (pK d)))
      q d stABORTED 0 true false := by
  unfold abortJob; rw [h]; rfl

/-- A page is in a soft reset, and the descriptor that ran there is gone with ABORTED recorded in its queue. -/
def AbortedAt (t : State) (ty inst q : Nat) (d : Desc) : Prop :=
  inSrst t ty inst = true ∧ findDesc t q d.idx = none ∧ (queueOf t q).lastErr = toWord (stABORTED + dType d * 2 ^ 16)

theorem abortedAt_of_failDesc {m s t : State} {ty inst q : Nat} {d : Desc} (hp : EnginePage ty)
    (h : SameWork (failDesc s q d stABORTED 0 true false) t) (hs : s.hst.srst = (setSrst m ty inst true).hst.srst) :
    AbortedAt t ty inst q d := by
  obtain ⟨gone, err, -, srst⟩ := failDesc_gone s q d stABORTED 0 true false
  refine ⟨inSrst_setSrst hp (h.srst.trans (srst.trans hs)), ?_, ?_⟩
  · unfold findDesc at gone ⊢
    rw [queueOf_congr h.queues, gone]
  · rw [queueOf_congr h.queues, err, Nat.zero_mul, Nat.add_zero]

theorem srstStart_opt_aborts {s : State} {inst q : Nat} {d : Desc} (hold : Bool)
    (job : pageJob s 0x12 inst = some (q, d)) :
    AbortedAt (srstStart (ctlStored s 0x12 inst hold) 0x12 inst) 0x12 inst q d ∧
      optOf (srstStart (ctlStored s 0x12 inst hold) 0x12 inst) inst = {} := by
  have hp : EnginePage 0x12 := Or.inr (Or.inl rfl)
  have job' : pageJob (setSrst (ctlStored s 0x12 inst hold) 0x12 inst true) 0x12 inst = some (q, d) := job
  have work := srstStart_work (m := ctlStored s 0x12 inst hold) (inst := inst) hp
  rw [abortJob_opt job'] at work
  have aborted := abortedAt_of_failDesc (m := ctlStored s 0x12 inst hold) hp work rfl
  refine ⟨aborted, ?_⟩
  obtain ⟨-, -, opt, -⟩ := failDesc_gone (setOpt (setSrst (ctlStored s 0x12 inst hold) 0x12 inst true) inst {}) q
    { d with done := (optOf (setSrst (ctlStored s 0x12 inst hold) 0x12 inst true) inst).written } stABORTED 0 true false
  unfold optOf
  rw [work.opt, opt]
  exact tget_tset_same _ _ _

theorem srstStart_pln_aborts {s : State} {inst q : Nat} {d : Desc} (hold : Bool)
    (job : pageJob s 0x47 inst = some (q, d)) :
    AbortedAt (srstStart (ctlStored s 0x47 inst hold) 0x47 inst) 0x47 inst q d := by
  have hp : EnginePage 0x47 := Or.inr (Or.inr (Or.inr (Or.inr rfl)))
  have job' : pageJob (setSrst (ctlStored s 0x47 inst hold) 0x47 inst true) 0x47 inst = some (q, d) := job
  have work := srstStart_work (m := ctlStored s 0x47 inst hold) (inst := inst) hp
  rw [abortJob_pln job'] at work
  refine abortedAt_of_failDesc (m := ctlStored s 0x47 inst hold) hp work ?_
  exact ((scramble_sameWork _ (planOut d) (outBytesNeeded d)).trans (scramble_sameWork _ _ _)).srst

/-! ## The end of a soft reset -/

theorem srstDone_idle {s : State} {ty inst : Nat} (h : inSrst s ty inst = false) : srstDone s ty inst = s :=
  if_pos (by simp [h])

theorem srstDone_tests {s : State} {ty inst : Nat} (h : inSrst s ty inst = true) (ht : srstTests ty = true) :
    srstDone s ty inst = setEng (setSrst s ty inst false) ty inst
      { engOf s ty inst with testing := true, fromReset := true } :=
  (if_neg (by simp [h])).trans (if_pos ht)

theorem srstDone_plain {s : State} {ty inst : Nat} (h : inSrst s ty inst = true) (ht : srstTests ty = false)
    (hp : ty ≠ 0x31) : srstDone s ty inst = setSrst s ty inst false :=
  (if_neg (by simp [h])).trans ((if_neg (Bool.eq_false_iff.1 ht)).trans (if_neg (by simpa using hp)))

/-! ## Self-tests -/

theorem engTestCmd_held {s : State} {ty inst : Nat} (h : engineState s ty inst = 0x12) :
    engTestCmd s ty inst = (stOK, setEng s ty inst { engOf s ty inst with testing := true, fromReset := false }) :=
  if_pos (beq_iff_eq.2 h)

theorem engTestCmd_notHeld {s : State} {ty inst : Nat} (h : engineState s ty inst ≠ 0x12) :
    engTestCmd s ty inst = (stSTATE, s) := if_neg (by simpa using h)

/-- A write of GO that is the page's self-test command, where the engine is HELD and where it is not. -/
theorem writeAt_engTest {s : State} {who : Requester} {ty inst o : Nat} (h : Commands s who ty inst o)
    (hty : 0x11 ≤ ty ∧ ty < 256) (ho : 0x040 ≤ o ∧ o < 4096) (h4 : o % 4 = 0) (hi : (regInfo ty o).isSome = true)
    (hv : valueOk ty o (toWord 1) = true)
    (hw : writePage s (classOf who) 0#16 ty inst o (toWord 1) = wCmd (engTestCmd s ty inst)) :
    (engineState s ty inst = 0x12 → writeAt s who ty inst o 1 =
      setEng s ty inst { engOf s ty inst with testing := true, fromReset := false }) ∧
    (engineState s ty inst ≠ 0x12 → writeAt s who ty inst o 1 = refuse s ty inst stSTATE 0) := by
  have hinst := inst_lt_of_pageExists h.1.2.1
  have hr : regWrite s (classOf who) 0#16 ty inst o (toWord 1) = wCmd (engTestCmd s ty inst) := by
    rw [regWrite_page ho.1 hi hv fun _ => h.2, settleWrite_plain _ (by omega) (by omega), hw]
  refine ⟨fun held => ?_, fun held => ?_⟩
  · refine writeAt_ok (d := 0) _ h.1 hty.2 hinst ho.2 h4 ?_
    rw [hr, engTestCmd_held held]; rfl
  · refine writeAt_refused (t := s) _ h.1 hty.2 hinst ho.2 h4 ?_ (by decide) (Or.inl (by omega))
    rw [hr, engTestCmd_notHeld held]; rfl

theorem refuse_state (s : State) (ty inst : Nat) : RefusedWith s (refuse s ty inst stSTATE 0) ty inst stSTATE :=
  refuse_refused s ty inst stSTATE 0 (by decide) (by decide)

/-- The same as the outcome of a command that is this write. -/
theorem engTest_spec {c : Instr} {s : State} {who : Requester} {ty inst o : Nat}
    (hc : exec c s = .next (writeAt s who ty inst o 1))
    (hw : (engineState s ty inst = 0x12 → writeAt s who ty inst o 1 =
        setEng s ty inst { engOf s ty inst with testing := true, fromReset := false }) ∧
      (engineState s ty inst ≠ 0x12 → writeAt s who ty inst o 1 = refuse s ty inst stSTATE 0)) :
    (engineState s ty inst = 0x12 → exec c s = .next (setEng s ty inst
      { engOf s ty inst with testing := true, fromReset := false })) ∧
    (engineState s ty inst ≠ 0x12 → ∃ t, exec c s = .next t ∧ RefusedWith s t ty inst stSTATE) :=
  ⟨fun held => hc.trans (congrArg Host.Outcome.next (hw.1 held)),
    fun held => ⟨_, hc.trans (congrArg Host.Outcome.next (hw.2 held)), refuse_state s ty inst⟩⟩

/-! ## The end of a self-test -/

/-- The engine after its self-test (R212, R240). -/
def tested (x : EngSt) (pass : Bool) : EngSt :=
  { testing := false, faulty := if pass then x.faulty && !x.fromReset else true, fromReset := false }

/-- The engine's new state and its result, before a failure raises TEST_FAIL. -/
def testRecorded (s : State) (ty inst : Nat) (pass : Bool) : State :=
  match testStatOf ty with
  | some o =>
    setRegN (setEng s ty inst (tested (engOf s ty inst) pass)) (pageKey ty inst + o)
      (b2n pass + 2 + (if pass then fld (getReg s (pageKey ty inst + o)) 8 8
        else min (fld (getReg s (pageKey ty inst + o)) 8 8 + 1) 255) * 2 ^ 8)
  | none => setEng s ty inst (tested (engOf s ty inst) pass)

theorem testDone_idle {s : State} {ty inst : Nat} (pass : Bool) (h : (engOf s ty inst).testing = false) :
    testDone s ty inst pass = s := if_pos (by simp [h])

theorem testDone_eq {s : State} {ty inst : Nat} (pass : Bool) (h : (engOf s ty inst).testing = true) :
    testDone s ty inst pass =
      if pass then testRecorded s ty inst pass else raiseIrq (testRecorded s ty inst pass) ty inst 1 := by
  unfold testDone
  dsimp only
  rw [if_neg (by simp [h])]
  rfl

theorem testRecorded_eng (s : State) (ty inst : Nat) (pass : Bool) :
    (testRecorded s ty inst pass).eng = (setEng s ty inst (tested (engOf s ty inst) pass)).eng := by
  unfold testRecorded
  split <;> rfl

theorem testRecorded_reports (s : State) (ty inst : Nat) (pass : Bool) :
    Reports [pageKey ty inst + 0x010, pageKey ty inst + (testStatOf ty).getD 0x010]
      { s with eng := (testRecorded s ty inst pass).eng } (testRecorded s ty inst pass) := by
  rw [testRecorded_eng]
  unfold testRecorded
  split
  · rename_i o ho
    rw [ho]
    exact (Reports.refl _ (setEng s ty inst (tested (engOf s ty inst) pass))).setReg _ _ (Or.inl (by simp))
  · exact Reports.refl _ _

theorem testRecorded_result {s : State} {ty inst o : Nat} (pass : Bool) (ho : testStatOf ty = some o) :
    fld (getReg (testRecorded s ty inst pass) (pageKey ty inst + o)) 0 8 = b2n pass + 2 := by
  have hp : b2n pass ≤ 1 := by cases pass <;> decide
  unfold testRecorded
  rw [ho]
  dsimp only
  rw [getReg_setRegN, if_pos rfl]
  simp only [fld, toWord, BitVec.toNat_ofNat, Nat.shiftRight_zero]
  omega

theorem testStatOf_ne {ty o : Nat} (h : testStatOf ty = some o) : 0x010 < o ∧ o < 0x1000 := by
  unfold testStatOf at h
  split at h <;> cases h <;> decide

theorem testRecorded_irqStat (s : State) (ty inst : Nat) (pass : Bool) :
    getReg (testRecorded s ty inst pass) (pageKey ty inst + 0x010) = getReg s (pageKey ty inst + 0x010) := by
  unfold testRecorded
  split
  · rename_i o ho
    have lt := (testStatOf_ne ho).1
    exact getReg_setReg_ne _ _ (by omega)
  · rfl

theorem kindPage_bounds (k : EngineKind) : 8 ≤ kindPage k := by cases k <;> decide

/-- A self-test that ends (R212, R240, R263). -/
theorem testDone_spec {s : State} {ty inst : Nat} (pass : Bool) (hty : 8 ≤ ty) (hi : inst < 256)
    (h : (engOf s ty inst).testing = true) :
    Reports [pageKey ty inst + 0x010, pageKey ty inst + (testStatOf ty).getD 0x010]
        { s with eng := (testDone s ty inst pass).eng } (testDone s ty inst pass) ∧
      engOf (testDone s ty inst pass) ty inst = tested (engOf s ty inst) pass ∧
      (∀ ty' i, 256 * ty' + i ≠ 256 * ty + inst → engOf (testDone s ty inst pass) ty' i = engOf s ty' i) ∧
      (∀ o, testStatOf ty = some o →
        fld (getReg (testDone s ty inst pass) (pageKey ty inst + o)) 0 8 = b2n pass + 2) ∧
      getReg (testDone s ty inst pass) (pageKey ty inst + 0x010) =
        if pass then getReg s (pageKey ty inst + 0x010)
        else getReg s (pageKey ty inst + 0x010) ||| toWord (2 ^ 1) := by
  have other {o : Nat} (ho : o < 0x1000) := pageKey_notMem_reportKeys (ty := ty) (by omega) (by omega) hi ho
  have raised := raiseIrq_reports (ks := [pageKey ty inst + 0x010]) (s := testRecorded s ty inst pass) ty inst 1
    List.mem_cons_self (Reports.refl _ _)
  have eng : (testDone s ty inst pass).eng = (setEng s ty inst (tested (engOf s ty inst) pass)).eng := by
    rw [testDone_eq pass h, ← testRecorded_eng]
    split
    · rfl
    · rw [raised.rest]
  refine ⟨?_, ?_, fun ty' i hne => ?_, fun o ho => ?_, ?_⟩
  · have rec_ := testRecorded_reports s ty inst pass
    rw [eng, ← testRecorded_eng, testDone_eq pass h]
    split
    · exact rec_
    · exact rec_.trans (raised.mono (by simp))
  · unfold engOf
    rw [eng]
    exact tget_tset_same _ _ _
  · unfold engOf
    rw [eng]
    exact tget_tset_ne _ _ hne.symm
  · rw [testDone_eq pass h]
    obtain ⟨lo, hi'⟩ := testStatOf_ne ho
    split
    · exact testRecorded_result pass ho
    · rw [raised.regs _ (by simp; omega) (other hi'), testRecorded_result pass ho]
  · rw [testDone_eq pass h]
    split
    · exact testRecorded_irqStat s ty inst pass
    · rw [raiseIrq, raiseIrqArgs_stat _ _ _ _ _ _ (other (by decide)), testRecorded_irqStat]

theorem enginePage_of_contains {ty : Byte} (h : ([0x11#8, 0x12#8, 0x13#8, 0x16#8, 0x47#8] : List Byte).contains ty = true) :
    EnginePage ty.toNat := by
  simp only [List.contains_eq_mem, List.mem_cons, List.not_mem_nil, or_false, decide_eq_true_eq] at h
  rcases h with rfl | rfl | rfl | rfl | rfl <;> decide

/-- A command that asks for a soft reset of an idle engine. -/
theorem softReset_spec {c : Instr} {s : State} {who : Requester} {ty inst : Nat} (hold : Bool)
    (hc : exec c s = .next (writeAt s who ty inst 0x008 (srstValue s ty inst hold))) (hp : EnginePage ty)
    (h : Reaches s who ty inst 0x008) (idle : pageJob s ty inst = none) :
    ∃ t, exec c s = .next t ∧ PageReset s t ty inst (hold || holdOf s ty inst) :=
  ⟨_, hc.trans (congrArg Host.Outcome.next (writeAt_srst hold hp h)),
    pageReset_srstStart _ hp (inst_lt_of_pageExists h.2.1) idle⟩

/-- Settles O20: the writes of `PAGE_CTL` by `softReset_spec` and by what `failDesc` leaves, the ends by their
equations. -/
theorem softResetsAndSelfTests : Obligations.SoftResetsAndSelfTests := by
  refine ⟨fun s who => ⟨fun e h idle => ?_, fun e h idle => ?_, fun d h idle => ?_, fun ty inst hold hty h idle => ?_,
      fun ty inst hold h hc => ?_⟩, fun s who e q d h job => ?_, fun s who d q x h job => ?_,
    fun s ty inst h => ⟨fun ht => ?_, fun ht => ?_⟩, fun s ty inst h => ?_,
    fun s who => ⟨fun e h => ?_, fun e h => ?_, fun d h => ?_⟩, fun s k n pass hn h => ?_, fun s k n pass h => ?_⟩
  · exact softReset_spec false rfl (by decide) h idle
  · exact softReset_spec false rfl (by decide) h idle
  · exact softReset_spec false rfl (by decide) h idle
  · exact softReset_spec hold rfl (enginePage_of_contains hty) h idle
  · exact ⟨_, congrArg Host.Outcome.next (writeAt_noSrst hold ty.isLt hc h),
      refuse_refused s _ _ stRANGE 2 (by decide) (by decide)⟩
  · obtain ⟨⟨reset, gone, err⟩, eng⟩ := srstStart_opt_aborts (false || holdOf s 0x12 e.val) job
    exact ⟨_, congrArg Host.Outcome.next (writeAt_srst false (by decide) h), reset, gone, err, eng⟩
  · exact ⟨_, congrArg Host.Outcome.next (writeAt_srst false (by decide) h), srstStart_pln_aborts _ job⟩
  · refine congrArg Host.Outcome.next (srstDone_tests h ?_)
    rcases ht with rfl | rfl | rfl | rfl <;> decide
  · refine congrArg Host.Outcome.next (srstDone_plain h ?_ ?_)
    all_goals rcases ht with rfl | rfl | rfl | rfl <;> decide
  · exact congrArg Host.Outcome.next (srstDone_idle h)
  · exact engTest_spec rfl (writeAt_engTest h (by decide) (by decide) (by decide) (by decide) rfl rfl)
  · exact engTest_spec rfl (writeAt_engTest h (by decide) (by decide) (by decide) (by decide) rfl rfl)
  · exact engTest_spec rfl (writeAt_engTest h (by decide) (by decide) (by decide) (by decide) rfl rfl)
  · obtain ⟨rep, own, others, stat, irq⟩ := testDone_spec pass (kindPage_bounds k)
      (Nat.lt_trans hn (pageInstances_lt _)) h
    refine ⟨_, congrArg Host.Outcome.next (if_pos hn), rep, own, others, stat, fun hp => ?_, fun hp => ?_⟩
    · rw [irq, if_pos hp]
    · rw [irq, if_neg (by simp [hp]), BitVec.getLsbD_or, getLsbD_toWord_two_pow (by decide)]
      simp
  · refine congrArg Host.Outcome.next ?_
    split
    · exact testDone_idle pass h
    · rfl

end Sys2Proof.Machine

/-!
The path of a KRT frame (R68 steps 1 to 5, R71, R72, R80, R81): dropped and counted, resent from the cache, or accepted
and answered.
-/

namespace Sys2Proof.Machine

/-! ## Bytes of words -/

theorem leNat_leBytes (n v : Nat) : leNat (leBytes n v) = v % 256 ^ n := by
  induction n generalizing v with
  | zero => simp [leBytes, leNat, Nat.mod_one]
  | succ n ih =>
    rw [leBytes, leNat, ih, Nat.pow_succ', Nat.mod_mul, BitVec.toNat_ofNat]

/-- A word's four bytes spell the word. -/
theorem toWord_beNat_beBytes (w : Word) : toWord (beNat (beBytes 4 w.toNat)) = w := by
  have lt := w.isLt
  rw [beNat, beBytes, List.reverse_reverse, leNat_leBytes, Nat.mod_eq_of_lt (by omega)]
  exact (BitVec.ofNat_toNat 32 w).trans (BitVec.setWidth_eq w)

/-! ## Reception -/

@[simp] theorem sessOf_setSess_same (s : State) (i : Nat) (x : Session) : sessOf (setSess s i x) i = x :=
  tget_tset_same _ _ _

theorem sessOf_setSess_ne (s : State) {i j : Nat} (x : Session) (h : j ≠ i) : sessOf (setSess s i x) j = sessOf s j :=
  tget_tset_ne _ _ h.symm

/-- The session's slot with the source of its last verified frame (R73). -/
def heardFrom (s : State) (i : Nat) (f : KrtFrame) : State := setSess s i { sessOf s i with mac := f.src }

section Frame

variable {s : State} {op : Byte} {f : KrtFrame} {i : Nat}

theorem krtReceive_heard (h : Heard s f) (rest : State → State) : krtReceive s op f rest = rest s := by
  obtain ⟨listens, counter, answers, ready⟩ := h
  unfold krtReceive
  simp [listens, counter, answers, ready]

theorem krtReceive_counted {k : Nat} (hl : krtListens s = true) (hk : krtCounter s f = some k)
    (rest : State → State) : krtReceive s op f rest = krtDrop s k 5 := by
  unfold krtReceive
  simp [hl, hk]

theorem krtSession_verified
    (h : ((List.range 8).find? fun i => (sessOf s i).isOpen && (sessOf s i).sid == f.sid) = some i)
    (ht : krtTagOk (sessOf s i).keyIn op f = true) (rest : State → Nat → State) :
    krtSession s op f rest = rest (heardFrom s i f) i := by
  unfold krtSession
  rw [h]
  exact if_pos ht

theorem krtSession_unverified
    (h : ∀ i, ((List.range 8).find? fun i => (sessOf s i).isOpen && (sessOf s i).sid == f.sid) = some i →
      krtTagOk (sessOf s i).keyIn op f = false) (rest : State → Nat → State) :
    krtSession s op f rest = krtDrop s Reg.HST_CNT_AUTH 0 := by
  unfold krtSession
  split
  · rename_i i hi
    exact if_neg (by simp [h i hi])
  · rfl

theorem krt_inSession (h : InSession s op f i) (rest : State → Nat → State) :
    (krtReceive s op f fun s => krtSession s op f rest) = rest (heardFrom s i f) i := by
  obtain ⟨heard, slot, tag⟩ := h
  rw [krtReceive_heard heard]
  exact krtSession_verified slot tag rest

/-- The session of a verified frame is open and is the one that the frame names. -/
theorem InSession.session (h : InSession s op f i) : (sessOf s i).isOpen = true ∧ (sessOf s i).sid = f.sid := by
  obtain ⟨-, slot, -⟩ := h
  simpa using List.find?_some slot

end Frame

/-! ## A dropped frame -/

/-- The counters of dropped frames are written by no report. -/
theorem krtDrop_spec {s : State} {k bit : Nat} (h : k ≠ Reg.HST_IRQ_STAT) (h' : k ∉ reportKeys) :
    Reports [k, Reg.HST_IRQ_STAT] s (krtDrop s k bit) ∧ getReg (krtDrop s k bit) k = satAdd (getReg s k) 1 := by
  refine ⟨raiseIrq_reports _ _ _ (by simp [pageKey]) ((Reports.refl _ s).bumpReg _ _ (Or.inl (by simp))), ?_⟩
  have quiet : Reports [Reg.HST_IRQ_STAT] (bumpReg s k 1) (krtDrop s k bit) :=
    raiseIrq_reports _ _ _ (by decide) (Reports.refl _ _)
  rw [quiet.regs k (by simpa using h) h', getReg_bumpReg, if_pos rfl]

/-- The three counters of frames that step 1 or R71 drops. -/
theorem krtCounter_mem {s : State} {f : KrtFrame} {k : Nat} (h : krtCounter s f = some k) :
    k = Reg.HST_CNT_MAC ∨ k = Reg.HST_CNT_ETYPE ∨ k = Reg.HST_CNT_FORMAT := by
  unfold krtCounter at h
  split at h
  · cases h; exact Or.inl rfl
  · split at h
    · cases h; exact Or.inr (Or.inl rfl)
    · split at h <;> cases h
      exact Or.inr (Or.inr rfl)

/-! ## A request and the replay window -/

section Request

variable {s : State} {op : Byte} {f : KrtFrame} {i : Nat}
  {perform : Option (State → Session → Nat × List Byte × State)}

theorem replayOf_mac (x : Session) (m : BitVec 48) (seq : Word) : replayOf { x with mac := m } seq = replayOf x seq :=
  rfl

/-- The session of an accepted request (R73, R81). -/
def acceptedSess (s : State) (i : Nat) (f : KrtFrame) : Session := acceptSeq { sessOf s i with mac := f.src } f.seq

theorem accepted_eq (s : State) (i : Nat) (f : KrtFrame) :
    accepted s i f = setSess (heardFrom s i f) i (acceptedSess s i f) := by
  unfold accepted acceptedSess heardFrom
  simp only [sessOf_setSess_same]

theorem sessOf_accepted (s : State) (i : Nat) (f : KrtFrame) : sessOf (accepted s i f) i = acceptedSess s i f := by
  rw [accepted_eq, sessOf_setSess_same]

/-- An acceptance changes the window and the cache alone. -/
theorem acceptSeq_eq (x : Session) (seq : Word) : ∃ h mask cache,
    acceptSeq x seq = { x with h := h, mask := mask, cache := cache } := by
  unfold acceptSeq
  split
  · exact ⟨_, _, _, rfl⟩
  · exact ⟨x.h, _, x.cache, rfl⟩

theorem acceptedSess_eq (s : State) (i : Nat) (f : KrtFrame) : (acceptedSess s i f).isOpen = (sessOf s i).isOpen ∧
    (acceptedSess s i f).sid = (sessOf s i).sid ∧ (acceptedSess s i f).cls = (sessOf s i).cls := by
  obtain ⟨h, mask, cache, e⟩ := acceptSeq_eq { sessOf s i with mac := f.src } f.seq
  unfold acceptedSess
  rw [e]
  exact ⟨rfl, rfl, rfl⟩

theorem krtRequest_old (hs : f.seq.toNat < 0xFFFFFF00) (h : replayOf (sessOf s i) f.seq = .old) :
    krtRequest (heardFrom s i f) i op f perform = krtDrop (heardFrom s i f) Reg.HST_CNT_REPLAY 1 := by
  unfold krtRequest
  simp only [heardFrom, sessOf_setSess_same, replayOf_mac, h]
  exact if_neg (by omega)

theorem krtRequest_done {w : Word × KrtOut} (hs : f.seq.toNat < 0xFFFFFF00) (h : replayOf (sessOf s i) f.seq = .done)
    (hw : (sessOf s i).cache.find? (fun c => c.1 == f.seq) = some w) :
    krtRequest (heardFrom s i f) i op f perform = send (heardFrom s i f) (.krt w.2) := by
  unfold krtRequest
  simp only [heardFrom, sessOf_setSess_same, replayOf_mac, h, hw]
  exact if_neg (by omega)

theorem krtRequest_new {g : State → Session → Nat × List Byte × State} (hs : f.seq.toNat < 0xFFFFFF00)
    (h : replayOf (sessOf s i) f.seq = .new) : krtRequest (heardFrom s i f) i op f (some g) =
      finalReply (g (accepted s i f) (acceptedSess s i f)).2.2 i { sessOf s i with mac := f.src }
        (getReg s Reg.HST_ETYPE) op f (g (accepted s i f) (acceptedSess s i f)).1 (g (accepted s i f) (acceptedSess s i f)).2.1 := by
  rw [accepted_eq]
  unfold krtRequest
  simp only [heardFrom, sessOf_setSess_same, replayOf_mac, h, acceptedSess]
  exact if_neg (by omega)

/-- Only a PENDING leaves: the SEQ is taken as running (R82). -/
def pendingSess (x : Session) (seq : Word) : Session :=
  { x with running := seq :: x.running.filter (· != seq) }

theorem krtRequest_pending (hs : f.seq.toNat < 0xFFFFFF00) (h : replayOf (sessOf s i) f.seq = .new) :
    krtRequest (heardFrom s i f) i op f none =
      sessReply (setSess (accepted s i f) i (pendingSess (acceptedSess s i f) f.seq)) (acceptedSess s i f)
        (getReg s Reg.HST_ETYPE) op f stPENDING [] := by
  rw [accepted_eq]
  unfold krtRequest
  simp only [heardFrom, sessOf_setSess_same, replayOf_mac, h, acceptedSess]
  exact if_neg (by omega)

end Request

/-! ## The answer -/

/-- A final response is sent and cached (R72, R81). -/
theorem finalReply_replied {m : State} {i : Nat} {x : Session} {etype : Word} {op : Byte} {f : KrtFrame} {st : Nat}
    {payload : List Byte} (hx : x.sid = f.sid) :
    Replied m (finalReply m i x etype op f st payload) op f i st payload := by
  unfold finalReply
  dsimp only
  split
  · refine ⟨rfl, fun j hj => sessOf_setSess_ne _ _ hj, _, rfl, rfl, rfl, rfl, hx, rfl, rfl, rfl, rfl, fun _ _ => ?_⟩
    rw [sessOf_setSess_same]
    exact List.mem_cons_self
  · rename_i closed
    refine ⟨rfl, fun _ _ => rfl, _, rfl, rfl, rfl, rfl, hx, rfl, rfl, rfl, rfl, fun h1 h2 => absurd ?_ closed⟩
    rw [Bool.and_eq_true, beq_iff_eq]
    exact ⟨h1, h2.trans hx.symm⟩

/-- A new request of an operation is performed on the accepted session and answered with its outcome. -/
theorem krtOp_replied {s : State} {op : Byte} {f : KrtFrame} {i : Nat}
    {g : State → Session → Nat × List Byte × State} {r : Nat × List Byte × State} (h : NewRequest s op f i)
    (hr : g (accepted s i f) (acceptedSess s i f) = r) : Replied r.2.2 (krtOp s op f g) op f i r.1 r.2.1 := by
  obtain ⟨session, seq, new, shape⟩ := h
  have performed : krtShaped op f g (accepted s i f) (acceptedSess s i f) = r := (if_pos shape).trans hr
  unfold krtOp
  rw [krt_inSession session, krtRequest_new seq new, performed]
  exact finalReply_replied session.session.2

end Sys2Proof.Machine

/-!
Frames that are not verified or were taken before (R68, R71, R80, R81).
-/

namespace Sys2Proof.Machine

theorem krtCounter_apart {s : State} {f : KrtFrame} {k : Nat} (h : krtCounter s f = some k) :
    k ≠ Reg.HST_IRQ_STAT ∧ k ∉ reportKeys := by
  rcases krtCounter_mem h with rfl | rfl | rfl <;> decide

/-- A frame that no open session verifies is dropped and counted in `CNT_AUTH`, whatever would follow. -/
theorem krt_unverified {s : State} {op : Byte} {f : KrtFrame} (heard : Heard s f)
    (h : ∀ i, ((List.range 8).find? fun i => (sessOf s i).isOpen && (sessOf s i).sid == f.sid) = some i →
      krtTagOk (sessOf s i).keyIn op f = false) (rest : State → Nat → State) :
    (krtReceive s op f fun s => krtSession s op f rest) = krtDrop s Reg.HST_CNT_AUTH 0 := by
  rw [krtReceive_heard heard]
  exact krtSession_unverified h rest

/-- A SESSION frame that is no OPEN request goes the way of every request. -/
theorem sessionRun_heard {s : State} {f : KrtFrame} (heard : Heard s f) (h : isOpenReq f = false) :
    sessionRun s f = krtReceive s 0x07#8 f fun s => krtSession s 0x07#8 f fun s i =>
      krtRequest s i 0x07#8 f (some (krtShaped 0x07#8 f (sessionOp i f))) := by
  unfold sessionRun
  rw [krtReceive_heard heard, krtReceive_heard heard, h, if_neg Bool.false_ne_true]

theorem pendingRun_heard {s : State} {op : Byte} {f : KrtFrame} (heard : Heard s f)
    (h : op ≠ 0x07#8 ∨ isOpenReq f = false) :
    pendingRun s op f = krtReceive s op f fun s => krtSession s op f fun s i =>
      krtRequest s i op f (if krtShapeOk op f then none else some fun s _ => hstRefused s op 0 stRANGE 0x05) := by
  unfold pendingRun
  rw [krtReceive_heard heard, krtReceive_heard heard]
  refine if_neg ?_
  rw [Bool.and_eq_true, beq_iff_eq]
  exact fun e => h.elim (· e.1) fun h => Bool.false_ne_true (h.symm.trans e.2)

/-- The commands of a frame that only a session takes, with the operation that their tag covers. -/
def SessionFrame (c : Instr) (op : Byte) (f : KrtFrame) : Prop :=
  c = .rmw f ∧ op = 0x03#8 ∨ (∃ b, c = .read f b ∧ op = 0x01#8) ∨ (∃ b, c = .write f b ∧ op = 0x02#8) ∨
    c = .bulkRead f ∧ op = 0x04#8 ∨ c = .bulkWrite f ∧ op = 0x05#8 ∨ c = .notifyAck f ∧ op = 0x06#8 ∨
    (c = .krtPending op f ∧ op ≠ 0x07#8) ∨
    ((c = .close f ∨ c = .keepalive f ∨ c = .openSession f) ∧ op = 0x07#8 ∧ isOpenReq f = false)

/-- Each of them is a reception that hands the frame to its session. -/
theorem SessionFrame.exec {c : Instr} {op : Byte} {f : KrtFrame} (h : SessionFrame c op f) {s : State}
    (heard : Heard s f) : ∃ rest, exec c s = .next (krtReceive s op f fun s => krtSession s op f rest) := by
  rcases h with ⟨rfl, rfl⟩ | ⟨b, rfl, rfl⟩ | ⟨b, rfl, rfl⟩ | ⟨rfl, rfl⟩ | ⟨rfl, rfl⟩ | ⟨rfl, rfl⟩ | ⟨rfl, h⟩ |
    ⟨rfl | rfl | rfl, rfl, h⟩
  iterate 6 exact ⟨_, rfl⟩
  · exact ⟨_, congrArg Host.Outcome.next (pendingRun_heard heard (Or.inl h))⟩
  all_goals exact ⟨_, congrArg Host.Outcome.next (sessionRun_heard heard h)⟩

/-- Settles O15: the drops by `krtDrop_spec`, a SEQ already taken by the case of `krtRequest`. -/
theorem unverifiedAndReplayedFramesDoNothing : Obligations.UnverifiedAndReplayedFramesDoNothing := by
  refine ⟨fun s t c op f heard hc hv ht => ?_, fun s f k hl hk => ?_, fun s f i h hs hr => ?_,
    fun s f i w h hs hr hw b => ?_⟩
  · obtain ⟨rest, e⟩ := SessionFrame.exec hc heard
    cases (e.trans (congrArg Host.Outcome.next (krt_unverified heard hv rest))).symm.trans ht
    exact krtDrop_spec (by decide) (by decide)
  · obtain ⟨apart, quiet⟩ := krtCounter_apart hk
    have counted (op : Byte) (rest : State → State) :
        (.next (krtReceive s op f rest) : Host.Outcome State Fault Refusal) = .next (krtDrop s k 5) :=
      congrArg _ (krtReceive_counted hl hk rest)
    exact ⟨_, counted _ _, counted _ _, counted _ _, counted _ _, krtDrop_spec apart quiet⟩
  · refine ⟨_, congrArg Host.Outcome.next ((krt_inSession h _).trans (krtRequest_old hs hr)), ?_⟩
    exact krtDrop_spec (by decide) (by decide)
  · exact congrArg Host.Outcome.next ((krt_inSession h _).trans (krtRequest_done hs hr hw))

end Sys2Proof.Machine

/-!
The operations of a session (R74 to R76, R88): each as one equation, answered with its outcome.
-/

namespace Sys2Proof.Machine

/-! ## Words -/

section Words

variable {s : State} {x : Session} {a : Nat}

/-- A word of the register window is one access with the session's class. -/
theorem krtReadWord_window (bad : Bool) (h : a < 2 ^ 44) : krtReadWord s x 0x00#8 a bad =
    ((accessRead s x.cls a).1, (accessRead s x.cls a).2.1, beBytes 4 (accessRead s x.cls a).2.2.1.toNat,
      (accessRead s x.cls a).2.2.2) := by
  unfold krtReadWord
  exact (if_pos rfl).trans (if_neg (by omega))

/-- A word of the mailbox is its four bytes. -/
theorem krtReadWord_mailbox (h : a < 0x10000) (h4 : a % 4 = 0) (hr : hasRight s x.cls 0x06 false = true) :
    krtReadWord s x 0x01#8 a false =
      (stOK, 0#32, (scratchRead s (mbxBase + a) 4).1, (scratchRead s (mbxBase + a) 4).2) := by
  have inside : ¬ 0x10000 ≤ a := by omega
  unfold krtReadWord
  simp [inside, h4, hr]

variable {bs : List Byte}

theorem krtWriteWord_window (b : Option MbxPortB) (h : a < 2 ^ 44) :
    krtWriteWord s x 0x00#8 a bs b = accessWrite s x.cls x.sid a (toWord (beNat bs)) := by
  unfold krtWriteWord
  exact (if_pos rfl).trans (if_neg (by omega))

/-- The mailbox takes the bytes of the session that holds it (R88). -/
theorem krtWriteWord_held (h : a < 0x10000) (h4 : a % 4 = 0) (hl : fld (getReg s Reg.HST_MBX_LOCK) 0 16 = x.sid.toNat) :
    krtWriteWord s x 0x01#8 a bs none = (stOK, 0#32, scratchWrite s (mbxBase + a) bs) := by
  have inside : ¬ 0x10000 ≤ a := by omega
  unfold krtWriteWord
  simp [inside, h4, hl]

theorem krtWriteWord_notHeld (h : a < 0x10000) (h4 : a % 4 = 0)
    (hl : fld (getReg s Reg.HST_MBX_LOCK) 0 16 ≠ x.sid.toNat) :
    krtWriteWord s x 0x01#8 a bs none = refuseIn s 0x06 0 stRESOURCE 0 := by
  have inside : ¬ 0x10000 ≤ a := by omega
  unfold krtWriteWord
  simp [inside, h4, hl]

end Words

/-! ## Operations -/

section Operations

variable {s : State} {x : Session} {f : KrtFrame}

theorem krtRead_eq (bad : Bool) {r : Nat × Word × List Byte × State}
    (h : krtReadWord s x f.space f.address.toNat bad = r) :
    krtRead f bad s x = (r.1, if r.1 = stOK then r.2.2.1 else beBytes 4 r.2.1.toNat, r.2.2.2) := by
  subst h
  unfold krtRead
  simp only [beq_iff_eq]

theorem krtWrite_eq {b : Option MbxPortB} {r : Nat × Word × State}
    (h : krtWriteWord s x f.space f.address.toNat (krtPayload f) b = r) :
    krtWrite f b s x = (r.1, if r.1 = stOK then [] else beBytes 4 r.2.1.toNat, r.2.2) := by
  subst h
  unfold krtWrite
  simp only [beq_iff_eq]

/-- The new word of an RMW: MASK, then VALUE (R75). -/
def rmwWord (f : KrtFrame) (old : Word) : Word :=
  let mask := toWord (beAt (krtPayload f) 0 4)
  (old &&& ~~~ mask) ||| (toWord (beAt (krtPayload f) 4 4) &&& mask)

theorem krtRmw_refused {r : Nat × Word × Word × State} (hs : f.space = 0x00#8) (ha : f.address.toNat < 2 ^ 44)
    (hr : accessRead s x.cls f.address.toNat = r) (h : r.1 ≠ stOK) :
    krtRmw f s x = (r.1, beBytes 4 r.2.1.toNat, r.2.2.2) := by
  subst hr
  unfold krtRmw
  rw [hs, krtReadWord_window _ ha]
  exact if_pos (by simpa using h)

theorem krtRmw_window {r : Nat × Word × Word × State} {w : Nat × Word × State} (hs : f.space = 0x00#8)
    (ha : f.address.toNat < 2 ^ 44) (hr : accessRead s x.cls f.address.toNat = r) (h : r.1 = stOK)
    (hw : accessWrite r.2.2.2 x.cls x.sid f.address.toNat (rmwWord f r.2.2.1) = w) :
    krtRmw f s x = (w.1, if w.1 = stOK then beBytes 4 r.2.2.1.toNat else beBytes 4 w.2.1.toNat, w.2.2) := by
  subst hr hw
  unfold krtRmw
  rw [hs, krtReadWord_window _ ha]
  refine (if_neg (by simp [h])).trans ?_
  dsimp only
  rw [krtWriteWord_window _ ha, toWord_beNat_beBytes, toWord_beNat_beBytes]
  simp only [beq_iff_eq]
  rfl

theorem bulkInside_iff (a n : Nat) : bulkInside a n = true ↔ a / 4096 = (a + n - 1) / 4096 := beq_iff_eq

theorem krtBulkRead_inside {n : Nat} (hn : beAt (krtPayload f) 0 4 = n)
    (h : f.address.toNat / 4096 = (f.address.toNat + n - 1) / 4096) {r : Nat × Nat × Word × List Byte × State}
    (hr : bulkReadWords x f.space f.address.toNat (n / 4) 0 [] s = r) :
    krtBulkRead f s x =
      (r.1, if r.1 = stOK then r.2.2.2.1 else beBytes 4 r.2.1 ++ beBytes 4 r.2.2.1.toNat, r.2.2.2.2) := by
  subst hn hr
  unfold krtBulkRead
  dsimp only
  rw [(bulkInside_iff _ _).2 h]
  simp only [Bool.not_true, Bool.false_eq_true, if_false, beq_iff_eq]
  rfl

theorem krtBulkWrite_inside (h : f.address.toNat / 4096 = (f.address.toNat + f.length.toNat - 1) / 4096)
    {r : Nat × Nat × Word × State}
    (hr : bulkWriteWords x f.space f.address.toNat (krtPayload f) (f.length.toNat / 4) 0 s = r) :
    krtBulkWrite f s x = (r.1, if r.1 = stOK then [] else beBytes 4 r.2.1 ++ beBytes 4 r.2.2.1.toNat, r.2.2.2) := by
  subst hr
  unfold krtBulkWrite
  dsimp only
  rw [(bulkInside_iff _ _).2 h]
  simp only [Bool.not_true, Bool.false_eq_true, if_false, beq_iff_eq]
  rfl

/-- Bulk words that would cross a block of the mailbox: RANGE is recorded in HST, and no word is accessed (R76). -/
theorem krtBulkWrite_crosses (hs : f.space = 0x01#8)
    (h : f.address.toNat / 4096 ≠ (f.address.toNat + f.length.toNat - 1) / 4096) :
    krtBulkWrite f s x = (stRANGE, beBytes 4 0 ++ beBytes 4 (refuseIn s 0x06 0 stRANGE 0x04).2.1.toNat,
      refuse s 0x06 0 stRANGE 0x04) := by
  have crosses : bulkInside f.address.toNat f.length.toNat = false :=
    Bool.eq_false_iff.2 fun e => h ((bulkInside_iff _ _).1 e)
  unfold krtBulkWrite
  dsimp only
  rw [crosses]
  unfold bulkCrosses
  rw [hs]
  rfl

end Operations

theorem refuse_range (s : State) : RefusedWith s (refuse s 0x06 0 stRANGE 0x04) 0x06 0 stRANGE :=
  refuse_refused s 0x06 0 stRANGE 0x04 (by decide) (by decide)

/-- Settles O14: `krtOp_replied` with the equation of each operation. -/
theorem krtRequestsAccessAndAnswer : Obligations.KrtRequestsAccessAndAnswer := by
  refine ⟨fun s f i bad h hs ha => ?_, fun s f i h hs ha h4 hr => ?_, fun s f i b h hs ha => ?_,
    fun s f i h hs ha h4 => ⟨fun hl => ?_, fun hl => ?_⟩, fun s f i h hs ha => ⟨fun hr => ?_, fun hr => ?_⟩,
    fun s f i h => ?_, fun s f i h => ⟨fun hi => ?_, fun hc hs => ?_⟩⟩
  all_goals obtain ⟨-, sid, cls⟩ := acceptedSess_eq s i f
  · have word := krtReadWord_window (s := accepted s i f) (x := acceptedSess s i f) bad ha
    rw [← hs, cls] at word
    exact ⟨_, rfl, krtOp_replied h (krtRead_eq bad word)⟩
  · have word := krtReadWord_mailbox (s := accepted s i f) (x := acceptedSess s i f) ha h4 (by rw [cls]; exact hr)
    rw [← hs] at word
    exact ⟨_, rfl, krtOp_replied h (krtRead_eq false word)⟩
  · have word := krtWriteWord_window (s := accepted s i f) (x := acceptedSess s i f) (bs := krtPayload f) b ha
    rw [← hs, cls, sid] at word
    exact ⟨_, rfl, krtOp_replied h (krtWrite_eq word)⟩
  · have word := krtWriteWord_held (s := accepted s i f) (x := acceptedSess s i f) (bs := krtPayload f) ha h4
      (by rw [sid]; exact hl)
    rw [← hs] at word
    exact ⟨_, rfl, krtOp_replied h (krtWrite_eq word)⟩
  · have word := krtWriteWord_notHeld (s := accepted s i f) (x := acceptedSess s i f) (bs := krtPayload f) ha h4
      (by rw [sid]; exact hl)
    rw [← hs] at word
    exact ⟨_, _, rfl, refuse_resource _, krtOp_replied h (krtWrite_eq word)⟩
  · have performed := krtRmw_window (s := accepted s i f) (x := acceptedSess s i f) hs ha (by rw [cls]) hr
      (by rw [cls, sid])
    exact ⟨_, rfl, krtOp_replied h performed⟩
  · have performed := krtRmw_refused (s := accepted s i f) (x := acceptedSess s i f) hs ha (by rw [cls]) hr
    exact ⟨_, rfl, krtOp_replied h performed⟩
  · exact fun hi => ⟨_, rfl, krtOp_replied h (krtBulkRead_inside rfl hi rfl)⟩
  · exact ⟨_, rfl, krtOp_replied h (krtBulkWrite_inside hi rfl)⟩
  · exact ⟨_, _, rfl, refuse_range _, krtOp_replied h (krtBulkWrite_crosses hs hc)⟩

end Sys2Proof.Machine

/-!
Sessions: OPEN, CLOSE and KEEPALIVE, PENDING, the idle expiry, and the NOTIFY frames with their retry
(R77, R78, R82 to R84, R87).
-/

namespace Sys2Proof.Machine

/-! ## Bits of `HST.IRQ_STAT` through reports -/

/-- Every bit of `HST.IRQ_STAT` that is set in `s` is set in `t`. -/
def HstBitsStay (s t : State) : Prop :=
  ∀ b, (getReg s Reg.HST_IRQ_STAT).getLsbD b = true → (getReg t Reg.HST_IRQ_STAT).getLsbD b = true

namespace HstBitsStay

theorem refl (s : State) : HstBitsStay s s := fun _ h => h

theorem trans {s t u : State} (a : HstBitsStay s t) (b : HstBitsStay t u) : HstBitsStay s u :=
  fun k h => b k (a k h)

theorem of_regs {s t : State} (h : t.regs = s.regs) : HstBitsStay s t := fun b hb => by
  rwa [getReg_congr h]

theorem orReg (s : State) (k : Nat) (w : Word) : HstBitsStay s (orReg s k w) := fun b hb => by
  rw [getReg_orReg]
  split
  · rename_i e
    rw [e, BitVec.getLsbD_or, hb, Bool.true_or]
  · exact hb

theorem bumpReg (s : State) {k : Nat} (n : Nat) (h : k ≠ Reg.HST_IRQ_STAT) : HstBitsStay s (bumpReg s k n) :=
  fun b hb => by rwa [getReg_bumpReg, if_neg h]

end HstBitsStay

theorem notifySlot_regs (ty inst : Nat) (pend : Word) (p : State × Bool) (i : Nat) :
    (notifySlot ty inst pend p i).1.regs = p.1.regs := by
  unfold notifySlot
  dsimp only
  split
  · split <;> rfl
  · rfl

theorem notifySlots_regs (ty inst : Nat) (pend : Word) (l : List Nat) (p : State × Bool) :
    (l.foldl (notifySlot ty inst pend) p).1.regs = p.1.regs := by
  induction l generalizing p with
  | nil => rfl
  | cons i l ih => exact (ih _).trans (notifySlot_regs ty inst pend p i)

/-- A NOTIFY stores no register. -/
theorem notifyPage_regs (s : State) (ty inst : Nat) : (notifyPage s ty inst).1.regs = s.regs := by
  unfold notifyPage
  dsimp only
  split
  · rfl
  · split
    · rfl
    · exact notifySlots_regs _ _ _ _ _

theorem settleQuiet_hstBits (s : State) (ty inst : Nat) : HstBitsStay s (settleQuiet s ty inst) := by
  have h := HstBitsStay.of_regs (notifyPage_regs s ty inst)
  unfold settleQuiet
  split
  · rename_i t e; rw [e] at h; exact h
  · rename_i t e
    rw [e] at h
    exact (h.trans (HstBitsStay.orReg t _ _)).trans (.of_regs (notifyPage_regs _ _ _))

theorem loseRec_hstBits (s : State) (r : Rec) : HstBitsStay s (loseRec s r) := by
  unfold loseRec
  refine HstBitsStay.trans ?_ (HstBitsStay.orReg _ _ _)
  refine HstBitsStay.trans ?_ (HstBitsStay.bumpReg _ _ (by decide))
  exact .of_regs rfl

theorem fifoPush_hstBits (s : State) (r : Rec) : HstBitsStay s (fifoPush s r) := by
  unfold fifoPush
  split
  · exact .of_regs rfl
  split
  · exact loseRec_hstBits s r
  split
  · refine HstBitsStay.trans ?_ (loseRec_hstBits _ _)
    exact .of_regs rfl
  · exact loseRec_hstBits s r

theorem evrAdmit_hstBits (s : State) (r : Rec) : HstBitsStay s (evrAdmit s r) := by
  unfold evrAdmit
  dsimp only
  split
  · exact fifoPush_hstBits s r
  split
  · refine HstBitsStay.trans ?_ (fifoPush_hstBits _ _)
    exact .of_regs rfl
  · refine HstBitsStay.trans ?_ (HstBitsStay.bumpReg _ _ (by decide))
    exact .of_regs rfl

theorem evrSettle_hstBits (s : State) : HstBitsStay s (evrSettle s) := by
  unfold evrSettle
  split
  · exact settleQuiet_hstBits _ _ _
  · exact .refl _

theorem event_hstBits (s : State) (code page inst status : Nat) (args : List Nat) :
    HstBitsStay s (event s code page inst status args) :=
  (evrAdmit_hstBits s _).trans (evrSettle_hstBits _)

theorem irqSettle_hstBits (s : State) (ty inst : Nat) : HstBitsStay s (irqSettle s ty inst) := by
  have h := HstBitsStay.of_regs (notifyPage_regs s ty inst)
  unfold irqSettle
  split
  · rename_i t e; rw [e] at h; exact h
  · rename_i t e
    rw [e] at h
    exact ((h.trans (HstBitsStay.orReg t _ _)).trans (event_hstBits _ _ _ _ _ _)).trans
      (.of_regs (notifyPage_regs _ _ _))

/-- An interrupt bit of HST is set once it was raised. -/
theorem raiseIrq_hstBit (s : State) {b : Nat} (h : b < 32) :
    (getReg (raiseIrq s 0x06 0 b) Reg.HST_IRQ_STAT).getLsbD b = true := by
  have set_ : (getReg (orReg s Reg.HST_IRQ_STAT (toWord (2 ^ b))) Reg.HST_IRQ_STAT).getLsbD b = true := by
    rw [getReg_orReg, if_pos rfl, BitVec.getLsbD_or, getLsbD_toWord_two_pow h]
    simp
  exact irqSettle_hstBits _ _ _ b (event_hstBits _ _ _ _ _ _ b set_)

/-! ## OPEN -/

/-- What an unauthenticated answer leaves (R78). -/
theorem plainReply_spec (s : State) (op : Byte) (f : KrtFrame) (st : Nat) (payload : List Byte) :
    ∃ (o : KrtOut) (n : Nat), plainReply s op f st payload = { s with out := .krt o :: s.out, fresh := n } ∧
      o.status = BitVec.ofNat 16 st ∧ o.dst = f.src ∧ o.sid = 0#16 ∧ o.tag = f.tag ∧ o.payload = payload :=
  ⟨_, _, rfl, rfl, rfl, rfl, rfl, rfl⟩

theorem openSession_heard {s : State} {f : KrtFrame} (heard : Heard s f) (h : isOpenReq f = true) :
    sessionRun s f = openRun s f := by
  unfold sessionRun
  rw [krtReceive_heard heard]
  exact if_pos h

section Open

variable {s : State} {f : KrtFrame} (hr : f.respFlag = false) (hf : f.flagsHigh = 0#3) (hl : f.length = 232#16)
  (hp : openFieldsOk (krtPayload f) = true)
include hr hf hl hp

/-- The key, the class and the signature are judged after FLAGS, LENGTH and the fields (R78). -/
theorem openRun_unsigned (ha : openAuthOk s (krtPayload f) = false) :
    openRun s f = plainReply (refuse s 0x06 0 stAUTH 0) 0x07#8 f stAUTH [] := by
  unfold openRun
  dsimp only
  rw [if_neg (by simp [hr, hf, hl]), if_neg (by simp [hp]), if_pos (by simp [ha])]
  rfl

theorem openRun_granted {slot : Nat} (ha : openAuthOk s (krtPayload f) = true)
    (hslot : openSlot s (beAt (krtPayload f) 1 1) = some slot) :
    openRun s f = openGrant s f (krtPayload f) slot := by
  unfold openRun
  dsimp only
  rw [if_neg (by simp [hr, hf, hl]), if_neg (by simp [hp]), if_neg (by simp [ha]), hslot]

end Open

/-- The session that an OPEN request opens (R77, R78). -/
structure OpenedBy (s : State) (f : KrtFrame) (slot : Nat) (x : Session) : Prop where
  isOpen : x.isOpen = true
  cls : x.cls = beAt (krtPayload f) 1 1
  keySlot : x.keySlot = beAt (krtPayload f) 2 1
  mac : x.mac = f.src
  sid : x.sid = sidOf s.hst.openCount slot
  h : x.h = 0#32

/-- A granted OPEN fills its slot, counts, and answers OK. -/
theorem openGrant_eq (s : State) (f : KrtFrame) (slot : Nat) : ∃ x n payload, OpenedBy s f slot x ∧
    openGrant s f (krtPayload f) slot =
      plainReply (setSess { s with fresh := n, hst := { s.hst with openCount := s.hst.openCount + 1 } } slot x)
        0x07#8 f stOK payload := ⟨_, _, _, ⟨rfl, rfl, rfl, rfl, rfl, rfl⟩, rfl⟩

theorem openGrant_spec (s : State) (f : KrtFrame) (slot : Nat) : ∃ t o, openGrant s f (krtPayload f) slot = t ∧
    t = { s with hst := t.hst, out := .krt o :: s.out, fresh := t.fresh } ∧
    t.hst = { s.hst with sessions := t.hst.sessions, openCount := s.hst.openCount + 1 } ∧
    (∀ j, j ≠ slot → sessOf t j = sessOf s j) ∧ OpenedBy s f slot (sessOf t slot) ∧
    o.status = 0#16 ∧ o.dst = f.src ∧ o.sid = 0#16 ∧ o.tag = f.tag := by
  obtain ⟨x, n, payload, opened, grant⟩ := openGrant_eq s f slot
  obtain ⟨o, n', reply, status, dst, sid, tag, -⟩ := plainReply_spec
    (setSess { s with fresh := n, hst := { s.hst with openCount := s.hst.openCount + 1 } } slot x) 0x07#8 f stOK payload
  refine ⟨_, o, grant.trans reply, rfl, rfl, fun j hj => sessOf_setSess_ne _ _ hj, ?_, status, dst, sid, tag⟩
  show OpenedBy s f slot (tget _ (tset _ _ slot x) slot)
  rw [tget_tset_same]
  exact opened

/-! ## CLOSE, KEEPALIVE and the idle expiry -/

/-- A closed session empties its slot, and the mailbox is free when it held it (R83, R88). -/
theorem closeSession_eq (s : State) (i : Nat) : closeSession s i =
    if (sessOf s i).isOpen = true ∧ fld (getReg s Reg.HST_MBX_LOCK) 0 16 = (sessOf s i).sid.toNat
    then setSess (setRegFld s Reg.HST_MBX_LOCK 0 16 0) i {} else setSess s i {} := by
  unfold closeSession
  simp only [Bool.and_eq_true, beq_iff_eq]
  split <;> rfl

theorem sessOf_closeSession_same (s : State) (i : Nat) : sessOf (closeSession s i) i = {} := sessOf_setSess_same _ _ _

theorem sessOf_closeSession_ne (s : State) {i j : Nat} (h : j ≠ i) : sessOf (closeSession s i) j = sessOf s j := by
  rw [closeSession_eq]
  split <;> exact sessOf_setSess_ne _ _ h

theorem sessionOp_close {s : State} {f : KrtFrame} {i : Nat} (x : Session) (h : beAt (krtPayload f) 0 1 = 3) :
    sessionOp i f s x = (stOK, krtPayload f, closeSession s i) := if_pos (beq_iff_eq.2 h)

theorem sessionOp_keepalive {s : State} {f : KrtFrame} {i : Nat} (x : Session) (h : beAt (krtPayload f) 0 1 = 4) :
    sessionOp i f s x = (stOK, krtPayload f, s) := (if_neg (by simp [h])).trans (if_pos (beq_iff_eq.2 h))

/-- A SESSION request inside a session, answered with its outcome. -/
theorem sessionRun_new {s : State} {f : KrtFrame} {i : Nat} (h : NewRequest s 0x07#8 f i)
    (hs : isOpenReq f = false) : ∃ r, sessionOp i f (accepted s i f) (acceptedSess s i f) = r ∧
      sessionRun s f =
        finalReply r.2.2 i { sessOf s i with mac := f.src } (getReg s Reg.HST_ETYPE) 0x07#8 f r.1 r.2.1 := by
  obtain ⟨session, seq, new, shape⟩ := h
  refine ⟨_, rfl, ?_⟩
  have performed : krtShaped 0x07#8 f (sessionOp i f) (accepted s i f) (acceptedSess s i f) =
      sessionOp i f (accepted s i f) (acceptedSess s i f) := if_pos shape
  rw [sessionRun_heard session.1 hs, krt_inSession session, krtRequest_new seq new, performed]

/-- A final response changes no session but its own cache and what runs there. -/
theorem finalReply_isOpen (m : State) (i : Nat) (x : Session) (etype : Word) (op : Byte) (f : KrtFrame) (st : Nat)
    (payload : List Byte) : (sessOf (finalReply m i x etype op f st payload) i).isOpen = (sessOf m i).isOpen := by
  unfold finalReply
  dsimp only
  split
  · rw [sessOf_setSess_same]
    rfl
  · rfl

/-! ## PENDING, NOTIFY_ACK and NOTIFY_RETRY -/

theorem pendingRun_new {s : State} {op : Byte} {f : KrtFrame} {i : Nat} (h : NewRequest s op f i)
    (hs : op ≠ 0x07#8 ∨ isOpenReq f = false) : pendingRun s op f =
      sessReply (setSess (accepted s i f) i (pendingSess (acceptedSess s i f) f.seq)) (acceptedSess s i f)
        (getReg s Reg.HST_ETYPE) op f stPENDING [] := by
  obtain ⟨session, seq, new, shape⟩ := h
  rw [pendingRun_heard session.1 hs, krt_inSession session, shape]
  exact krtRequest_pending seq new

/-- An acknowledgement without payload or other flags removes the NOTIFY of its SEQ (R87). -/
theorem notifyAckRun_acked {s : State} {f : KrtFrame} {i : Nat} (h : InSession s 0x06#8 f i) (hr : f.respFlag = true)
    (hl : f.length = 0#16) (hf : f.flagsHigh = 0#3) : notifyAckRun s f = setSess (heardFrom s i f) i
      { sessOf s i with mac := f.src, unacked := (sessOf s i).unacked.filter fun n => n.seq != f.seq } := by
  unfold notifyAckRun
  rw [krt_inSession h]
  simp only [heardFrom, sessOf_setSess_same]
  rw [if_neg (by simp [hr]), if_neg (by simp [hl, hf])]

section Retry

variable {s : State} {i : Nat} {seq : Word} {n : Notify}
  (hn : (sessOf s i).unacked.find? (fun n => n.seq == seq) = some n)
include hn

/-- A NOTIFY that has tries left is sent again from its slot. -/
theorem notifyRetryRun_again (h : n.tries < fld (getReg s Reg.HST_NOTIFY_RETRY) 8 4) : ∃ x,
    notifyRetryRun s i seq = sendNotify (setSess s i x) x { n with tries := n.tries + 1 } := by
  unfold notifyRetryRun
  dsimp only
  rw [hn]
  exact ⟨_, if_pos h⟩

theorem notifyRetryRun_lost (h : fld (getReg s Reg.HST_NOTIFY_RETRY) 8 4 ≤ n.tries) :
    notifyRetryRun s i seq = raiseIrq (setSess s i { sessOf s i with
      unacked := (sessOf s i).unacked.filter fun m => m.seq != seq
      lost := (sessOf s i).lost + 1#32 }) 0x06 0 2 := by
  unfold notifyRetryRun
  dsimp only
  rw [hn]
  exact if_neg (by omega)

end Retry

/-- Settles O16: each command by the equation of its operation on a session. -/
theorem sessionsOpenCloseAndExpire : Obligations.SessionsOpenCloseAndExpire := by
  refine ⟨fun s f slot heard ho hr hf hl hp ha hslot => ?_, fun s f heard ho hr hf hl hp ha => ?_,
    fun s f i h hs hc => ?_, fun s f i h hs hk => ?_, fun s f i op h hs => ?_, fun s slot hopen => ?_, fun s hr => ?_,
    fun s f i h hr hl hf => ?_, fun s slot seq n hn => ⟨fun h => ?_, fun h => ?_⟩⟩
  · obtain ⟨t, o, grant, rest, hst, others, opened, reply⟩ := openGrant_spec s f slot
    have run := (openSession_heard heard ho).trans ((openRun_granted hr hf hl hp ha hslot).trans grant)
    have out := congrArg State.out rest
    exact ⟨t, congrArg Host.Outcome.next run, out ▸ rest, hst, others, opened.isOpen, opened.cls, opened.keySlot,
      opened.mac, opened.sid, opened.h, o, out, reply⟩
  · obtain ⟨o, n, reply, status, -, -, -, payload⟩ := plainReply_spec (refuse s 0x06 0 stAUTH 0) 0x07#8 f stAUTH []
    have refused := refuse_refused s 0x06 0 stAUTH 0 (by decide) (by decide)
    have run := (openSession_heard heard ho).trans ((openRun_unsigned hr hf hl hp ha).trans reply)
    generalize refuse s 0x06 0 stAUTH 0 = m at refused run
    exact ⟨_, m, congrArg Host.Outcome.next run, refused, rfl, o, by rw [refused.1], status, payload⟩
  · obtain ⟨r, e, run⟩ := sessionRun_new h hs
    rw [sessionOp_close _ hc] at e
    subst e
    refine ⟨_, congrArg Host.Outcome.next run, finalReply_replied h.1.session.2, ?_⟩
    rw [finalReply_isOpen, sessOf_closeSession_same]
  · obtain ⟨r, e, run⟩ := sessionRun_new h hs
    rw [sessionOp_keepalive _ hk] at e
    subst e
    refine ⟨_, congrArg Host.Outcome.next run, finalReply_replied h.1.session.2, ?_⟩
    rw [finalReply_isOpen, sessOf_accepted, (acceptedSess_eq s i f).1, h.1.session.1]
  · refine ⟨_, congrArg Host.Outcome.next (pendingRun_new h hs), rfl, ?_, _, rfl, rfl, rfl, rfl⟩
    show f.seq ∈ (sessOf (setSess _ i _) i).running
    rw [sessOf_setSess_same]
    exact List.mem_cons_self
  · refine ⟨_, congrArg Host.Outcome.next (if_pos hopen), sessOf_closeSession_same _ _,
      fun j hj => sessOf_closeSession_ne _ hj, ?_⟩
    rw [closeSession_eq]
    by_cases held : fld (getReg s Reg.HST_MBX_LOCK) 0 16 = (sessOf s slot.val).sid.toNat
    · rw [if_pos ⟨hopen, held⟩]
      refine ⟨rfl, fun k hk => getReg_setReg_ne _ _ hk.symm, fun _ => ?_, fun h => absurd held h⟩
      show fld (getReg (setRegFld s Reg.HST_MBX_LOCK 0 16 0) _) 0 16 = 0
      rw [getReg_setRegFld, if_pos rfl, fld_putFld_same _ _ (by decide), Nat.zero_mod]
    · rw [if_neg fun h => held h.2]
      exact ⟨rfl, fun _ _ => rfl, fun h => absurd h held, fun _ => rfl⟩
  · exact congrArg Host.Outcome.next (if_neg (Bool.eq_false_iff.1 hr))
  · exact congrArg Host.Outcome.next (notifyAckRun_acked h hr hl hf)
  · obtain ⟨x, run⟩ := notifyRetryRun_again hn h
    exact ⟨_, congrArg Host.Outcome.next run, rfl, _, rfl, rfl, rfl, rfl, rfl⟩
  · exact ⟨_, congrArg Host.Outcome.next (notifyRetryRun_lost hn h), raiseIrq_hstBit _ (by decide),
      raiseIrq_reports _ _ _ (by decide) (Reports.refl _ _)⟩

end Sys2Proof.Machine

/-!
States and frames that meet the hypotheses about register writes, soft resets and KRT requests.
-/

namespace Sys2Proof.Machine

/-! ## Register writes and soft resets -/

/-- Out of reset with `STE` and Flow die 0 ON and firmware running. -/
def hostRunning : State :=
  { pwr := { inReset := false, units := [(0, .on), (dieSTE, .on)] }, boot := { phase := .firmware } }

theorem commands_mailboxLock : Commands hostRunning .firmware 0x06 0 0x0C0 := ⟨⟨rfl, rfl, rfl, rfl, rfl⟩, rfl⟩

theorem reaches_idleOptimizer : Reaches hostRunning .firmware 0x12 3 0x008 ∧ pageJob hostRunning 0x12 3 = none :=
  ⟨⟨rfl, rfl, rfl, rfl, rfl⟩, rfl⟩

/-- A released OPTIM on optimizer engine 3 of Flow die 0. -/
def optimOnThree : Desc :=
  { raw := BitVec.ofNat 8 tyOPTIM :: zeros 63, idx := 7#32, stage := .released, engine := some 3 }

theorem reaches_busyOptimizer :
    Reaches (setQueue hostRunning 2 { descs := [optimOnThree] }) .firmware 0x12 3 0x008 ∧
      pageJob (setQueue hostRunning 2 { descs := [optimOnThree] }) 0x12 3 = some (2, optimOnThree) :=
  ⟨⟨rfl, rfl, rfl, rfl, rfl⟩, by decide +kernel⟩

/-! ## Requests of a session -/

/-- The host port FULL, the agent ready, and session 1 open with SID 9. -/
def sessionOpen : State := { hostRunning with
  regs := [(Reg.HST_PORT_STAT, 2#32)]
  hst := { answers := true, ready := true, sessions := [(1, { isOpen := true, sid := 9#16 })] } }

/-- A READ of `SYS.PART` by session 9. -/
def partRead : KrtFrame :=
  { dst := Config.moduleMac, src := 1#48, etype := 0x88B5#16, ver := 1#4, respFlag := false, flagsHigh := 0#3,
    sid := 9#16, seq := 1#32, tag := 0#16, status := 0#16, length := 0#16, space := 0#8, address := 0x0E00100040#64,
    payload := [], auth := [], size := 64 }

/-- The tag that a session's key gives a frame; the frame's own tag field has no part in it (R72). -/
def frameTag (key : BitVec 384) (op : Byte) (f : KrtFrame) : List Byte :=
  beBytes 16 ((Config.hmacSha384 key (krtInHeader op f ++ krtPayload f)).extractLsb' 256 128).toNat

theorem frameTag_auth (key : BitVec 384) (op : Byte) (f : KrtFrame) (auth : List Byte) :
    frameTag key op { f with auth := auth } = frameTag key op f := rfl

theorem krtTagOk_signed (key : BitVec 384) (op : Byte) (f : KrtFrame) :
    krtTagOk key op { f with auth := frameTag key op f } = true := by
  have e := frameTag_auth key op f (frameTag key op f)
  exact beq_iff_eq.2 e.symm

/-- The READ with the tag of the session's key. -/
def signedRead : KrtFrame := { partRead with auth := frameTag 0#384 0x01#8 partRead }

theorem newRequest_signedRead : NewRequest sessionOpen 0x01#8 signedRead 1 := by
  have counter : krtCounter sessionOpen signedRead = none := by
    have type : fld (getReg sessionOpen Reg.HST_ETYPE) 0 16 = 0x88B5 := by decide +kernel
    unfold krtCounter
    simp [type, signedRead, partRead]
  have key : (sessOf sessionOpen 1).keyIn = 0#384 := rfl
  have tag : krtTagOk (sessOf sessionOpen 1).keyIn 0x01#8 signedRead = true := key ▸ krtTagOk_signed _ _ _
  exact ⟨⟨⟨by decide +kernel, counter, rfl, rfl⟩, by decide +kernel, tag⟩, by decide, by decide +kernel,
    by decide +kernel⟩

end Sys2Proof.Machine
